-- ==== Sys2Proof/Word.lean ====
section
/-!
DEFINITION. The words of the FVK-880: how wide each kind of value is (R2, R25, R36, R61, R121 of spec/).
-/

namespace Sys2Proof

/-- One byte of memory. -/
abbrev Byte := BitVec 8

/-- One syllable of a code line (R29). -/
abbrev Syl := BitVec 32

/-- A general or address register, and any 64-bit special register (R82, R93). -/
abbrev W64 := BitVec 64

/-- A 256-byte stash row, a v register, or a row of a queue: byte `j` is bits `8j+7:8j` (R122). -/
abbrev Row := BitVec 2048

/-- A byte guard: bit `j` governs byte `j` of a row (R121). -/
abbrev BMask := BitVec 256

/-- A 32-byte sector (R9, R368). -/
abbrev Sector := BitVec 256

/-- The four engines of a core, coded as the engine field of a link word (R26). -/
inductive Engine where
  | scu | ve | ce | mx
  deriving DecidableEq, Repr

/-- The 2-bit code of an engine (R26). -/
def Engine.code : Engine → BitVec 2
  | .scu => 0
  | .ve => 1
  | .ce => 2
  | .mx => 3

/-- The engine a 2-bit code names (R26). -/
def Engine.ofCode (c : BitVec 2) : Engine :=
  if c = 0 then .scu else if c = 1 then .ve else if c = 2 then .ce else .mx

@[simp] theorem Engine.ofCode_code (e : Engine) : Engine.ofCode e.code = e := by
  cases e <;> rfl

end Sys2Proof
end

