-- ==== Sys2Proof/Syntax.lean ====
section
/-!
DEFINITION. The syntax of the machine: one constructor of `Instr` for each row of spec/opcode_table.json. A row with an
encoding is an instruction of one of the four engines (R42 to R46 of spec/02); a row without one is a step of the
hardware or of the outside world, and its arguments say which agent, entry or value the step concerns.
-/

namespace Sys2Proof

/-! ## Operands -/

/-- An SCU g-field (R40): a general register g0–g47, or a queue named by its pop or its peek code. -/
inductive GField where
  | r (n : BitVec 6)
  | pop (q : BitVec 3)
  | peek (q : BitVec 3)
  deriving DecidableEq, Repr

/-- A VE vector field (R40): v0–v31, or a queue named by its pop or its peek code. -/
inductive VField where
  | r (n : BitVec 5)
  | pop (q : BitVec 3)
  | peek (q : BitVec 3)
  deriving DecidableEq, Repr

/-- The register operand of a common major: a g-field on the SCU, an address register on the other engines
(R36, R209, R215). -/
inductive RF where
  | g (f : GField)
  | a (n : BitVec 4)
  deriving DecidableEq, Repr

/-- A guard (R34): predicate `p`, inverted when `neg`. On the VE it names a vector predicate. -/
structure Guard where
  p : BitVec 3
  neg : Bool
  deriving DecidableEq, Repr

/-- The addressing modes of Form D (R38). -/
inductive AMode where
  | off | idx | idxShift | swz
  deriving DecidableEq, Repr

/-- A Form D memory operand: base register, mode and field (R38). -/
structure MemOpnd where
  base : BitVec 4
  mode : AMode
  field : BitVec 6
  deriving DecidableEq, Repr

/-- The special registers of R93. -/
inductive SReg where
  | gtime | ptime | stallc | mpc | slackv | tokst | fovf | trapv | faultinfo | stashst | vflags
  | qcfg (n : BitVec 3) | flagr (k : BitVec 2) | lcnt (k : BitVec 2)
  | unfd | seeds | seedm | leasest
  deriving DecidableEq, Repr

/-- Compare conditions of CMP, CMPI and VCMP (R36, R107, R139). -/
inductive Cond where
  | eq | ne | lt | le | ltn | len
  deriving DecidableEq, Repr

/-- Compare conditions of VFCMP (R139). -/
inductive FCond where
  | eq | ne | lt | le | un | ord
  deriving DecidableEq, Repr

/-- Fence kinds (R210). -/
inductive FenceKind where
  | acq | rel | full
  deriving DecidableEq, Repr

/-- Agent scopes (R191). -/
inductive Scope where
  | engine | core | cluster | panel | slice | system
  deriving DecidableEq, Repr

/-- A storage mask (R192). -/
structure SMask where
  s : Bool
  g : Bool
  f : Bool
  deriving DecidableEq, Repr

/-- The selectors of AMESH (R110). -/
inductive MeshSel where
  | x | y | die | px | py | pw | ph | pos | index | packed | dmask
  deriving DecidableEq, Repr

/-- Load types (R178, R324). -/
inductive LdTy where
  | n8 | n16 | n32 | n64 | i8 | i16 | i32
  deriving DecidableEq, Repr

/-- Store widths (R179, R324). -/
inductive StTy where
  | n8 | n16 | n32 | n64
  deriving DecidableEq, Repr

/-- Atomic operations (R181, R325). -/
inductive AtOp where
  | add | and | or | xor | min | max | minn | maxn | xchg
  deriving DecidableEq, Repr

/-- Widths of RCAS (R326). -/
inductive RcasTy where
  | n64 | n32 | pair
  deriving DecidableEq, Repr

/-- Scopes of ICINV (R50). -/
inductive IcScope where
  | engine | core | panel | slice
  deriving DecidableEq, Repr

/-- Types of the floating-point vector instructions (R130). -/
inductive FTy where
  | f32 | f16 | bf16
  deriving DecidableEq, Repr

/-- Types of the integer vector instructions of major 5 (R130). -/
inductive ITy where
  | i32 | i16 | i8 | n32
  deriving DecidableEq, Repr

/-- Element widths (R130). -/
inductive WTy where
  | b32 | b16 | b8
  deriving DecidableEq, Repr

/-- Types of VWADD (R134). -/
inductive WaddTy where
  | i16 | i8 | n16
  deriving DecidableEq, Repr

/-- The formats of VCVT (R142), in the order of their codes. -/
inductive Fmt where
  | f32 | f16 | bf16 | e5m2 | e4m3 | e3m2 | e2m3 | e2m1 | i32 | i16 | i8 | n8 | t2 | e8m0
  deriving DecidableEq, Repr

/-- Destination formats of VQNT (R130, R144). -/
inductive QFmt where
  | e4m3 | e5m2 | e2m1 | i8
  deriving DecidableEq, Repr

/-- Patterns of VSHUF (R145). -/
inductive ShufPat where
  | unzip | zip | reverse | swap
  deriving DecidableEq, Repr

/-- Operations of VSCAN with their types (R149). -/
inductive ScanOp where
  | add (t : WTy)
  | max (t : WTy)
  | min (t : WTy)
  | fadd (t : FTy)
  deriving DecidableEq, Repr

/-- Key kinds of VKEY (R155). -/
inductive KeyTy where
  | m3 | m2 | h2
  deriving DecidableEq, Repr

/-- Formats of MMUL (R241). -/
inductive MFmt where
  | e4m3 | e5m2 | e3m2 | e2m3 | e2m1 | i8 | t2
  deriving DecidableEq, Repr

/-! ## Arguments of the steps without an encoding -/

/-- What the far end of a copy or peer put outside this package answers, when its end lies there (log 1): a reply code
(R314) and, for a read, the bytes with their meter region. -/
structure FarReply where
  code : BitVec 8
  data : BitVec 256
  region : BitVec 12
  deriving DecidableEq, Repr

/-- Kinds of remote request that a bridge station checks (R312, R313). -/
inductive ReqKind where
  | read (t : LdTy)
  | write (t : StTy)
  | atm (op : AtOp)
  | cas (w : RcasTy)
  | casn | enq | deq | chase | fadd | fminloc
  /-- the link word of a node, which an agent of another package reads for DEQ and writes for ENQ (R319, R320) -/
  | linkRead | linkWrite
  /-- a run of a copy read or landed through a window (R276, R312) -/
  | copyRead | copyWrite
  /-- a run read from a peer's stash, or landed there; the last landing of a put raises a flag (R322, R329) -/
  | peerRead | peerWrite (flag : Option (BitVec 4))
  deriving DecidableEq, Repr

/-- What a reply to a remote instruction carries when it comes from another package (R314, R318, R324 to R327). -/
structure ReplyData where
  code : BitVec 8
  value : BitVec 128
  status : W64
  pkt : BitVec 512
  deriving DecidableEq, Repr

/-- A remote request between packages (R313): its source package and endpoint (die and SEP), its issuer, to whom the final reply
goes (R320), the die by which it enters, target slice, slice tag, window, offset, kind and operands. `parm` is ROPK's parameter
word, `pkt` its packet, and otherwise `pkt` carries the value operands; `links` counts what a forwarded CHASE has followed. A run of
a copy has `n` bytes with their meter region, and a peer end names a core and, in `off`, an offset of its stash. `num` is the issuer's
operation. `node` is the answer of a third package that holds the node of an ENQ or DEQ (R320), with the head word that was read before
the node was asked in its status word (R317). -/
structure FarReq where
  spkg : BitVec 21
  sep : BitVec 12
  issuer : BitVec 21 × BitVec 12
  num : Nat
  die : BitVec 3
  slice : BitVec 5
  stag : BitVec 21
  links : Nat
  n : Nat
  core : BitVec 11
  region : BitVec 12
  win : BitVec 7
  off : BitVec 36
  kind : ReqKind
  parm : W64
  pkt : BitVec 512
  node : Option ReplyData
  deriving DecidableEq, Repr

/-- Which request a REMOTE_REQUEST_CHECK serves: one of a core of this package, or one from another package. -/
inductive ReqSrc where
  | here (core : Nat) (num : Nat)
  | far (r : FarReq)
  deriving DecidableEq, Repr

/-- Kinds of group operation (R341, R349). -/
inductive CollKind where
  | car | crs | cag | ca2a | cbc | repart
  deriving DecidableEq, Repr

/-- The header and body of a contribution to a group operation (R336): group identity, operation count, kind and checked
values, rank count, sender's rank and place, destination core, and the bytes in ascending order with the region of each.
For REPART (R350) `ty` holds record size and key offset, `count` the weight fields, `root` CAP, and the bytes are the
sender's records. As the answer of an owner on another package (R344), `mism` and `mreg` say what it found and the bytes are
its reduced elements, each followed by a byte of flags as in bits 4:0 of R343. -/
structure Contribution where
  gid : BitVec 32
  seq : BitVec 32
  kind : CollKind
  ty : BitVec 8
  op : BitVec 4
  count : BitVec 32
  root : BitVec 32
  n : BitVec 24
  rank : BitVec 24
  pkg : BitVec 21
  core : BitVec 11
  dest : BitVec 11
  bytes : List Byte
  regions : List (BitVec 12)
  mism : Bool
  mreg : Bool
  /-- the sender's member table in physical numbers, and its slice tag -/
  table : List W64
  stag : BitVec 21
  /-- reply code where this is a negative reply to a contribution (R337, R345) -/
  code : BitVec 8
  deriving DecidableEq, Repr

/-- A slot (R301): its header's fields and its payload. `dep` and `sep` hold the die in bits 11:9 and the endpoint below. Whether it
is the first of its message follows from the message before it. -/
structure Slot where
  dpkg : BitVec 21
  dep : BitVec 12
  spkg : BitVec 21
  sep : BitVec 12
  vc : BitVec 3
  stag : BitVec 21
  seq : BitVec 16
  kind : BitVec 4
  elder : Bool
  first : Bool
  last : Bool
  len : BitVec 8
  code : BitVec 8
  payload : BitVec 1024
  deriving DecidableEq, Repr

/-- A slot that arrives: the ring's level (0 for the package ring), the die at whose station it arrives, the slot (R304). -/
structure SlotAt where
  level : BitVec 2
  die : BitVec 3
  slot : Slot
  deriving DecidableEq, Repr

/-- A port whose link is trained, and the version of the link protocol that its partner offers (R308, R435). -/
structure LinkOffer where
  die : BitVec 3
  version : BitVec 16
  /-- the package at the other end -/
  partner : BitVec 21
  deriving DecidableEq, Repr

/-- A direction of a port's link: clockwise or not (R303, R306). -/
structure LinkDir where
  die : BitVec 3
  cw : Bool
  deriving DecidableEq, Repr

/-- The slots of credit that a direction of a port's link extends, by virtual channel from VC 0 on (R306). -/
structure LinkCredit where
  dir : LinkDir
  credits : List Nat
  deriving DecidableEq, Repr

/-- A migration's target package, the version of the save format that its slice manager offers (R401, R435), and whether it is a round of
the pre-copy, while the slice runs, or the move itself (R401 step 1). -/
structure MoveTo where
  pkg : BitVec 21
  version : BitVec 16
  round : Bool
  deriving DecidableEq, Repr

/-- A device or slice-manager register or table whose write has no behaviour of its own (REGISTER_WRITE): the rule that
gives each is named beside it. -/
inductive DevReg where
  | prqbase (vf : BitVec 6)                          -- R373
  | prqhead (vf : BitVec 6)                          -- R373
  | invaddr (vf : BitVec 6)                          -- R373
  | invlen (vf : BitVec 6)                           -- R373
  | evbase | evctl | evhead                          -- R433
  | pkgmap (slice : BitVec 5) (v : BitVec 21)        -- R311
  | window (slice : BitVec 5) (w : BitVec 7)         -- R312
  | bindrec (die : BitVec 3) (n : BitVec 8)          -- R414
  | l2rng (die : BitVec 3) (n : BitVec 3)            -- R168
  | scrub (frame : BitVec 40)                        -- the slice manager scrubs a 4 KiB frame to a key (R368)
  | hbm (pa : BitVec 40)                             -- the slice manager writes 8 bytes: stage-2 tables, frames (R387)
  | hostmem (addr : W64)                             -- the host writes 8 bytes of its own memory (rings, R416)
  | fitted (pkg : BitVec 21)                         -- bit 0: a package is fitted at a physical number (R303)
  | linkkey (level : BitVec 2) (die : BitVec 3) (stag : BitVec 21)   -- bit 0: a port has a key for a slice tag (R307)
  | members (slice : BitVec 5) (old : BitVec 21)     -- bound tables name a migrated member's new package (R334, R401)
  | returned (slice : BitVec 5)                      -- a slice that has moved away arrives again (R401)
  | dmaerr (vf : BitVec 6) (page : BitVec 52)         -- bit 0: a function's DMA accesses to a page fail (R416)
  | scratch (a : BitVec 20)                          -- the management complex writes 8 bytes of its scratch memory (R413)
  | hdm (n : BitVec 4)                               -- bit 0: an HDM range answers on the CXL port (R434)
  | areaout (ctx : BitVec 16)                        -- bit 0: a context's area is moved out of HBM to CXL memory (R434)
  | tierback                                         -- bit 0: the last checkpoint is written back to HBM (R404)
  | bar0 (f : BitVec 6) (off : BitVec 32)            -- the host writes 8 bytes of a function's BAR 0 (R432)
  | bar0read (f : BitVec 6) (off : BitVec 32)        -- the host reads 8 bytes of a function's BAR 0 (R432)
  deriving DecidableEq, Repr

/-- A meter record as REGION_OPEN, CARRY_IN and MIGRATE_IN receive it (R406, R408, R409), with the allow list that a
region-open record carries (R405), the record version it names (R435), and whether its signature, and its chain of records where
it has one, verify (log 12). -/
structure MeterMsg where
  version : BitVec 16
  /-- the slice for which a MIGRATE_OUT record opens the region (R408) -/
  slice : BitVec 5
  region : BitVec 12
  devid : BitVec 256
  licid : BitVec 128
  gen : BitVec 32
  count : W64
  rseq : W64
  bound : W64
  prev : BitVec 256
  digest : BitVec 256
  verified : Bool
  allow : List (BitVec 256)
  deriving DecidableEq, Repr

/-- A firmware image of the signed flash whose signature verifies: its digest, and whether the signature of its repair and
configuration data verifies (R437). -/
structure BootCopy where
  digest : BitVec 256
  dataOk : Bool
  deriving DecidableEq, Repr

/-- What the slice manager sets when it creates or changes a slice (R387). -/
structure SliceSpec where
  granules : BitVec 32
  vf : BitVec 6
  stag : BitVec 21
  keys : List (BitVec 7)
  regions : List (BitVec 12)
  trapv : W64
  s2root : W64
  weights : List (BitVec 8)
  deriving DecidableEq, Repr

/-- The privileged fields of a control block that the slice manager binds (R389, R416), with the block's guest address. -/
structure BindSpec where
  block : W64
  s2root : W64
  prioceil : BitVec 8
  slice : BitVec 5
  slot : BitVec 8
  deriving DecidableEq, Repr

/-- Where an error strikes (R376): a physical sector of HBM, its copy in the home L2 or in a core's L1, a sector of a core's stash
row, or one of a cluster's shadow storage. -/
inductive ErrLoc where
  | hbm (sector : Nat)
  | l2 (sector : Nat)
  | l1 (core : Nat) (sector : Nat)
  | shadow (cluster : Nat) (sector : Nat)
  | stash (core : Nat) (row : Nat) (sector : Nat)
  deriving DecidableEq, Repr

/-- One row of spec/opcode_table.json each, in the table's order. -/
inductive Instr where
  -- common majors (R42)
  | nop
  | halt
  | waitk (mask : BitVec 8)
  | slack (n : BitVec 22)
  | mfs (d : RF) (r : SReg) (g : Guard)
  | mts (r : SReg) (a : RF) (g : Guard)
  | fset (f : BitVec 4) (a : GField) (i : BitVec 10)
  | fwait (f : BitVec 4) (a : GField) (i : BitVec 10)
  | fclr (f : BitVec 4)
  | fence (k : FenceKind) (x : Scope) (m : SMask) (w : BitVec 3)
  | mark (g : Guard)
  | tlsig (d : RF) (w : BitVec 3)
  | tlwait (t : RF) (n : RF) (w : BitVec 3)
  | tlrd (d : RF) (t : RF) (w : BitVec 3)
  | binit (r : RF) (b : BitVec 4) (o : BitVec 6) (w : BitVec 3)
  | barr (r : RF) (b : BitVec 4) (o : BitVec 6) (w : BitVec 3)
  | bwait (r : RF) (b : BitVec 4) (o : BitVec 6) (w : BitVec 3)
  | btry (r : RF) (b : BitVec 4) (o : BitVec 6) (w : BitVec 3)
  | binv (r : RF) (b : BitVec 4) (o : BitVec 6) (w : BitVec 3)
  | trap (n : BitVec 18) (g : Guard)
  | brk (n : BitVec 18) (g : Guard)
  | faultrd (d : RF) (k : BitVec 3) (g : Guard)
  | hcall (d : GField) (a : GField) (svc : BitVec 6) (w : BitVec 3)
  | eret (a : GField) (drop : Bool) (newpt : Bool)
  | icinv (sc : IcScope) (a : GField) (b : GField) (w : BitVec 3)
  | mtrrd (d : GField) (a : GField) (w : BitVec 3)
  -- SCU (R43)
  | add (d a b : GField) (g : Guard)
  | sub (d a b : GField) (g : Guard)
  | and (d a b : GField) (g : Guard)
  | or (d a b : GField) (g : Guard)
  | xor (d a b : GField) (g : Guard)
  | andn (d a b : GField) (g : Guard)
  | shl (d a b : GField) (g : Guard)
  | shr (d a b : GField) (g : Guard)
  | sra (d a b : GField) (g : Guard)
  | rotl (d a b : GField) (g : Guard)
  | min (d a b : GField) (g : Guard)
  | max (d a b : GField) (g : Guard)
  | minn (d a b : GField) (g : Guard)
  | maxn (d a b : GField) (g : Guard)
  | sel (d a b : GField) (g : Guard)
  | clz (d a : GField) (g : Guard)
  | ctz (d a : GField) (g : Guard)
  | popc (d a : GField) (g : Guard)
  | addi (d a : GField) (i : BitVec 10)
  | andi (d a : GField) (i : BitVec 10)
  | ori (d a : GField) (i : BitVec 10)
  | xori (d a : GField) (i : BitVec 10)
  | shli (d a : GField) (n : BitVec 6)
  | shri (d a : GField) (n : BitVec 6)
  | srai (d a : GField) (n : BitVec 6)
  | mul (d a b : GField) (g : Guard)
  | mulh (d a b : GField) (g : Guard)
  | mulhn (d a b : GField) (g : Guard)
  | div (d a b : GField) (w : BitVec 3)
  | divn (d a b : GField) (w : BitVec 3)
  | rem (d a b : GField) (w : BitVec 3)
  | remn (d a b : GField) (w : BitVec 3)
  | divideComplete (core : Nat)
  | cmp (p : BitVec 3) (c : Cond) (a b : GField) (g : Guard)
  | cmpi (p : BitVec 3) (c : Cond) (a : GField) (i : BitVec 10)
  | movi (d : GField) (i : BitVec 16)
  | movk (d : GField) (i : BitVec 16) (h : BitVec 2)
  | ldi (d : GField) (i : BitVec 32)
  | bext (d a b : GField) (g : Guard)
  | bins (d a b : GField) (g : Guard)
  | aadd (d s : BitVec 4) (g : GField)
  | aaddi (d s : BitVec 4) (i : BitVec 10)
  | amov (d : BitVec 4) (a : GField)
  | aget (d : GField) (s : BitVec 4)
  | amesh (d : GField) (sel : MeshSel)
  | br (l : BitVec 16) (y : BitVec 4) (g : Guard)
  | jmp (l : BitVec 16) (y : BitVec 4)
  | call (l : BitVec 16) (y : BitVec 4) (g : Guard)
  | jmpr (a : GField) (g : Guard)
  | ret (g : Guard)
  | loopImmediate (lvl : BitVec 2) (n : BitVec 9) (eline : BitVec 4) (esyl : BitVec 4)
  | loopRegister (lvl : BitVec 2) (a : GField) (eline : BitVec 4) (esyl : BitVec 4)
  | join (ve ce mx : Bool) (g : Guard)
  | fork (e : Engine) (l : BitVec 16) (y : BitVec 4) (g : Guard)
  | qclose (q : BitVec 3) (g : Guard)
  | qstat (d : GField) (q : BitVec 3) (g : Guard)
  | ld (t : LdTy) (d : GField) (m : MemOpnd) (w : BitVec 3)
  | ldn (t : LdTy) (d : GField) (m : MemOpnd) (w : BitVec 3)
  | lda (t : LdTy) (d : GField) (m : MemOpnd) (w : BitVec 3)
  | st (t : StTy) (s : GField) (m : MemOpnd) (w : BitVec 3)
  | atm (op : AtOp) (wide : Bool) (d : GField) (b : BitVec 4) (s : GField) (w : BitVec 3)
  | acas (wide : Bool) (d : GField) (b : BitVec 4) (s : GField) (w : BitVec 3)
  | acas2 (d : GField) (b : BitVec 4) (s : GField) (w : BitVec 3)
  | stbind (r : GField) (b : BitVec 4) (w : BitVec 3)
  | stunbd (r : GField) (w : BitVec 3)
  | stflsh (r : GField) (w : BitVec 3)
  | stdrop (r : GField) (w : BitVec 3)
  | sttch (r : GField) (w : BitVec 3)
  | cflsh (n : GField) (b : BitVec 4) (w : BitVec 3)
  | cinv (n : GField) (b : BitVec 4) (w : BitVec 3)
  | cdisc (n : GField) (b : BitVec 4) (w : BitVec 3)
  | rld (t : LdTy) (d : GField) (b : BitVec 4) (w : BitVec 3)
  | rst (t : StTy) (s : GField) (b : BitVec 4) (w : BitVec 3)
  | ratm (op : AtOp) (d : GField) (b : BitVec 4) (s : GField) (w : BitVec 3)
  | rcas (t : RcasTy) (d : GField) (b : BitVec 4) (s : GField) (w : BitVec 3)
  | casn (d : GField) (b : BitVec 4) (s : GField) (w : BitVec 3)
  | enq (d : GField) (b : BitVec 4) (s : GField) (w : BitVec 3)
  | deq (d : GField) (b : BitVec 4) (s : GField) (w : BitVec 3)
  | chase (d : GField) (b : BitVec 4) (s : GField) (w : BitVec 3)
  | fadd (d : GField) (b : BitVec 4) (s : GField) (w : BitVec 3)
  | fminloc (d : GField) (b : BitVec 4) (s : GField) (w : BitVec 3)
  | rfence (w : BitVec 3)
  -- VE (R44)
  | vadd (t : FTy) (d a b : VField) (g : BitVec 3)
  | vsub (t : FTy) (d a b : VField) (g : BitVec 3)
  | vmul (t : FTy) (d a b : VField) (g : BitVec 3)
  | vmin (t : FTy) (d a b : VField) (g : BitVec 3)
  | vmax (t : FTy) (d a b : VField) (g : BitVec 3)
  | vdiv (t : FTy) (d a b : VField) (w : BitVec 3)
  | vfma (t : FTy) (d a b : VField) (g : BitVec 3)
  | vfms (t : FTy) (d a b : VField) (g : BitVec 3)
  | vfnma (t : FTy) (d a b : VField) (g : BitVec 3)
  | vabs (t : FTy) (d a : VField) (g : BitVec 3)
  | vneg (t : FTy) (d a : VField) (g : BitVec 3)
  | vsqrt (t : FTy) (d a : VField) (w : BitVec 3)
  | vrcp (t : FTy) (d a : VField) (w : BitVec 3)
  | vrsq (t : FTy) (d a : VField) (w : BitVec 3)
  | vexp2 (t : FTy) (d a : VField) (w : BitVec 3)
  | vlog2 (t : FTy) (d a : VField) (w : BitVec 3)
  | veUnitComplete (core : Nat)
  | viadd (t : ITy) (d a b : VField) (g : BitVec 3)
  | visub (t : ITy) (d a b : VField) (g : BitVec 3)
  | vimul (t : ITy) (d a b : VField) (g : BitVec 3)
  | vimulh (t : ITy) (d a b : VField) (g : BitVec 3)
  | vimin (t : ITy) (d a b : VField) (g : BitVec 3)
  | vimax (t : ITy) (d a b : VField) (g : BitVec 3)
  | vclamp (t : ITy) (d a b : VField) (g : BitVec 3)
  | vwadd (t : WaddTy) (d a b : VField) (g : BitVec 3)
  | vand (t : WTy) (d a b : VField) (g : BitVec 3)
  | vor (t : WTy) (d a b : VField) (g : BitVec 3)
  | vxor (t : WTy) (d a b : VField) (g : BitVec 3)
  | vnot (t : WTy) (d a : VField) (g : BitVec 3)
  | vshl (t : WTy) (d a b : VField) (g : BitVec 3)
  | vshr (t : WTy) (d a b : VField) (g : BitVec 3)
  | vsra (t : WTy) (d a b : VField) (g : BitVec 3)
  | vrshr (t : WTy) (d a b : VField) (g : BitVec 3)
  | vmacb (q : BitVec 2) (d a b : VField) (g : BitVec 3)
  | vimulr (half : Bool) (d a b : VField) (g : BitVec 3)
  | vnarb (q : BitVec 2) (d a : VField) (g : BitVec 3)
  | vcmp (c : Cond) (t : WTy) (p : BitVec 3) (a b : VField) (g : BitVec 3)
  | vfcmp (c : FCond) (t : FTy) (p : BitVec 3) (a b : VField) (g : BitVec 3)
  | vpand (p a b : BitVec 3) (g : BitVec 3)
  | vpor (p a b : BitVec 3) (g : BitVec 3)
  | vpnot (p a : BitVec 3) (g : BitVec 3)
  | vsel (t : WTy) (d a b : VField) (g : BitVec 3)
  | vcvtLow (dst src : Fmt) (d a : VField) (k : BitVec 3)
  | vcvtHigh (dst src : Fmt) (d a : VField) (k : BitVec 3)
  | vqnt (dst : QFmt) (d a b : VField) (k : BitVec 3)
  | vperm (t : WTy) (d a b : VField) (g : BitVec 3)
  | vrot (o : BitVec 8) (d a : VField) (g : BitVec 3)
  | vrmrg (o : BitVec 8) (d a : VField) (g : BitVec 3)
  | vshuf (t : WTy) (p : ShufPat) (d a : VField) (g : BitVec 3)
  | vbcast (blk : BitVec 2) (i : BitVec 6) (d a : VField) (g : BitVec 3)
  | vextr (wide : Bool) (i : BitVec 6) (d a : VField) (g : BitVec 3)
  | viota (t : WTy) (start : BitVec 6) (d : VField) (g : BitVec 3)
  | vscan (op : ScanOp) (d a : VField) (g : BitVec 3)
  | xclr (x : BitVec 2) (g : BitVec 3)
  | xacc (x : BitVec 2) (a : VField) (g : BitVec 3)
  | xsca (e8m0 : Bool) (x : BitVec 2) (a b : VField) (g : BitVec 3)
  | xred (grp : BitVec 2) (x : BitVec 2) (a : BitVec 2) (g : BitVec 3)
  | xrnd (bf16 : Bool) (d : VField) (a : BitVec 2) (g : BitVec 3)
  | xld (x : BitVec 2) (m : MemOpnd) (w : BitVec 3)
  | xst (x : BitVec 2) (m : MemOpnd) (w : BitVec 3)
  | vkey (t : KeyTy) (d a b : VField) (g : BitVec 3)
  | vld (d : VField) (m : MemOpnd) (w : BitVec 3)
  | vst (s : VField) (m : MemOpnd) (w : BitVec 3)
  | vstm (s : VField) (m : MemOpnd) (p : BitVec 3) (w : BitVec 3)
  | vldq (q : BitVec 3) (m : MemOpnd) (p : BitVec 3) (w : BitVec 3)
  | vldt (d : VField) (m : MemOpnd) (p : BitVec 3) (w : BitVec 3)
  | vgath (d : BitVec 5) (b : BitVec 4) (sh : Bool) (i : BitVec 5) (p : BitVec 3) (w : BitVec 3)
  | vscat (s : VField) (b : BitVec 4) (sh : Bool) (i : BitVec 5) (p : BitVec 3) (w : BitVec 3)
  | vpref (b : BitVec 4) (sh : Bool) (i : BitVec 5) (p : BitVec 3) (w : BitVec 3)
  -- CE (R45)
  | cpy (c : BitVec 3) (m : MemOpnd) (w : BitVec 3)
  | cpyt (c : BitVec 3) (m : MemOpnd) (w : BitVec 3)
  | cpym (at_ : Bool) (c : BitVec 3) (m : MemOpnd) (w : BitVec 3)
  | pput (c : BitVec 3) (b : BitVec 4) (m : BitVec 4) (w : BitVec 3)
  | cwprd (d : BitVec 4) (acq : Bool) (c : BitVec 3) (w : BitVec 3)
  | ccan (all : Bool) (c : BitVec 3) (w : BitVec 3)
  | cbuf (set : Bool) (n : BitVec 4) (m : MemOpnd) (w : BitVec 3)
  | cstat (d : BitVec 4) (clr : Bool) (c : BitVec 3) (w : BitVec 3)
  | cgrp (slot : BitVec 2) (m : MemOpnd) (w : BitVec 3)
  | car (c : BitVec 3) (m : MemOpnd) (w : BitVec 3)
  | crs (c : BitVec 3) (m : MemOpnd) (w : BitVec 3)
  | cag (c : BitVec 3) (m : MemOpnd) (w : BitVec 3)
  | ca2a (c : BitVec 3) (m : MemOpnd) (w : BitVec 3)
  | cbc (c : BitVec 3) (m : MemOpnd) (w : BitVec 3)
  | repart (c : BitVec 3) (m : MemOpnd) (w : BitVec 3)
  -- MX (R46)
  | mlease (n : BitVec 10)
  | mfree
  | mlda (s : BitVec 4) (cls : BitVec 2) (m : MemOpnd) (w : BitVec 3)
  | mldu (cls : BitVec 2) (m : MemOpnd) (w : BitVec 3)
  | mldb (s : BitVec 4) (cls : BitVec 2) (m : MemOpnd) (w : BitVec 3)
  | mldbt (s : BitVec 4) (cls : BitVec 2) (m : MemOpnd) (w : BitVec 3)
  | mmul (t : MFmt) (d : Bool) (kb ka clr : Bool) (w : BitVec 3)
  | mzero (d : Bool) (w : BitVec 3)
  | mrd (d : Bool) (m : MemOpnd) (w : BitVec 3)
  | mrdx (d : Bool) (q : BitVec 3) (w : BitVec 3)
  | mstat (d : BitVec 4) (clr : Bool) (w : BitVec 3)
  | rep (n : BitVec 12)
  | mldp (s : BitVec 4) (step : Bool) (col : Bool) (m : MemOpnd) (w : BitVec 3)
  | mmulp (d : Bool) (e5m2 : Bool) (kb ka clr : Bool) (ms : Bool) (w : BitVec 3)
  | mmulpt (d : Bool) (e5m2 : Bool) (kb ka clr : Bool) (ms : Bool) (w : BitVec 3)
  | meps (s : BitVec 4) (ms : Bool) (col : Bool) (m : MemOpnd) (w : BitVec 3)
  | mseed (a b : BitVec 4)
  -- steps of the hardware inside a core or cluster; `core` is a package-core index (R7)
  | resultLanding (core : Nat) (e : Engine)
  | engineHalted (core : Nat) (e : Engine)
  | instructionFetch (core : Nat) (e : Engine)
  | qTimeout (core : Nat) (e : Engine)
  | memoryAccessPerform (core : Nat) (e : Engine) (num : Nat) (lane : Nat)
  | pageRequestRecordWrite (vf : BitVec 6)
  | fenceComplete (core : Nat) (e : Engine) (num : Nat)
  | tlsigComplete (core : Nat) (e : Engine) (num : Nat)
  | tlwaitComplete (core : Nat) (e : Engine) (num : Nat)
  | bwaitComplete (core : Nat) (e : Engine) (num : Nat)
  | handlerEntry (core : Nat)
  | leaseArbitration (cluster : Nat)
  | leaseIdleTimeout (cluster : Nat)
  | tileLoadPerform (core : Nat) (num : Nat)
  | arrayCommandBegin (core : Nat)
  | arrayCommandComplete (core : Nat) (num : Nat)
  | mrdxPush (core : Nat)
  | infuserTileForm (core : Nat)
  | caddyRelease (core : Nat)
  | copyLanding (core : Nat) (c : BitVec 3) (far : Option FarReply)
  | copyComplete (core : Nat) (c : BitVec 3)
  | contributionArrival (die : BitVec 3) (k : Contribution)
  | elementReduce (die : BitVec 3) (gid seq : BitVec 32) (elem : Nat)
  | collectiveResultLanding (core : Nat) (c : BitVec 3) (far : Option Contribution)
  | collectiveComplete (core : Nat) (c : BitVec 3)
  -- steps of the fabric (R301 to R331)
  | slotArrival (slot : SlotAt)
  | nackBusyRetry (sep : BitVec 12) (vc : BitVec 3) (seq : BitVec 16)
  | remoteRequestCheck (r : ReqSrc)
  | remoteReply (core : Nat) (num : Nat) (far : Option ReplyData)
  | frameAuthFail (level : BitVec 2) (die : BitVec 3)
  | linkTraining (level : BitVec 2) (offer : LinkOffer)
  | linkKeyed (level : BitVec 2) (die : BitVec 3)
  | protectedModeEnter (level : BitVec 2) (credit : LinkCredit)
  | protectedModeExit (level : BitVec 2) (dir : LinkDir)
  | timeExchange (level : BitVec 2) (die : BitVec 3) (slew : Int)
  -- launch and scheduling (R413 to R430); `vf` a virtual function, `q` one of its queues
  | qtail (vf : BitVec 6) (q : BitVec 6) (v : W64)
  | controlBlockRefresh (vf : BitVec 6) (q : BitVec 6)
  | launch (vf : BitVec 6) (q : BitVec 6)
  | update (vf : BitVec 6) (q : BitVec 6)
  | gang (vf : BitVec 6) (q : BitVec 6)
  | queueEnable (vf : BitVec 6) (q : BitVec 6) (en : Bool)
  | reset (vf : BitVec 6) (q : BitVec 6)
  | launchDispatch (vf : BitVec 6) (q : BitVec 6)
  | launchStart (vf : BitVec 6) (q : BitVec 6)
  | blockedEvent (vf : BitVec 6) (q : BitVec 6)
  | gangReserve (gid : BitVec 16)
  | gangto (gid : BitVec 16)
  | instanceEnd (ctx : Nat)
  | killed (ctx : Nat)
  | deadlineEvent (ctx : Nat)
  -- page requests and invalidation (R371 to R375)
  | prrplyRetry (vf : BitVec 6) (w : W64)
  | prrplyFail (vf : BitVec 6) (w : W64)
  | invcmdStage1 (vf : BitVec 6)
  | invcmdStage2 (vf : BitVec 6)
  | invcmdWholeSlice (vf : BitVec 6)
  | invalidationComplete (vf : BitVec 6)
  | prqctl (vf : BitVec 6) (v : W64)
  -- the host port (R431 to R436, R404)
  | qver (vf : BitVec 6) (v : BitVec 16)
  | qverpf (v : BitVec 16)
  | ckpt (v : W64)
  | checkpointComplete (ok : Bool)
  | eventRecordWrite
  | registerWrite (r : DevReg) (v : BitVec 128)
  -- slices, pre-emption and migration (R386 to R412)
  | preemptStop (ctx : Nat)
  | preemptFreeze (ctx : Nat)
  | preemptAuto (ctx : Nat) (deadline : W64)
  | autoDeadline (ctx : Nat)
  | contextSwapOut (ctx : Nat)
  | contextParkOut (cluster : Nat)
  | restore (ctx : Nat) (ox oy : BitVec 4)
  | migration (slice : BitVec 5) (target : MoveTo)
  | migrateIn (m : MeterMsg)
  | replyForward (core : Nat) (num : Nat) (r : ReplyData)
  | replyTimeout (core : Nat) (num : Nat)
  | periodicMeterRecord (region : BitVec 12)
  | regionOpen (m : MeterMsg)
  | carryIn (m : MeterMsg)
  -- boot and service (R437 to R444)
  | powerGood (copyA copyB : Option BootCopy)
  | reducedService
  | fullService
  | clockLower
  | clockRaise
  | heartbeat (core : BitVec 2)
  | handoverStart (image : BitVec 256) (sigOk : Bool)
  | handoverCommit (fwver : Option (BitVec 32))
  | getVersion
  | getMeasurements
  | getCertificate
  -- stalls and remaining completions
  | stall (core : Nat) (e : Engine)
  | stallWireSample (ctx : Nat)
  | icinvComplete (core : Nat) (num : Nat)
  | hcallComplete (core : Nat) (status : W64) (block : BitVec 512)
  | queueBind (vf : BitVec 6) (q : BitVec 6) (b : BindSpec)
  | sliceCreate (slice : BitVec 5) (sp : SliceSpec)
  | regionClose (region : BitVec 12)
  | uncorrectableError (loc : ErrLoc)
  | patrolScrubbing (loc : ErrLoc)
  deriving DecidableEq, Repr

end Sys2Proof
end

