-- ==== Sys2Proof/WellFormed.lean ====
section
/-!
DEFINITION. Which instructions an engine can hold: `wellFormed e i` says that `i` has an encoding in a line of engine `e`
and that every field of it has a value the spec admits there, whatever the state (R36 to R47 and each instruction's own
entry). A value it refuses raises ILL_FIELD (R39).
-/

namespace Sys2Proof

/-- A g-field that names a register g0–g47 or a queue (R40). -/
def GField.src : GField → Bool
  | .r n => decide (n.toNat < 48)
  | .pop _ => true
  | .peek _ => true

/-- A g-field as a destination: a peek code raises ILL_FIELD (R41). -/
def GField.dst : GField → Bool
  | .r n => decide (n.toNat < 48)
  | .pop _ => true
  | .peek _ => false

/-- A g-field that names a register, no queue code (R41). -/
def GField.reg : GField → Bool
  | .r n => decide (n.toNat < 48)
  | .pop _ => false
  | .peek _ => false

/-- An even register at most g46, the register pairs of ACAS2 and RCAS.p (R182, R326). -/
def GField.pair : GField → Bool
  | .r n => decide (n.toNat ≤ 46) && decide (n.toNat % 2 = 0)
  | .pop _ => false
  | .peek _ => false

/-- A vector field as a destination (R41). -/
def VField.dst : VField → Bool
  | .r _ => true
  | .pop _ => true
  | .peek _ => false

/-- A vector field that names a register (R124). -/
def VField.reg : VField → Bool
  | .r _ => true
  | .pop _ => false
  | .peek _ => false

/-- The register operand of a common major, as a source on engine `e` (R36). -/
def RF.src (e : Engine) : RF → Bool
  | .g f => decide (e = .scu) && f.src
  | .a _ => decide (e ≠ .scu)

/-- The same as a destination. -/
def RF.dst (e : Engine) : RF → Bool
  | .g f => decide (e = .scu) && f.dst
  | .a _ => decide (e ≠ .scu)

/-- The same where a queue code is not admitted (R215). -/
def RF.reg (e : Engine) : RF → Bool
  | .g f => decide (e = .scu) && f.reg
  | .a _ => decide (e ≠ .scu)

/-- The guard that an unguarded instruction encodes: pg = 0 and pn = 0. -/
def Guard.always : Guard := { p := 0, neg := false }

/-- Guards of MFS, MTS and MARK: the CE and the MX have no predicates (R34, R221, R272). -/
def Guard.common (e : Engine) (g : Guard) : Bool :=
  decide (e = .scu) || decide (e = .ve) || decide (g = .always)

/-- Guards of TRAP, BRK and FAULTRD: only the SCU guards them (R377). -/
def Guard.scuOnly (e : Engine) (g : Guard) : Bool := decide (e = .scu) || decide (g = .always)

/-- A memory operand on an engine that indexes with address registers: field[5:4] is zero (R38). -/
def MemOpnd.aIdx (m : MemOpnd) : Bool :=
  match m.mode with
  | .off => true
  | .swz => true
  | .idx => decide (m.field.toNat < 16)
  | .idxShift => decide (m.field.toNat < 16)

/-- The same without the swizzled mode (R154, R234, R293, R296, R346). -/
def MemOpnd.aIdxNoSwz (m : MemOpnd) : Bool := m.aIdx && decide (m.mode ≠ .swz)

/-- A memory operand of the SCU: an index register is a g-field (R38). -/
def MemOpnd.gIdx (m : MemOpnd) : Bool :=
  match m.mode with
  | .off => true
  | .swz => true
  | .idx => true
  | .idxShift => true

/-- Engines from which a special register may be read (R93). -/
def SReg.readable (e : Engine) : SReg → Bool
  | .gtime | .ptime | .stallc | .mpc | .slackv | .tokst | .fovf | .stashst | .flagr _ => true
  | .trapv | .faultinfo | .qcfg _ | .lcnt _ => decide (e = .scu)
  | .vflags => decide (e = .ve) || decide (e = .scu)
  | .unfd | .seeds | .seedm | .leasest => decide (e = .mx)

/-- Engines from which a special register may be written (R93). -/
def SReg.writable (e : Engine) : SReg → Bool
  | .stallc | .fovf => true
  | .trapv | .qcfg _ => decide (e = .scu)
  | .vflags => decide (e = .ve)
  | .unfd | .seeds | .seedm => decide (e = .mx)
  | .gtime | .ptime | .mpc | .slackv | .tokst | .stashst | .flagr _ | .faultinfo | .lcnt _ | .leasest => false

/-- The highest segment of a format, none where its width is 32 bits (R142). -/
def Fmt.maxSeg : Fmt → Option Nat
  | .f32 | .i32 => none
  | .f16 | .bf16 | .i16 => some 1
  | .e5m2 | .e4m3 | .i8 | .n8 | .e8m0 => some 3
  | .e3m2 | .e2m3 => some 5
  | .e2m1 => some 7
  | .t2 => some 15

/-- A segment is admitted by one side of a conversion (R143). -/
def Fmt.segOk (f : Fmt) (seg : Nat) : Bool :=
  match f.maxSeg with
  | none => true
  | some m => decide (seg ≤ m)

/-- A segment is admitted by a conversion: each side that uses it bounds it, and it is 0 when neither does (R143). -/
def cvtSegOk (dst src : Fmt) (seg : Nat) : Bool :=
  dst.segOk seg && src.segOk seg &&
    (decide (dst.maxSeg ≠ none) || decide (src.maxSeg ≠ none) || decide (seg = 0))

/-- Segments of VQNT (R144). -/
def QFmt.segOk (f : QFmt) (seg : Nat) : Bool :=
  match f with
  | .e4m3 | .e5m2 | .i8 => decide (seg ≤ 3)
  | .e2m1 => decide (seg ≤ 7)

/-- Block bytes of VBCAST (R130). -/
def bcastBytes (b : BitVec 2) : Nat :=
  if b = 0 then 4 else if b = 1 then 8 else if b = 2 then 16 else 64

/-- An instruction engine `e` can hold, every field legal. The steps without an encoding are held by none. -/
def wellFormed (e : Engine) (i : Instr) : Bool :=
  match i with
  | .nop => true
  | .halt => true
  | .waitk _ => true
  | .slack _ => true
  | .mfs d r g => d.dst e && r.readable e && g.common e
  | .mts r a g => a.src e && r.writable e && g.common e
  | .fset _ a _ => if e = .scu then a.src else decide (a = .r 0)
  | .fwait _ a _ => if e = .scu then a.src else decide (a = .r 0)
  | .fclr _ => true
  | .fence _ _ m _ => m.s || m.g || m.f
  | .mark g => g.common e
  | .tlsig d _ => (decide (e = .scu) || decide (e = .ve)) && d.dst e
  | .tlwait t n _ => t.src e && n.src e
  | .tlrd d t _ => d.dst e && t.src e
  | .binit r _ _ _ => r.reg e
  | .barr r _ _ _ => r.reg e
  | .bwait r _ _ _ => r.reg e
  | .btry r _ _ _ => r.reg e
  | .binv r _ _ _ => r.reg e
  | .trap _ g => g.scuOnly e
  | .brk _ g => g.scuOnly e
  | .faultrd d _ g => d.dst e && g.scuOnly e
  | .hcall d a _ _ => decide (e = .scu) && d.reg && a.reg
  | .eret a _ np => decide (e = .scu) && (if np then a.src else decide (a = .r 0))
  | .icinv _ a b _ => decide (e = .scu) && a.src && b.src
  | .mtrrd d a _ => decide (e = .scu) && d.dst && a.src
  | .add d a b _ => decide (e = .scu) && d.dst && a.src && b.src
  | .sub d a b _ => decide (e = .scu) && d.dst && a.src && b.src
  | .and d a b _ => decide (e = .scu) && d.dst && a.src && b.src
  | .or d a b _ => decide (e = .scu) && d.dst && a.src && b.src
  | .xor d a b _ => decide (e = .scu) && d.dst && a.src && b.src
  | .andn d a b _ => decide (e = .scu) && d.dst && a.src && b.src
  | .shl d a b _ => decide (e = .scu) && d.dst && a.src && b.src
  | .shr d a b _ => decide (e = .scu) && d.dst && a.src && b.src
  | .sra d a b _ => decide (e = .scu) && d.dst && a.src && b.src
  | .rotl d a b _ => decide (e = .scu) && d.dst && a.src && b.src
  | .min d a b _ => decide (e = .scu) && d.dst && a.src && b.src
  | .max d a b _ => decide (e = .scu) && d.dst && a.src && b.src
  | .minn d a b _ => decide (e = .scu) && d.dst && a.src && b.src
  | .maxn d a b _ => decide (e = .scu) && d.dst && a.src && b.src
  | .sel d a b _ => decide (e = .scu) && d.dst && a.src && b.src
  | .clz d a _ => decide (e = .scu) && d.dst && a.src
  | .ctz d a _ => decide (e = .scu) && d.dst && a.src
  | .popc d a _ => decide (e = .scu) && d.dst && a.src
  | .addi d a _ => decide (e = .scu) && d.dst && a.src
  | .andi d a _ => decide (e = .scu) && d.dst && a.src
  | .ori d a _ => decide (e = .scu) && d.dst && a.src
  | .xori d a _ => decide (e = .scu) && d.dst && a.src
  | .shli d a _ => decide (e = .scu) && d.dst && a.src
  | .shri d a _ => decide (e = .scu) && d.dst && a.src
  | .srai d a _ => decide (e = .scu) && d.dst && a.src
  | .mul d a b _ => decide (e = .scu) && d.dst && a.src && b.src
  | .mulh d a b _ => decide (e = .scu) && d.dst && a.src && b.src
  | .mulhn d a b _ => decide (e = .scu) && d.dst && a.src && b.src
  | .div d a b _ => decide (e = .scu) && d.dst && a.src && b.src
  | .divn d a b _ => decide (e = .scu) && d.dst && a.src && b.src
  | .rem d a b _ => decide (e = .scu) && d.dst && a.src && b.src
  | .remn d a b _ => decide (e = .scu) && d.dst && a.src && b.src
  | .divideComplete _ => false
  | .cmp _ _ a b _ => decide (e = .scu) && a.src && b.src
  | .cmpi _ _ a _ => decide (e = .scu) && a.src
  | .movi d _ => decide (e = .scu) && d.dst
  | .movk d _ _ => decide (e = .scu) && d.reg
  | .ldi d _ => decide (e = .scu) && d.dst
  | .bext d a b _ => decide (e = .scu) && d.dst && a.src && b.src
  | .bins d a b _ => decide (e = .scu) && d.reg && a.src && b.src
  | .aadd _ _ g => decide (e = .scu) && g.src
  | .aaddi _ _ _ => decide (e = .scu)
  | .amov _ a => decide (e = .scu) && a.src
  | .aget d _ => decide (e = .scu) && d.dst
  | .amesh d _ => decide (e = .scu) && d.dst
  | .br _ _ _ => decide (e = .scu)
  | .jmp _ _ => decide (e = .scu)
  | .call _ _ _ => decide (e = .scu)
  | .jmpr a _ => decide (e = .scu) && a.src
  | .ret _ => decide (e = .scu)
  | .loopImmediate _ n _ y => decide (e = .scu) && decide (n ≠ 0) && decide (y ≠ 0)
  | .loopRegister _ a _ y => decide (e = .scu) && a.src && decide (y ≠ 0)
  | .join _ _ _ _ => decide (e = .scu)
  | .fork t _ _ _ => decide (e = .scu) && decide (t ≠ .scu)
  | .qclose _ _ => decide (e = .scu)
  | .qstat d _ _ => decide (e = .scu) && d.dst
  | .ld _ d m _ => decide (e = .scu) && d.dst && m.gIdx
  | .ldn _ d m _ => decide (e = .scu) && d.dst && m.gIdx
  | .lda _ d m _ => decide (e = .scu) && d.dst && m.gIdx
  | .st _ s m _ => decide (e = .scu) && s.src && m.gIdx
  | .atm _ _ d _ s _ => decide (e = .scu) && d.dst && s.src
  | .acas _ d _ s _ => decide (e = .scu) && d.reg && s.src
  | .acas2 d _ s _ => decide (e = .scu) && d.pair && s.pair
  | .stbind r _ _ => decide (e = .scu) && r.src
  | .stunbd r _ => decide (e = .scu) && r.src
  | .stflsh r _ => decide (e = .scu) && r.src
  | .stdrop r _ => decide (e = .scu) && r.src
  | .sttch r _ => decide (e = .scu) && r.src
  | .cflsh n _ _ => decide (e = .scu) && n.src
  | .cinv n _ _ => decide (e = .scu) && n.src
  | .cdisc n _ _ => decide (e = .scu) && n.src
  | .rld _ d _ _ => decide (e = .scu) && d.dst
  | .rst _ s _ _ => decide (e = .scu) && s.src
  | .ratm _ d _ s _ => decide (e = .scu) && d.dst && s.src
  | .rcas t d _ s _ => decide (e = .scu) && (if t = .pair then d.pair && s.pair else d.reg && s.src)
  | .casn d _ s _ => decide (e = .scu) && d.reg && s.src
  | .enq d _ s _ => decide (e = .scu) && d.reg && s.src
  | .deq d _ s _ => decide (e = .scu) && d.reg && s.src
  | .chase d _ s _ => decide (e = .scu) && d.reg && s.src
  | .fadd d _ s _ => decide (e = .scu) && d.reg && s.src
  | .fminloc d _ s _ => decide (e = .scu) && d.reg && s.src
  | .rfence _ => decide (e = .scu)
  | .vadd _ d _ _ _ => decide (e = .ve) && d.dst
  | .vsub _ d _ _ _ => decide (e = .ve) && d.dst
  | .vmul _ d _ _ _ => decide (e = .ve) && d.dst
  | .vmin _ d _ _ _ => decide (e = .ve) && d.dst
  | .vmax _ d _ _ _ => decide (e = .ve) && d.dst
  | .vdiv _ d _ _ _ => decide (e = .ve) && d.dst
  | .vfma _ d _ _ _ => decide (e = .ve) && d.reg
  | .vfms _ d _ _ _ => decide (e = .ve) && d.reg
  | .vfnma _ d _ _ _ => decide (e = .ve) && d.reg
  | .vabs _ d _ _ => decide (e = .ve) && d.dst
  | .vneg _ d _ _ => decide (e = .ve) && d.dst
  | .vsqrt _ d _ _ => decide (e = .ve) && d.dst
  | .vrcp _ d _ _ => decide (e = .ve) && d.dst
  | .vrsq _ d _ _ => decide (e = .ve) && d.dst
  | .vexp2 _ d _ _ => decide (e = .ve) && d.dst
  | .vlog2 _ d _ _ => decide (e = .ve) && d.dst
  | .veUnitComplete _ => false
  | .viadd _ d _ _ _ => decide (e = .ve) && d.dst
  | .visub _ d _ _ _ => decide (e = .ve) && d.dst
  | .vimul _ d _ _ _ => decide (e = .ve) && d.dst
  | .vimulh _ d _ _ _ => decide (e = .ve) && d.dst
  | .vimin _ d _ _ _ => decide (e = .ve) && d.dst
  | .vimax _ d _ _ _ => decide (e = .ve) && d.dst
  | .vclamp _ d _ _ _ => decide (e = .ve) && d.reg
  | .vwadd _ d _ _ _ => decide (e = .ve) && d.dst
  | .vand _ d _ _ _ => decide (e = .ve) && d.dst
  | .vor _ d _ _ _ => decide (e = .ve) && d.dst
  | .vxor _ d _ _ _ => decide (e = .ve) && d.dst
  | .vnot _ d _ _ => decide (e = .ve) && d.dst
  | .vshl _ d _ _ _ => decide (e = .ve) && d.dst
  | .vshr _ d _ _ _ => decide (e = .ve) && d.dst
  | .vsra _ d _ _ _ => decide (e = .ve) && d.dst
  | .vrshr _ d _ _ _ => decide (e = .ve) && d.dst
  | .vmacb _ d _ _ _ => decide (e = .ve) && d.reg
  | .vimulr _ d _ _ _ => decide (e = .ve) && d.dst
  | .vnarb _ d _ _ => decide (e = .ve) && d.dst
  | .vcmp _ _ _ _ _ _ => decide (e = .ve)
  | .vfcmp _ _ _ _ _ _ => decide (e = .ve)
  | .vpand _ _ _ _ => decide (e = .ve)
  | .vpor _ _ _ _ => decide (e = .ve)
  | .vpnot _ _ _ => decide (e = .ve)
  | .vsel _ d _ _ _ => decide (e = .ve) && d.dst
  | .vcvtLow dst src d _ k => decide (e = .ve) && d.dst && cvtSegOk dst src k.toNat
  | .vcvtHigh dst src d _ k => decide (e = .ve) && d.dst && cvtSegOk dst src (8 + k.toNat)
  | .vqnt dst d _ _ k => decide (e = .ve) && d.dst && dst.segOk k.toNat
  | .vperm _ d _ _ _ => decide (e = .ve) && d.dst
  | .vrot _ d _ _ => decide (e = .ve) && d.dst
  | .vrmrg _ d _ _ => decide (e = .ve) && d.reg
  | .vshuf _ _ d _ _ => decide (e = .ve) && d.dst
  | .vbcast blk i d _ _ => decide (e = .ve) && d.dst && decide (i.toNat < 256 / bcastBytes blk)
  | .vextr wide i d _ _ => decide (e = .ve) && d.dst && decide (i.toNat < (if wide then 32 else 64))
  | .viota _ _ d _ => decide (e = .ve) && d.dst
  | .vscan _ d _ _ => decide (e = .ve) && d.dst
  | .xclr _ _ => decide (e = .ve)
  | .xacc _ _ _ => decide (e = .ve)
  | .xsca _ _ _ _ _ => decide (e = .ve)
  | .xred _ _ _ _ => decide (e = .ve)
  | .xrnd _ d _ _ => decide (e = .ve) && d.dst
  | .xld _ m _ => decide (e = .ve) && m.aIdxNoSwz
  | .xst _ m _ => decide (e = .ve) && m.aIdxNoSwz
  | .vkey t d _ b _ => decide (e = .ve) && d.dst && (decide (t = .m3) || decide (b = .r 0))
  | .vld d m _ => decide (e = .ve) && d.dst && m.aIdx
  | .vst _ m _ => decide (e = .ve) && m.aIdx
  | .vstm _ m _ _ => decide (e = .ve) && m.aIdx
  | .vldq _ m _ _ => decide (e = .ve) && m.aIdx
  | .vldt d m _ _ => decide (e = .ve) && d.dst && m.aIdx
  | .vgath _ _ _ _ _ _ => decide (e = .ve)
  | .vscat _ _ _ _ _ _ => decide (e = .ve)
  | .vpref _ _ _ _ _ => decide (e = .ve)
  | .cpy _ m _ => decide (e = .ce) && m.aIdxNoSwz
  | .cpyt _ m _ => decide (e = .ce) && m.aIdxNoSwz
  | .cpym _ _ m _ => decide (e = .ce) && m.aIdxNoSwz
  | .pput _ _ _ _ => decide (e = .ce)
  | .cwprd _ _ _ _ => decide (e = .ce)
  | .ccan all c _ => decide (e = .ce) && (!all || decide (c = 0))
  | .cbuf _ _ m _ => decide (e = .ce) && m.aIdxNoSwz
  | .cstat _ _ _ _ => decide (e = .ce)
  | .cgrp _ m _ => decide (e = .ce) && m.aIdxNoSwz
  | .car _ m _ => decide (e = .ce) && m.aIdxNoSwz
  | .crs _ m _ => decide (e = .ce) && m.aIdxNoSwz
  | .cag _ m _ => decide (e = .ce) && m.aIdxNoSwz
  | .ca2a _ m _ => decide (e = .ce) && m.aIdxNoSwz
  | .cbc _ m _ => decide (e = .ce) && m.aIdxNoSwz
  | .repart _ m _ => decide (e = .ce) && m.aIdxNoSwz
  | .mlease n => decide (e = .mx) && decide (1 ≤ n.toNat) && decide (n.toNat ≤ 256)
  | .mfree => decide (e = .mx)
  | .mlda _ _ m _ => decide (e = .mx) && m.aIdx
  | .mldu cls m _ => decide (e = .mx) && m.aIdxNoSwz && (decide (cls = 0) || decide (cls = 3))
  | .mldb _ _ m _ => decide (e = .mx) && m.aIdx
  | .mldbt _ _ m _ => decide (e = .mx) && m.aIdx
  | .mmul _ _ _ _ _ _ => decide (e = .mx)
  | .mzero _ _ => decide (e = .mx)
  | .mrd _ m _ => decide (e = .mx) && m.aIdx
  | .mrdx _ _ _ => decide (e = .mx)
  | .mstat _ _ _ => decide (e = .mx)
  | .rep _ => decide (e = .mx)
  | .mldp _ _ _ m _ => decide (e = .mx) && m.aIdx
  | .mmulp _ _ _ _ _ _ _ => decide (e = .mx)
  | .mmulpt _ _ _ _ _ _ _ => decide (e = .mx)
  | .meps _ _ _ m _ => decide (e = .mx) && m.aIdx
  | .mseed _ _ => decide (e = .mx)
  | .resultLanding _ _ => false
  | .engineHalted _ _ => false
  | .instructionFetch _ _ => false
  | .qTimeout _ _ => false
  | .memoryAccessPerform _ _ _ _ => false
  | .pageRequestRecordWrite _ => false
  | .fenceComplete _ _ _ => false
  | .tlsigComplete _ _ _ => false
  | .tlwaitComplete _ _ _ => false
  | .bwaitComplete _ _ _ => false
  | .handlerEntry _ => false
  | .leaseArbitration _ => false
  | .leaseIdleTimeout _ => false
  | .tileLoadPerform _ _ => false
  | .arrayCommandBegin _ => false
  | .arrayCommandComplete _ _ => false
  | .mrdxPush _ => false
  | .infuserTileForm _ => false
  | .caddyRelease _ => false
  | .copyLanding _ _ _ => false
  | .copyComplete _ _ => false
  | .contributionArrival _ _ => false
  | .elementReduce _ _ _ _ => false
  | .collectiveResultLanding _ _ _ => false
  | .collectiveComplete _ _ => false
  | .slotArrival _ => false
  | .nackBusyRetry _ _ _ => false
  | .remoteRequestCheck _ => false
  | .remoteReply _ _ _ => false
  | .frameAuthFail _ _ => false
  | .linkTraining _ _ => false
  | .linkKeyed _ _ => false
  | .protectedModeEnter _ _ => false
  | .protectedModeExit _ _ => false
  | .timeExchange _ _ _ => false
  | .qtail _ _ _ => false
  | .controlBlockRefresh _ _ => false
  | .launch _ _ => false
  | .update _ _ => false
  | .gang _ _ => false
  | .queueEnable _ _ _ => false
  | .reset _ _ => false
  | .launchDispatch _ _ => false
  | .launchStart _ _ => false
  | .blockedEvent _ _ => false
  | .gangReserve _ => false
  | .gangto _ => false
  | .instanceEnd _ => false
  | .killed _ => false
  | .deadlineEvent _ => false
  | .prrplyRetry _ _ => false
  | .prrplyFail _ _ => false
  | .invcmdStage1 _ => false
  | .invcmdStage2 _ => false
  | .invcmdWholeSlice _ => false
  | .invalidationComplete _ => false
  | .prqctl _ _ => false
  | .qver _ _ => false
  | .qverpf _ => false
  | .ckpt _ => false
  | .checkpointComplete _ => false
  | .eventRecordWrite => false
  | .registerWrite _ _ => false
  | .preemptStop _ => false
  | .preemptFreeze _ => false
  | .preemptAuto _ _ => false
  | .autoDeadline _ => false
  | .contextSwapOut _ => false
  | .contextParkOut _ => false
  | .restore _ _ _ => false
  | .migration _ _ => false
  | .migrateIn _ => false
  | .replyForward _ _ _ => false
  | .replyTimeout _ _ => false
  | .periodicMeterRecord _ => false
  | .regionOpen _ => false
  | .carryIn _ => false
  | .powerGood _ _ => false
  | .reducedService => false
  | .fullService => false
  | .clockLower => false
  | .clockRaise => false
  | .heartbeat _ => false
  | .handoverStart _ _ => false
  | .handoverCommit _ => false
  | .getVersion => false
  | .getMeasurements => false
  | .getCertificate => false
  | .stall _ _ => false
  | .stallWireSample _ => false
  | .icinvComplete _ _ => false
  | .hcallComplete _ _ _ => false
  | .queueBind _ _ _ => false
  | .sliceCreate _ _ => false
  | .regionClose _ => false
  | .uncorrectableError _ => false
  | .patrolScrubbing _ => false

end Sys2Proof
end

