-- ==== Sys2Proof/Decode.lean ====
section
/-!
DEFINITION. Decoding a syllable of a line of an engine, total on all words and rejecting by name (R29, R36 to R47), and
after it the encoder, written from the same tables. The major alone sets an instruction's length (R29); a word with a
field value that is not legal raises ILL_FIELD, and a major that the engine does not list raises ILL_OP (R47).
-/

namespace Sys2Proof

/-- Why a syllable is no instruction (R47). -/
inductive DecodeFault where
  | illOp
  | illField
  deriving DecidableEq, Repr

/-- Bits `lo+len-1:lo` of a syllable. -/
def bits (w : Syl) (lo len : Nat) : BitVec len := w.extractLsb' lo len

/-- The stop bit of a syllable (R29). -/
def sylStop (w : Syl) : Bool := w.getLsbD 31

/-- The major opcode of a syllable (R29). -/
def sylMajor (w : Syl) : BitVec 5 := bits w 26 5

/-- Majors 28 to 31 are 64-bit instructions in every engine (R29). -/
def sylIsWide (w : Syl) : Bool := decide (28 ≤ (sylMajor w).toNat)

/-! ## Field codes -/

/-- R40: a 6-bit g-field. -/
def GField.ofCode (c : BitVec 6) : GField :=
  if c.toNat < 48 then .r c
  else if c.toNat < 56 then .pop (c.extractLsb' 0 3) else .peek (c.extractLsb' 0 3)

/-- R40: the code of a g-field. -/
def GField.code : GField → BitVec 6
  | .r n => n
  | .pop q => (6 : BitVec 3) ++ q
  | .peek q => (7 : BitVec 3) ++ q

/-- R40: a 6-bit vector field; codes 48 to 63 are reserved. -/
def VField.ofCode (c : BitVec 6) : Option VField :=
  if c.toNat < 32 then some (.r (c.extractLsb' 0 5))
  else if c.toNat < 40 then some (.pop (c.extractLsb' 0 3))
  else if c.toNat < 48 then some (.peek (c.extractLsb' 0 3)) else none

/-- R40: the code of a vector field. -/
def VField.code : VField → BitVec 6
  | .r n => (0 : BitVec 1) ++ n
  | .pop q => (4 : BitVec 3) ++ q
  | .peek q => (5 : BitVec 3) ++ q

/-- An address register named in a 6-bit field: bits 5:4 are zero (R40). -/
def aregOfCode (c : BitVec 6) : Option (BitVec 4) :=
  if c.toNat < 16 then some (c.extractLsb' 0 4) else none

/-- The register operand of a common major (R36, R209). -/
def RF.ofCode (e : Engine) (c : BitVec 6) : Option RF :=
  if e = .scu then some (.g (GField.ofCode c)) else (aregOfCode c).map .a

/-- The code of such an operand. -/
def RF.code : RF → BitVec 6
  | .g f => f.code
  | .a n => (0 : BitVec 2) ++ n

/-- R38: the mode bits of Form D. -/
def AMode.ofCode (c : BitVec 2) : AMode :=
  if c = 0 then .off else if c = 1 then .idx else if c = 2 then .idxShift else .swz

/-- R38. -/
def AMode.code : AMode → BitVec 2
  | .off => 0
  | .idx => 1
  | .idxShift => 2
  | .swz => 3

/-- R36: condition codes; 6 and 7 are reserved. -/
def Cond.ofCode (c : BitVec 3) : Option Cond :=
  if c = 0 then some .eq else if c = 1 then some .ne else if c = 2 then some .lt
  else if c = 3 then some .le else if c = 4 then some .ltn else if c = 5 then some .len else none

/-- R36. -/
def Cond.code : Cond → BitVec 3
  | .eq => 0
  | .ne => 1
  | .lt => 2
  | .le => 3
  | .ltn => 4
  | .len => 5

/-- R139: condition codes of VFCMP. -/
def FCond.ofCode (c : BitVec 3) : Option FCond :=
  if c = 0 then some .eq else if c = 1 then some .ne else if c = 2 then some .lt
  else if c = 3 then some .le else if c = 4 then some .un else if c = 5 then some .ord else none

/-- R139. -/
def FCond.code : FCond → BitVec 3
  | .eq => 0
  | .ne => 1
  | .lt => 2
  | .le => 3
  | .un => 4
  | .ord => 5

/-- R93: the special register a number names. -/
def SReg.ofCode (n : BitVec 10) : Option SReg :=
  if n = 0x000 then some .gtime else if n = 0x001 then some .ptime else if n = 0x002 then some .stallc
  else if n = 0x003 then some .mpc else if n = 0x004 then some .slackv else if n = 0x005 then some .tokst
  else if n = 0x006 then some .fovf else if n = 0x008 then some .trapv else if n = 0x009 then some .faultinfo
  else if n = 0x00A then some .stashst else if n = 0x00B then some .vflags
  else if n.extractLsb' 3 7 = 2 then some (.qcfg (n.extractLsb' 0 3))
  else if n.extractLsb' 2 8 = 6 then some (.flagr (n.extractLsb' 0 2))
  else if n.extractLsb' 2 8 = 7 then some (.lcnt (n.extractLsb' 0 2))
  else if n = 0x020 then some .unfd else if n = 0x021 then some .seeds else if n = 0x022 then some .seedm
  else if n = 0x023 then some .leasest else none

/-- R93: the number of a special register. -/
def SReg.code : SReg → BitVec 10
  | .gtime => 0x000
  | .ptime => 0x001
  | .stallc => 0x002
  | .mpc => 0x003
  | .slackv => 0x004
  | .tokst => 0x005
  | .fovf => 0x006
  | .trapv => 0x008
  | .faultinfo => 0x009
  | .stashst => 0x00A
  | .vflags => 0x00B
  | .qcfg n => (2 : BitVec 7) ++ n
  | .flagr k => (6 : BitVec 8) ++ k
  | .lcnt k => (7 : BitVec 8) ++ k
  | .unfd => 0x020
  | .seeds => 0x021
  | .seedm => 0x022
  | .leasest => 0x023

/-- R210: kind 3 is reserved. -/
def FenceKind.ofCode (c : BitVec 2) : Option FenceKind :=
  if c = 0 then some .acq else if c = 1 then some .rel else if c = 2 then some .full else none

/-- R210. -/
def FenceKind.code : FenceKind → BitVec 2
  | .acq => 0
  | .rel => 1
  | .full => 2

/-- R191: scopes 6 and 7 are reserved. -/
def Scope.ofCode (c : BitVec 3) : Option Scope :=
  if c = 0 then some .engine else if c = 1 then some .core else if c = 2 then some .cluster
  else if c = 3 then some .panel else if c = 4 then some .slice else if c = 5 then some .system else none

/-- R191. -/
def Scope.code : Scope → BitVec 3
  | .engine => 0
  | .core => 1
  | .cluster => 2
  | .panel => 3
  | .slice => 4
  | .system => 5

/-- R192: bits S, G, F, high to low. -/
def SMask.ofCode (c : BitVec 3) : SMask := { s := c.getLsbD 2, g := c.getLsbD 1, f := c.getLsbD 0 }

/-- R192. -/
def SMask.code (m : SMask) : BitVec 3 := BitVec.ofBool m.s ++ BitVec.ofBool m.g ++ BitVec.ofBool m.f

/-- R50: scopes of ICINV. -/
def IcScope.ofCode (c : BitVec 2) : IcScope :=
  if c = 0 then .engine else if c = 1 then .core else if c = 2 then .panel else .slice

/-- R50. -/
def IcScope.code : IcScope → BitVec 2
  | .engine => 0
  | .core => 1
  | .panel => 2
  | .slice => 3

/-- R110: AMESH selectors. -/
def MeshSel.ofCode (c : BitVec 10) : Option MeshSel :=
  if c = 0 then some .x else if c = 1 then some .y else if c = 2 then some .die else if c = 3 then some .px
  else if c = 4 then some .py else if c = 5 then some .pw else if c = 6 then some .ph else if c = 7 then some .pos
  else if c = 8 then some .index else if c = 9 then some .packed else if c = 10 then some .dmask else none

/-- R110. -/
def MeshSel.code : MeshSel → BitVec 10
  | .x => 0
  | .y => 1
  | .die => 2
  | .px => 3
  | .py => 4
  | .pw => 5
  | .ph => 6
  | .pos => 7
  | .index => 8
  | .packed => 9
  | .dmask => 10

/-- R43, R324: load types; 7 is reserved. -/
def LdTy.ofCode (c : BitVec 3) : Option LdTy :=
  if c = 0 then some .n8 else if c = 1 then some .n16 else if c = 2 then some .n32 else if c = 3 then some .n64
  else if c = 4 then some .i8 else if c = 5 then some .i16 else if c = 6 then some .i32 else none

/-- R43. -/
def LdTy.code : LdTy → BitVec 3
  | .n8 => 0
  | .n16 => 1
  | .n32 => 2
  | .n64 => 3
  | .i8 => 4
  | .i16 => 5
  | .i32 => 6

/-- R43: store widths. -/
def StTy.ofCode (c : BitVec 2) : StTy :=
  if c = 0 then .n8 else if c = 1 then .n16 else if c = 2 then .n32 else .n64

/-- R43. -/
def StTy.code : StTy → BitVec 2
  | .n8 => 0
  | .n16 => 1
  | .n32 => 2
  | .n64 => 3

/-- R43, R181: atomic operations; 9 to 15 are reserved. -/
def AtOp.ofCode (c : BitVec 4) : Option AtOp :=
  if c = 0 then some .add else if c = 1 then some .and else if c = 2 then some .or else if c = 3 then some .xor
  else if c = 4 then some .min else if c = 5 then some .max else if c = 6 then some .minn
  else if c = 7 then some .maxn else if c = 8 then some .xchg else none

/-- R43. -/
def AtOp.code : AtOp → BitVec 4
  | .add => 0
  | .and => 1
  | .or => 2
  | .xor => 3
  | .min => 4
  | .max => 5
  | .minn => 6
  | .maxn => 7
  | .xchg => 8

/-- R326. -/
def RcasTy.ofCode (c : BitVec 4) : Option RcasTy :=
  if c = 0 then some .n64 else if c = 1 then some .n32 else if c = 2 then some .pair else none

/-- R326. -/
def RcasTy.code : RcasTy → BitVec 4
  | .n64 => 0
  | .n32 => 1
  | .pair => 2

/-- R130: floating-point types; 3 is reserved. -/
def FTy.ofCode (c : BitVec 2) : Option FTy :=
  if c = 0 then some .f32 else if c = 1 then some .f16 else if c = 2 then some .bf16 else none

/-- R130. -/
def FTy.code : FTy → BitVec 2
  | .f32 => 0
  | .f16 => 1
  | .bf16 => 2

/-- R130: integer types of major 5. -/
def ITy.ofCode (c : BitVec 2) : ITy :=
  if c = 0 then .i32 else if c = 1 then .i16 else if c = 2 then .i8 else .n32

/-- R130. -/
def ITy.code : ITy → BitVec 2
  | .i32 => 0
  | .i16 => 1
  | .i8 => 2
  | .n32 => 3

/-- R130: element widths; 3 is reserved. -/
def WTy.ofCode (c : BitVec 2) : Option WTy :=
  if c = 0 then some .b32 else if c = 1 then some .b16 else if c = 2 then some .b8 else none

/-- R130. -/
def WTy.code : WTy → BitVec 2
  | .b32 => 0
  | .b16 => 1
  | .b8 => 2

/-- R130: types of VWADD; 0 is reserved. -/
def WaddTy.ofCode (c : BitVec 2) : Option WaddTy :=
  if c = 1 then some .i16 else if c = 2 then some .i8 else if c = 3 then some .n16 else none

/-- R130. -/
def WaddTy.code : WaddTy → BitVec 2
  | .i16 => 1
  | .i8 => 2
  | .n16 => 3

/-- R142: format codes; 14 and 15 are reserved. -/
def Fmt.ofCode (c : BitVec 4) : Option Fmt :=
  if c = 0 then some .f32 else if c = 1 then some .f16 else if c = 2 then some .bf16 else if c = 3 then some .e5m2
  else if c = 4 then some .e4m3 else if c = 5 then some .e3m2 else if c = 6 then some .e2m3
  else if c = 7 then some .e2m1 else if c = 8 then some .i32 else if c = 9 then some .i16
  else if c = 10 then some .i8 else if c = 11 then some .n8 else if c = 12 then some .t2
  else if c = 13 then some .e8m0 else none

/-- R142. -/
def Fmt.code : Fmt → BitVec 4
  | .f32 => 0
  | .f16 => 1
  | .bf16 => 2
  | .e5m2 => 3
  | .e4m3 => 4
  | .e3m2 => 5
  | .e2m3 => 6
  | .e2m1 => 7
  | .i32 => 8
  | .i16 => 9
  | .i8 => 10
  | .n8 => 11
  | .t2 => 12
  | .e8m0 => 13

/-- R130: destinations of VQNT. -/
def QFmt.ofCode (c : BitVec 2) : QFmt :=
  if c = 0 then .e4m3 else if c = 1 then .e5m2 else if c = 2 then .e2m1 else .i8

/-- R130. -/
def QFmt.code : QFmt → BitVec 2
  | .e4m3 => 0
  | .e5m2 => 1
  | .e2m1 => 2
  | .i8 => 3

/-- R145: patterns; 4 to 63 are reserved. -/
def ShufPat.ofCode (c : BitVec 6) : Option ShufPat :=
  if c = 0 then some .unzip else if c = 1 then some .zip else if c = 2 then some .reverse
  else if c = 3 then some .swap else none

/-- R145. -/
def ShufPat.code : ShufPat → BitVec 6
  | .unzip => 0
  | .zip => 1
  | .reverse => 2
  | .swap => 3

/-- R149: the operation in s2 with the type code. -/
def ScanOp.ofCode (s : BitVec 6) (t : BitVec 2) : Option ScanOp :=
  if s = 0 then (WTy.ofCode t).map .add
  else if s = 1 then (WTy.ofCode t).map .max
  else if s = 2 then (WTy.ofCode t).map .min
  else if s = 3 then (FTy.ofCode t).map .fadd else none

/-- R149: the s2 code. -/
def ScanOp.code : ScanOp → BitVec 6
  | .add _ => 0
  | .max _ => 1
  | .min _ => 2
  | .fadd _ => 3

/-- R149: the type code. -/
def ScanOp.ty : ScanOp → BitVec 2
  | .add t => t.code
  | .max t => t.code
  | .min t => t.code
  | .fadd t => t.code

/-- R130: key kinds; 3 is reserved. -/
def KeyTy.ofCode (c : BitVec 2) : Option KeyTy :=
  if c = 0 then some .m3 else if c = 1 then some .m2 else if c = 2 then some .h2 else none

/-- R130. -/
def KeyTy.code : KeyTy → BitVec 2
  | .m3 => 0
  | .m2 => 1
  | .h2 => 2

/-- R46: formats of MMUL; minors 7 to 15 are reserved. -/
def MFmt.ofCode (c : BitVec 4) : Option MFmt :=
  if c = 0 then some .e4m3 else if c = 1 then some .e5m2 else if c = 2 then some .e3m2 else if c = 3 then some .e2m3
  else if c = 4 then some .e2m1 else if c = 5 then some .i8 else if c = 6 then some .t2 else none

/-- R46. -/
def MFmt.code : MFmt → BitVec 4
  | .e4m3 => 0
  | .e5m2 => 1
  | .e3m2 => 2
  | .e2m3 => 3
  | .e2m1 => 4
  | .i8 => 5
  | .t2 => 6

/-! ## Field positions (R36) -/

/-- d of Forms A, B, V, W, L; data of Form D. -/
def fD (w : Syl) : BitVec 6 := bits w 20 6
/-- s1. -/
def fS1 (w : Syl) : BitVec 6 := bits w 14 6
/-- s2, and the field of Form D. -/
def fS2 (w : Syl) : BitVec 6 := bits w 8 6
/-- pg or tok of Forms A, V and D. -/
def fTok (w : Syl) : BitVec 3 := bits w 5 3
/-- pn, or bit 4. -/
def fPn (w : Syl) : BitVec 1 := bits w 4 1
/-- minor of Forms A, B, C, W, S, P, L. -/
def fMinor (w : Syl) : BitVec 4 := bits w 0 4
/-- imm10 of Form B. -/
def fImm10 (w : Syl) : BitVec 10 := bits w 4 10
/-- type of Forms V and VC. -/
def fTy (w : Syl) : BitVec 2 := bits w 3 2
/-- op of Forms V, VC and M. -/
def fOp (w : Syl) : BitVec 3 := bits w 0 3
/-- base of Forms D and M. -/
def fBase (w : Syl) : BitVec 4 := bits w 16 4
/-- mode of Form D. -/
def fMode (w : Syl) : BitVec 2 := bits w 14 2
/-- minor5 of Form D. -/
def fMinor5 (w : Syl) : BitVec 5 := bits w 0 5
/-- s of Form M. -/
def fMS (w : Syl) : BitVec 6 := bits w 10 6
/-- aop of Form M. -/
def fAop (w : Syl) : BitVec 4 := bits w 6 4
/-- tok of Form M. -/
def fMTok (w : Syl) : BitVec 3 := bits w 3 3
/-- The guard of Forms A, C and S. -/
def fGuard (w : Syl) : Guard := { p := fTok w, neg := w.getLsbD 4 }
/-- The guard of Form E. -/
def fGuardE (w : Syl) : Guard := { p := bits w 21 3, neg := w.getLsbD 20 }
/-- The memory operand of Form D. -/
def fMem (w : Syl) : MemOpnd := { base := fBase w, mode := AMode.ofCode (fMode w), field := fS2 w }
/-- d as a g-field. -/
def gD (w : Syl) : GField := GField.ofCode (fD w)
/-- s1 as a g-field. -/
def gS1 (w : Syl) : GField := GField.ofCode (fS1 w)
/-- s2 as a g-field. -/
def gS2 (w : Syl) : GField := GField.ofCode (fS2 w)
/-- s of Form M as a g-field. -/
def gMS (w : Syl) : GField := GField.ofCode (fMS w)

/-- An instruction where its condition on the word's fixed bits holds; otherwise ILL_FIELD. -/
def whenBits (c : Bool) (i : Instr) : Option Instr := if c then some i else none

/-- The common majors (R42, and the entries R88, R89, R118 to R120, R209 to R216, R377 to R383). -/
def decodeCommon (e : Engine) (w : Syl) : Option Instr :=
  let m := fMinor w
  if sylMajor w = 1 then
    if m = 0 then whenBits (bits w 4 22 = 0) .nop
    else if m = 1 then whenBits (bits w 4 22 = 0) .halt
    else if m = 2 then whenBits (bits w 12 14 = 0) (.waitk (bits w 4 8))
    else if m = 3 then some (.slack (bits w 4 22))
    else none
  else if sylMajor w = 23 then
    if m = 0 then do
      let d ← RF.ofCode e (fD w)
      let r ← SReg.ofCode (bits w 10 10)
      whenBits (bits w 8 2 = 0) (.mfs d r (fGuard w))
    else if m = 1 then do
      let d ← RF.ofCode e (fD w)
      let r ← SReg.ofCode (bits w 10 10)
      whenBits (bits w 8 2 = 0) (.mts r d (fGuard w))
    else none
  else if sylMajor w = 24 then
    if m = 0 then whenBits (bits w 24 2 = 0) (.fset (bits w 20 4) (gS1 w) (fImm10 w))
    else if m = 1 then whenBits (bits w 24 2 = 0) (.fwait (bits w 20 4) (gS1 w) (fImm10 w))
    else if m = 2 then whenBits (bits w 24 2 = 0 && bits w 4 16 = 0) (.fclr (bits w 20 4))
    else none
  else if sylMajor w = 25 then
    if m = 0 then do
      let x ← Scope.ofCode (bits w 23 3)
      let k ← FenceKind.ofCode (bits w 14 2)
      whenBits (bits w 16 4 = 0 && fS2 w = 0 && fPn w = 0) (.fence k x (SMask.ofCode (bits w 20 3)) (fTok w))
    else if m = 1 then whenBits (fD w = 0 && fS1 w = 0 && fS2 w = 0) (.mark (fGuard w))
    else if m = 2 then do
      let d ← RF.ofCode e (fD w)
      whenBits (fS1 w = 0 && fS2 w = 0 && fPn w = 0) (.tlsig d (fTok w))
    else if m = 3 then do
      let t ← RF.ofCode e (fS1 w)
      let n ← RF.ofCode e (fS2 w)
      whenBits (fD w = 0 && fPn w = 0) (.tlwait t n (fTok w))
    else if m = 4 then do
      let d ← RF.ofCode e (fD w)
      let t ← RF.ofCode e (fS1 w)
      whenBits (fS2 w = 0 && fPn w = 0) (.tlrd d t (fTok w))
    else none
  else if sylMajor w = 26 then do
    let r ← RF.ofCode e (fD w)
    if fMode w ≠ 0 then none
    else if fMinor5 w = 0 then some (.binit r (fBase w) (fS2 w) (fTok w))
    else if fMinor5 w = 1 then some (.barr r (fBase w) (fS2 w) (fTok w))
    else if fMinor5 w = 2 then some (.bwait r (fBase w) (fS2 w) (fTok w))
    else if fMinor5 w = 3 then some (.btry r (fBase w) (fS2 w) (fTok w))
    else if fMinor5 w = 4 then some (.binv r (fBase w) (fS2 w) (fTok w))
    else none
  else if sylMajor w = 27 then
    if m = 0 then some (.trap (bits w 8 18) (fGuard w))
    else if m = 1 then some (.brk (bits w 8 18) (fGuard w))
    else if m = 2 then do
      let d ← RF.ofCode e (fD w)
      whenBits (fS1 w = 0 && bits w 11 3 = 0) (.faultrd d (bits w 8 3) (fGuard w))
    else if m = 3 then whenBits (fPn w = 0) (.hcall (gD w) (gS1 w) (fS2 w) (fTok w))
    else if m = 4 then
      whenBits (fD w = 0 && bits w 10 4 = 0 && fTok w = 0 && fPn w = 0)
        (.eret (gS1 w) (w.getLsbD 9) (w.getLsbD 8))
    else if m = 5 then
      whenBits (bits w 22 4 = 0 && fPn w = 0) (.icinv (IcScope.ofCode (bits w 20 2)) (gS1 w) (gS2 w) (fTok w))
    else if m = 6 then whenBits (fS2 w = 0 && fPn w = 0) (.mtrrd (gD w) (gS1 w) (fTok w))
    else none
  else none

/-- Majors 2 to 8 and 28 of the SCU: the ALU, compare, move and address instructions (R43, R101 to R110). `w2` is the
second syllable, used by LDI alone. -/
def decodeScuAlu (w w2 : Syl) : Option Instr :=
  let m := fMinor w
  if sylMajor w = 2 then
    if m = 0 then some (.add (gD w) (gS1 w) (gS2 w) (fGuard w))
    else if m = 1 then some (.sub (gD w) (gS1 w) (gS2 w) (fGuard w))
    else if m = 2 then some (.and (gD w) (gS1 w) (gS2 w) (fGuard w))
    else if m = 3 then some (.or (gD w) (gS1 w) (gS2 w) (fGuard w))
    else if m = 4 then some (.xor (gD w) (gS1 w) (gS2 w) (fGuard w))
    else if m = 5 then some (.andn (gD w) (gS1 w) (gS2 w) (fGuard w))
    else if m = 6 then some (.shl (gD w) (gS1 w) (gS2 w) (fGuard w))
    else if m = 7 then some (.shr (gD w) (gS1 w) (gS2 w) (fGuard w))
    else if m = 8 then some (.sra (gD w) (gS1 w) (gS2 w) (fGuard w))
    else if m = 9 then some (.rotl (gD w) (gS1 w) (gS2 w) (fGuard w))
    else if m = 10 then some (.min (gD w) (gS1 w) (gS2 w) (fGuard w))
    else if m = 11 then some (.max (gD w) (gS1 w) (gS2 w) (fGuard w))
    else if m = 12 then some (.minn (gD w) (gS1 w) (gS2 w) (fGuard w))
    else if m = 13 then some (.maxn (gD w) (gS1 w) (gS2 w) (fGuard w))
    else if m = 14 then some (.sel (gD w) (gS1 w) (gS2 w) (fGuard w))
    else if fS2 w = 0 then some (.clz (gD w) (gS1 w) (fGuard w))
    else if fS2 w = 1 then some (.ctz (gD w) (gS1 w) (fGuard w))
    else if fS2 w = 2 then some (.popc (gD w) (gS1 w) (fGuard w))
    else none
  else if sylMajor w = 3 then
    if m = 0 then some (.addi (gD w) (gS1 w) (fImm10 w))
    else if m = 1 then some (.andi (gD w) (gS1 w) (fImm10 w))
    else if m = 2 then some (.ori (gD w) (gS1 w) (fImm10 w))
    else if m = 3 then some (.xori (gD w) (gS1 w) (fImm10 w))
    else if bits w 10 4 ≠ 0 then none
    else if m = 4 then some (.shli (gD w) (gS1 w) (bits w 4 6))
    else if m = 5 then some (.shri (gD w) (gS1 w) (bits w 4 6))
    else if m = 6 then some (.srai (gD w) (gS1 w) (bits w 4 6))
    else none
  else if sylMajor w = 4 then
    if m = 0 then some (.mul (gD w) (gS1 w) (gS2 w) (fGuard w))
    else if m = 1 then some (.mulh (gD w) (gS1 w) (gS2 w) (fGuard w))
    else if m = 2 then some (.mulhn (gD w) (gS1 w) (gS2 w) (fGuard w))
    else if fPn w ≠ 0 then none
    else if m = 3 then some (.div (gD w) (gS1 w) (gS2 w) (fTok w))
    else if m = 4 then some (.divn (gD w) (gS1 w) (gS2 w) (fTok w))
    else if m = 5 then some (.rem (gD w) (gS1 w) (gS2 w) (fTok w))
    else if m = 6 then some (.remn (gD w) (gS1 w) (gS2 w) (fTok w))
    else none
  else if sylMajor w = 5 then do
    let c ← Cond.ofCode (bits w 20 3)
    if m = 0 then some (.cmp (bits w 23 3) c (gS1 w) (gS2 w) (fGuard w))
    else if m = 8 then some (.cmpi (bits w 23 3) c (gS1 w) (fImm10 w))
    else none
  else if sylMajor w = 6 then
    if m = 0 then some (.movi (gD w) (bits w 4 16))
    else if bits w 2 2 = 1 then some (.movk (gD w) (bits w 4 16) (bits w 0 2))
    else none
  else if sylMajor w = 7 then
    if m = 0 then some (.bext (gD w) (gS1 w) (gS2 w) (fGuard w))
    else if m = 1 then some (.bins (gD w) (gS1 w) (gS2 w) (fGuard w))
    else none
  else if sylMajor w = 8 then
    if m = 0 then
      whenBits (bits w 24 2 = 0 && bits w 18 2 = 0 && bits w 4 4 = 0) (.aadd (bits w 20 4) (bits w 14 4) (gS2 w))
    else if m = 1 then
      whenBits (bits w 24 2 = 0 && bits w 18 2 = 0) (.aaddi (bits w 20 4) (bits w 14 4) (fImm10 w))
    else if m = 2 then whenBits (bits w 24 2 = 0 && fImm10 w = 0) (.amov (bits w 20 4) (gS1 w))
    else if m = 3 then whenBits (bits w 18 2 = 0 && fImm10 w = 0) (.aget (gD w) (bits w 14 4))
    else if m = 4 then do
      let s ← MeshSel.ofCode (fImm10 w)
      whenBits (fS1 w = 0) (.amesh (gD w) s)
    else none
  else if sylMajor w = 28 then
    whenBits (m = 0 && bits w 5 15 = 0 && !sylStop w2) (.ldi (gD w) (bits w 4 1 ++ w2.extractLsb' 0 31))
  else none

/-- Majors 9 to 13 of the SCU: transfers, loops, JOIN, FORK and queue control (R43, R111 to R117). -/
def decodeScuCtl (w : Syl) : Option Instr :=
  let op := bits w 24 2
  if sylMajor w = 9 then whenBits (op = 0) (.br (bits w 4 16) (fMinor w) (fGuardE w))
  else if sylMajor w = 10 then
    if op = 0 then whenBits (bits w 20 4 = 0) (.jmp (bits w 4 16) (fMinor w))
    else if op = 1 then some (.call (bits w 4 16) (fMinor w) (fGuardE w))
    else if op = 2 then whenBits (bits w 0 14 = 0) (.jmpr (gS1 w) (fGuardE w))
    else whenBits (bits w 0 20 = 0) (.ret (fGuardE w))
  else if sylMajor w = 11 then
    if fMinor w ≠ 0 || bits w 4 2 ≠ 0 then none
    else if w.getLsbD 23 then some (.loopImmediate op (bits w 14 9) (bits w 10 4) (bits w 6 4))
    else whenBits (bits w 20 3 = 0) (.loopRegister op (gS1 w) (bits w 10 4) (bits w 6 4))
  else if sylMajor w = 12 then
    if op = 0 then
      whenBits (bits w 0 17 = 0) (.join (w.getLsbD 19) (w.getLsbD 18) (w.getLsbD 17) (fGuardE w))
    else some (.fork (Engine.ofCode op) (bits w 4 16) (fMinor w) (fGuardE w))
  else if sylMajor w = 13 then
    if bits w 17 3 ≠ 0 || fS2 w ≠ 0 then none
    else if fMinor w = 0 then whenBits (fD w = 0) (.qclose (bits w 14 3) (fGuard w))
    else if fMinor w = 1 then some (.qstat (gD w) (bits w 14 3) (fGuard w))
    else none
  else none

/-- Majors 16 to 19 and 22 of the SCU: memory, atomics, stash management and remote instructions (R43, R178 to R186,
R323 to R328). -/
def decodeScuMem (w : Syl) : Option Instr :=
  if sylMajor w = 16 then do
    let t ← LdTy.ofCode (bits w 0 3)
    if bits w 3 2 = 0 then some (.ld t (gD w) (fMem w) (fTok w))
    else if bits w 3 2 = 1 then some (.ldn t (gD w) (fMem w) (fTok w))
    else if bits w 3 2 = 2 then some (.lda t (gD w) (fMem w) (fTok w))
    else none
  else if sylMajor w = 17 then
    whenBits (bits w 2 3 = 0) (.st (StTy.ofCode (bits w 0 2)) (gD w) (fMem w) (fTok w))
  else if sylMajor w = 18 then
    if fOp w = 0 then do
      let o ← AtOp.ofCode (fAop w)
      some (.atm o false (gD w) (fBase w) (gMS w) (fMTok w))
    else if fOp w = 1 then do
      let o ← AtOp.ofCode (fAop w)
      some (.atm o true (gD w) (fBase w) (gMS w) (fMTok w))
    else if fAop w ≠ 0 then none
    else if fOp w = 2 then some (.acas false (gD w) (fBase w) (gMS w) (fMTok w))
    else if fOp w = 3 then some (.acas true (gD w) (fBase w) (gMS w) (fMTok w))
    else if fOp w = 4 then some (.acas2 (gD w) (fBase w) (gMS w) (fMTok w))
    else none
  else if sylMajor w = 19 then
    if fMode w ≠ 0 || fS2 w ≠ 0 then none
    else if fMinor5 w = 0 then some (.stbind (gD w) (fBase w) (fTok w))
    else if fMinor5 w = 1 then whenBits (fBase w = 0) (.stunbd (gD w) (fTok w))
    else if fMinor5 w = 2 then whenBits (fBase w = 0) (.stflsh (gD w) (fTok w))
    else if fMinor5 w = 3 then whenBits (fBase w = 0) (.stdrop (gD w) (fTok w))
    else if fMinor5 w = 4 then whenBits (fBase w = 0) (.sttch (gD w) (fTok w))
    else if fMinor5 w = 5 then some (.cflsh (gD w) (fBase w) (fTok w))
    else if fMinor5 w = 6 then some (.cinv (gD w) (fBase w) (fTok w))
    else if fMinor5 w = 7 then some (.cdisc (gD w) (fBase w) (fTok w))
    else none
  else if sylMajor w = 22 then
    if fOp w = 0 then do
      let t ← LdTy.ofCode (bits w 6 3)
      whenBits (fMS w = 0 && !w.getLsbD 9) (.rld t (gD w) (fBase w) (fMTok w))
    else if fOp w = 1 then
      whenBits (fD w = 0 && bits w 8 2 = 0) (.rst (StTy.ofCode (bits w 6 2)) (gMS w) (fBase w) (fMTok w))
    else if fOp w = 2 then do
      let o ← AtOp.ofCode (fAop w)
      some (.ratm o (gD w) (fBase w) (gMS w) (fMTok w))
    else if fOp w = 3 then do
      let t ← RcasTy.ofCode (fAop w)
      some (.rcas t (gD w) (fBase w) (gMS w) (fMTok w))
    else if fOp w = 4 then
      if fAop w = 0 then some (.casn (gD w) (fBase w) (gMS w) (fMTok w))
      else if fAop w = 1 then some (.enq (gD w) (fBase w) (gMS w) (fMTok w))
      else if fAop w = 2 then some (.deq (gD w) (fBase w) (gMS w) (fMTok w))
      else if fAop w = 3 then some (.chase (gD w) (fBase w) (gMS w) (fMTok w))
      else if fAop w = 4 then some (.fadd (gD w) (fBase w) (gMS w) (fMTok w))
      else if fAop w = 5 then some (.fminloc (gD w) (fBase w) (gMS w) (fMTok w))
      else none
    else if fOp w = 5 then
      whenBits (fD w = 0 && fBase w = 0 && fMS w = 0 && fAop w = 0) (.rfence (fMTok w))
    else none
  else none

/-- Majors 2 to 8 of the VE (R44, R130 to R140). -/
def decodeVeArith (w : Syl) : Option Instr :=
  let o := fOp w
  if sylMajor w = 2 then do
    let t ← FTy.ofCode (fTy w)
    let d ← VField.ofCode (fD w)
    let a ← VField.ofCode (fS1 w)
    let b ← VField.ofCode (fS2 w)
    if o = 0 then some (.vadd t d a b (fTok w))
    else if o = 1 then some (.vsub t d a b (fTok w))
    else if o = 2 then some (.vmul t d a b (fTok w))
    else if o = 3 then some (.vmin t d a b (fTok w))
    else if o = 4 then some (.vmax t d a b (fTok w))
    else if o = 5 then some (.vdiv t d a b (fTok w))
    else none
  else if sylMajor w = 3 then do
    let t ← FTy.ofCode (fTy w)
    let d ← VField.ofCode (fD w)
    let a ← VField.ofCode (fS1 w)
    let b ← VField.ofCode (fS2 w)
    if o = 0 then some (.vfma t d a b (fTok w))
    else if o = 1 then some (.vfms t d a b (fTok w))
    else if o = 2 then some (.vfnma t d a b (fTok w))
    else none
  else if sylMajor w = 4 then do
    let t ← FTy.ofCode (fTy w)
    let d ← VField.ofCode (fD w)
    let a ← VField.ofCode (fS1 w)
    if fS2 w ≠ 0 then none
    else if o = 0 then some (.vabs t d a (fTok w))
    else if o = 1 then some (.vneg t d a (fTok w))
    else if o = 2 then some (.vsqrt t d a (fTok w))
    else if o = 3 then some (.vrcp t d a (fTok w))
    else if o = 4 then some (.vrsq t d a (fTok w))
    else if o = 5 then some (.vexp2 t d a (fTok w))
    else if o = 6 then some (.vlog2 t d a (fTok w))
    else none
  else if sylMajor w = 5 then do
    let d ← VField.ofCode (fD w)
    let a ← VField.ofCode (fS1 w)
    let b ← VField.ofCode (fS2 w)
    let t := ITy.ofCode (fTy w)
    if o = 0 then some (.viadd t d a b (fTok w))
    else if o = 1 then some (.visub t d a b (fTok w))
    else if o = 2 then some (.vimul t d a b (fTok w))
    else if o = 3 then some (.vimulh t d a b (fTok w))
    else if o = 4 then some (.vimin t d a b (fTok w))
    else if o = 5 then some (.vimax t d a b (fTok w))
    else if o = 6 then some (.vclamp t d a b (fTok w))
    else do
      let t ← WaddTy.ofCode (fTy w)
      some (.vwadd t d a b (fTok w))
  else if sylMajor w = 6 then do
    let t ← WTy.ofCode (fTy w)
    let d ← VField.ofCode (fD w)
    let a ← VField.ofCode (fS1 w)
    let b ← VField.ofCode (fS2 w)
    if o = 0 then some (.vand t d a b (fTok w))
    else if o = 1 then some (.vor t d a b (fTok w))
    else if o = 2 then some (.vxor t d a b (fTok w))
    else if o = 3 then whenBits (fS2 w = 0) (.vnot t d a (fTok w))
    else if o = 4 then some (.vshl t d a b (fTok w))
    else if o = 5 then some (.vshr t d a b (fTok w))
    else if o = 6 then some (.vsra t d a b (fTok w))
    else some (.vrshr t d a b (fTok w))
  else if sylMajor w = 7 then do
    let d ← VField.ofCode (fD w)
    let a ← VField.ofCode (fS1 w)
    let b ← VField.ofCode (fS2 w)
    if o = 0 then some (.vmacb (fTy w) d a b (fTok w))
    else if o = 1 then whenBits (!w.getLsbD 4) (.vimulr (w.getLsbD 3) d a b (fTok w))
    else if o = 2 then whenBits (fS2 w = 0) (.vnarb (fTy w) d a (fTok w))
    else none
  else if sylMajor w = 8 then
    if o = 0 then do
      let c ← Cond.ofCode (bits w 20 3)
      let t ← WTy.ofCode (fTy w)
      let a ← VField.ofCode (fS1 w)
      let b ← VField.ofCode (fS2 w)
      some (.vcmp c t (bits w 23 3) a b (fTok w))
    else if o = 1 then do
      let c ← FCond.ofCode (bits w 20 3)
      let t ← FTy.ofCode (fTy w)
      let a ← VField.ofCode (fS1 w)
      let b ← VField.ofCode (fS2 w)
      some (.vfcmp c t (bits w 23 3) a b (fTok w))
    else if bits w 20 3 ≠ 0 || bits w 17 3 ≠ 0 || bits w 11 3 ≠ 0 || fTy w ≠ 0 then none
    else if o = 2 then some (.vpand (bits w 23 3) (bits w 14 3) (bits w 8 3) (fTok w))
    else if o = 3 then some (.vpor (bits w 23 3) (bits w 14 3) (bits w 8 3) (fTok w))
    else if o = 4 then whenBits (bits w 8 3 = 0) (.vpnot (bits w 23 3) (bits w 14 3) (fTok w))
    else none
  else none

/-- An x register named in a 6-bit field: values 4 to 63 are reserved (R40). -/
def xregOfCode (c : BitVec 6) : Option (BitVec 2) :=
  if c.toNat < 4 then some (c.extractLsb' 0 2) else none

/-- Majors 9 to 15 of the VE (R44, R141 to R155). XRED's s2 field is zero, as that of the others of one source (log 29). -/
def decodeVeMove (w : Syl) : Option Instr :=
  let o := fOp w
  if sylMajor w = 9 then do
    let t ← WTy.ofCode (fTy w)
    let d ← VField.ofCode (fD w)
    let a ← VField.ofCode (fS1 w)
    let b ← VField.ofCode (fS2 w)
    whenBits (o = 0) (.vsel t d a b (fTok w))
  else if sylMajor w = 10 then do
    let d ← VField.ofCode (fD w)
    let a ← VField.ofCode (fS1 w)
    if o = 1 then do
      let b ← VField.ofCode (fS2 w)
      some (.vqnt (QFmt.ofCode (fTy w)) d a b (fTok w))
    else do
      let src ← Fmt.ofCode (bits w 10 4)
      let dst ← Fmt.ofCode (bits w 8 2 ++ fTy w)
      if o = 0 then some (.vcvtLow dst src d a (fTok w))
      else if o = 2 then some (.vcvtHigh dst src d a (fTok w))
      else none
  else if sylMajor w = 11 then do
    let d ← VField.ofCode (fD w)
    let a ← VField.ofCode (fS1 w)
    if o = 0 then do
      let t ← WTy.ofCode (fTy w)
      let b ← VField.ofCode (fS2 w)
      some (.vperm t d a b (fTok w))
    else if o = 1 then some (.vrot (fS2 w ++ fTy w) d a (fTok w))
    else if o = 2 then some (.vrmrg (fS2 w ++ fTy w) d a (fTok w))
    else if o = 3 then do
      let t ← WTy.ofCode (fTy w)
      let p ← ShufPat.ofCode (fS2 w)
      some (.vshuf t p d a (fTok w))
    else none
  else if sylMajor w = 12 then do
    let d ← VField.ofCode (fD w)
    if o = 0 then do
      let a ← VField.ofCode (fS1 w)
      some (.vbcast (fTy w) (fS2 w) d a (fTok w))
    else if o = 1 then do
      let a ← VField.ofCode (fS1 w)
      whenBits (!w.getLsbD 4) (.vextr (w.getLsbD 3) (fS2 w) d a (fTok w))
    else if o = 2 then do
      let t ← WTy.ofCode (fTy w)
      whenBits (fS1 w = 0) (.viota t (fS2 w) d (fTok w))
    else if o = 3 then do
      let a ← VField.ofCode (fS1 w)
      let p ← ScanOp.ofCode (fS2 w) (fTy w)
      some (.vscan p d a (fTok w))
    else none
  else if sylMajor w = 13 then
    if o = 0 then do
      let x ← xregOfCode (fD w)
      whenBits (fS1 w = 0 && fS2 w = 0 && fTy w = 0) (.xclr x (fTok w))
    else if o = 1 then do
      let x ← xregOfCode (fD w)
      let a ← VField.ofCode (fS1 w)
      whenBits (fS2 w = 0 && fTy w = 0) (.xacc x a (fTok w))
    else if o = 2 then do
      let x ← xregOfCode (fD w)
      let a ← VField.ofCode (fS1 w)
      let b ← VField.ofCode (fS2 w)
      whenBits (!w.getLsbD 4) (.xsca (w.getLsbD 3) x a b (fTok w))
    else if o = 3 then do
      let x ← xregOfCode (fD w)
      let a ← xregOfCode (fS1 w)
      whenBits (fS2 w = 0) (.xred (fTy w) x a (fTok w))
    else if o = 4 then do
      let d ← VField.ofCode (fD w)
      let a ← xregOfCode (fS1 w)
      whenBits (fS2 w = 0 && !w.getLsbD 4) (.xrnd (w.getLsbD 3) d a (fTok w))
    else none
  else if sylMajor w = 15 then do
    let t ← KeyTy.ofCode (fTy w)
    let d ← VField.ofCode (fD w)
    let a ← VField.ofCode (fS1 w)
    let b ← VField.ofCode (fS2 w)
    whenBits (o = 0) (.vkey t d a b (fTok w))
  else none

/-- Modes 0b01 and 0b10 of the gathers (R177): is the index shifted? -/
def gatherMode (c : BitVec 2) : Option Bool :=
  if c = 1 then some false else if c = 2 then some true else none

/-- Majors 14 and 16 to 18 of the VE (R44, R154, R172 to R177). -/
def decodeVeMem (w : Syl) : Option Instr :=
  if sylMajor w = 14 then do
    let x ← xregOfCode (fD w)
    if fMinor5 w = 0 then some (.xld x (fMem w) (fTok w))
    else if fMinor5 w = 1 then some (.xst x (fMem w) (fTok w))
    else none
  else if sylMajor w = 16 then do
    let d ← VField.ofCode (fD w)
    if bits w 0 2 = 0 then whenBits (bits w 2 3 = 0) (.vld d (fMem w) (fTok w))
    else if bits w 0 2 = 1 then whenBits (bits w 2 3 = 0) (.vst d (fMem w) (fTok w))
    else if bits w 0 2 = 2 then some (.vstm d (fMem w) (bits w 2 3) (fTok w))
    else none
  else if sylMajor w = 17 then do
    let d ← VField.ofCode (fD w)
    if bits w 0 2 = 0 then
      match d with
      | .pop q => some (.vldq q (fMem w) (bits w 2 3) (fTok w))
      | .r _ => none
      | .peek _ => none
    else if bits w 0 2 = 1 then some (.vldt d (fMem w) (bits w 2 3) (fTok w))
    else none
  else if sylMajor w = 18 then do
    let sh ← gatherMode (fMode w)
    if w.getLsbD 13 then none
    else if bits w 0 2 = 0 then
      match VField.ofCode (fD w) with
      | some (.r d) => some (.vgath d (fBase w) sh (bits w 8 5) (bits w 2 3) (fTok w))
      | some (.pop _) => none
      | some (.peek _) => none
      | none => none
    else if bits w 0 2 = 1 then do
      let s ← VField.ofCode (fD w)
      some (.vscat s (fBase w) sh (bits w 8 5) (bits w 2 3) (fTok w))
    else if bits w 0 2 = 2 then
      whenBits (fD w = 0) (.vpref (fBase w) sh (bits w 8 5) (bits w 2 3) (fTok w))
    else none
  else none

/-- The majors of the CE (R45, R293 to R297, R329, R346). -/
def decodeCe (w : Syl) : Option Instr :=
  let c := bits w 20 3
  if sylMajor w = 2 then whenBits (bits w 23 3 = 0 && fMinor5 w = 0) (.cpy c (fMem w) (fTok w))
  else if sylMajor w = 3 then whenBits (bits w 23 3 = 0 && fMinor5 w = 0) (.cpyt c (fMem w) (fTok w))
  else if sylMajor w = 4 then
    whenBits (bits w 24 2 = 0 && fMinor5 w = 0) (.cpym (w.getLsbD 23) c (fMem w) (fTok w))
  else if sylMajor w = 5 then
    whenBits (bits w 23 3 = 0 && bits w 12 4 = 0 && fMinor5 w = 0) (.pput c (fBase w) (bits w 8 4) (fTok w))
  else if sylMajor w = 6 then
    whenBits (bits w 24 2 = 0 && bits w 18 2 = 0 && fS2 w = 0 && fPn w = 0 && fMinor w = 0)
      (.cwprd (bits w 20 4) (w.getLsbD 17) (bits w 14 3) (fTok w))
  else if sylMajor w = 7 then
    whenBits (fD w = 0 && bits w 18 2 = 0 && fS2 w = 0 && fPn w = 0 && fMinor w = 0)
      (.ccan (w.getLsbD 17) (bits w 14 3) (fTok w))
  else if sylMajor w = 8 then
    whenBits (!w.getLsbD 25 && fMinor5 w = 0) (.cbuf (w.getLsbD 24) (bits w 20 4) (fMem w) (fTok w))
  else if sylMajor w = 9 then
    whenBits (bits w 24 2 = 0 && bits w 18 2 = 0 && fS2 w = 0 && fPn w = 0 && fMinor w = 0)
      (.cstat (bits w 20 4) (w.getLsbD 17) (bits w 14 3) (fTok w))
  else if sylMajor w = 10 then
    whenBits (bits w 22 4 = 0 && fMinor5 w = 0) (.cgrp (bits w 20 2) (fMem w) (fTok w))
  else if bits w 23 3 ≠ 0 then none
  else if sylMajor w = 11 then
    if fMinor5 w = 0 then some (.car c (fMem w) (fTok w))
    else if fMinor5 w = 1 then some (.crs c (fMem w) (fTok w))
    else if fMinor5 w = 2 then some (.cag c (fMem w) (fTok w))
    else none
  else if sylMajor w = 12 then
    if fMinor5 w = 0 then some (.ca2a c (fMem w) (fTok w))
    else if fMinor5 w = 1 then some (.cbc c (fMem w) (fTok w))
    else none
  else if sylMajor w = 13 then whenBits (fMinor5 w = 0) (.repart c (fMem w) (fTok w))
  else none

/-- An accumulator named in a 6-bit field: 0 or 1 (R40). -/
def accOfCode (c : BitVec 6) : Option Bool :=
  if c = 0 then some false else if c = 1 then some true else none

/-- The majors of the MX (R46, R233 to R246, R262 to R268). -/
def decodeMx (w : Syl) : Option Instr :=
  if sylMajor w = 2 then
    if fD w ≠ 0 || fS1 w ≠ 0 then none
    else if fMinor w = 0 then some (.mlease (fImm10 w))
    else if fMinor w = 1 then whenBits (fImm10 w = 0) .mfree
    else none
  else if sylMajor w = 3 then
    whenBits (fMinor5 w = 0) (.mlda (bits w 22 4) (bits w 20 2) (fMem w) (fTok w))
  else if sylMajor w = 4 then
    whenBits (fMinor5 w = 0 && bits w 22 4 = 0) (.mldu (bits w 20 2) (fMem w) (fTok w))
  else if sylMajor w = 5 then
    if fMinor5 w = 0 then some (.mldb (bits w 22 4) (bits w 20 2) (fMem w) (fTok w))
    else if fMinor5 w = 1 then some (.mldbt (bits w 22 4) (bits w 20 2) (fMem w) (fTok w))
    else none
  else if sylMajor w = 6 then do
    let d ← accOfCode (fD w)
    let t ← MFmt.ofCode (fMinor w)
    whenBits (bits w 17 3 = 0 && fS2 w = 0 && fPn w = 0)
      (.mmul t d (w.getLsbD 16) (w.getLsbD 15) (w.getLsbD 14) (fTok w))
  else if sylMajor w = 7 then do
    let d ← accOfCode (fD w)
    whenBits (fS1 w = 0 && fS2 w = 0 && fPn w = 0 && fMinor w = 0) (.mzero d (fTok w))
  else if sylMajor w = 8 then do
    let d ← accOfCode (fD w)
    if fMinor5 w = 0 then some (.mrd d (fMem w) (fTok w))
    else if fMinor5 w = 1 then
      whenBits (fBase w = 0 && fMode w = 0 && bits w 11 3 = 0) (.mrdx d (bits w 8 3) (fTok w))
    else none
  else if sylMajor w = 9 then
    whenBits (bits w 24 2 = 0 && bits w 15 5 = 0 && fS2 w = 0 && fPn w = 0 && fMinor w = 0)
      (.mstat (bits w 20 4) (w.getLsbD 14) (fTok w))
  else if sylMajor w = 10 then whenBits (fMinor w = 0 && bits w 16 10 = 0) (.rep (bits w 4 12))
  else if sylMajor w = 11 then
    whenBits (fMinor5 w = 0) (.mldp (bits w 22 4) (w.getLsbD 21) (w.getLsbD 20) (fMem w) (fTok w))
  else if sylMajor w = 12 then do
    let d ← accOfCode (fD w)
    if bits w 18 2 ≠ 0 || bits w 9 5 ≠ 0 || fPn w ≠ 0 then none
    else if fMinor w = 0 then
      some (.mmulp d (w.getLsbD 17) (w.getLsbD 16) (w.getLsbD 15) (w.getLsbD 14) (w.getLsbD 8) (fTok w))
    else if fMinor w = 1 then
      some (.mmulpt d (w.getLsbD 17) (w.getLsbD 16) (w.getLsbD 15) (w.getLsbD 14) (w.getLsbD 8) (fTok w))
    else none
  else if sylMajor w = 13 then
    whenBits (fMinor5 w = 0) (.meps (bits w 22 4) (w.getLsbD 21) (w.getLsbD 20) (fMem w) (fTok w))
  else if sylMajor w = 14 then
    whenBits (fD w = 0 && bits w 18 2 = 0 && bits w 12 2 = 0 && fTok w = 0 && fPn w = 0 && fMinor w = 0)
      (.mseed (bits w 14 4) (bits w 8 4))
  else none

/-- Majors that are the same in every engine (R42). -/
def commonMajor (m : Nat) : Bool := m = 1 || m = 23 || m = 24 || m = 25 || m = 26 || m = 27

/-- Majors an engine lists (R42 to R47). -/
def majorListed (e : Engine) (m : Nat) : Bool :=
  commonMajor m ||
    match e with
    | .scu => (2 ≤ m && m ≤ 13) || (16 ≤ m && m ≤ 19) || m = 22 || m = 28
    | .ve => (2 ≤ m && m ≤ 18)
    | .ce => (2 ≤ m && m ≤ 13)
    | .mx => (2 ≤ m && m ≤ 14)

/-- The instruction a word holds before its fields are checked against `wellFormed`. -/
def decodeRaw (e : Engine) (w w2 : Syl) : Option Instr :=
  let m := (sylMajor w).toNat
  if commonMajor m then decodeCommon e w
  else
    match e with
    | .scu =>
      if m ≤ 8 || m = 28 then decodeScuAlu w w2 else if m ≤ 13 then decodeScuCtl w else decodeScuMem w
    | .ve => if m ≤ 8 then decodeVeArith w else if m = 14 || 16 ≤ m then decodeVeMem w else decodeVeMove w
    | .ce => decodeCe w
    | .mx => decodeMx w

/-- Decode syllable `w` of a line of engine `e`; `w2` is the syllable after it (R29, R47). -/
def decode (e : Engine) (w w2 : Syl) : Except DecodeFault Instr :=
  if majorListed e (sylMajor w).toNat then
    match decodeRaw e w w2 with
    | some i => if wellFormed e i then .ok i else .error .illField
    | none => .error .illField
  else .error .illOp

/-! ## The encoder (R36, R42 to R46) -/

/-- Form A: d, s1, s2, pg or tok, pn, minor. -/
def formA (s : Bool) (maj : BitVec 5) (d a b : BitVec 6) (pg : BitVec 3) (pn : BitVec 1) (m : BitVec 4) : Syl :=
  BitVec.ofBool s ++ maj ++ d ++ a ++ b ++ pg ++ pn ++ m

/-- Form B: d, s1, imm10, minor. -/
def formB (s : Bool) (maj : BitVec 5) (d a : BitVec 6) (i : BitVec 10) (m : BitVec 4) : Syl :=
  BitVec.ofBool s ++ maj ++ d ++ a ++ i ++ m

/-- Form V: d, s1, s2, pg or tok, type, op. -/
def formV (s : Bool) (maj : BitVec 5) (d a b : BitVec 6) (pg : BitVec 3) (t : BitVec 2) (o : BitVec 3) : Syl :=
  BitVec.ofBool s ++ maj ++ d ++ a ++ b ++ pg ++ t ++ o

/-- Form W: d, imm16, minor. -/
def formW (s : Bool) (maj : BitVec 5) (d : BitVec 6) (i : BitVec 16) (m : BitVec 4) : Syl :=
  BitVec.ofBool s ++ maj ++ d ++ i ++ m

/-- Form S: reg, sreg, zero, pg, pn, minor. -/
def formS (s : Bool) (maj : BitVec 5) (d : BitVec 6) (r : BitVec 10) (g : Guard) (m : BitVec 4) : Syl :=
  BitVec.ofBool s ++ maj ++ d ++ r ++ (0 : BitVec 2) ++ g.p ++ BitVec.ofBool g.neg ++ m

/-- Form P: arg, minor. -/
def formP (s : Bool) (maj : BitVec 5) (arg : BitVec 22) (m : BitVec 4) : Syl :=
  BitVec.ofBool s ++ maj ++ arg ++ m

/-- Form D: data, base, mode, field, tok, minor5. -/
def formD (s : Bool) (maj : BitVec 5) (d : BitVec 6) (m : MemOpnd) (w : BitVec 3) (m5 : BitVec 5) : Syl :=
  BitVec.ofBool s ++ maj ++ d ++ m.base ++ m.mode.code ++ m.field ++ w ++ m5

/-- Form M: d, base, s, aop, tok, op. -/
def formM (s : Bool) (maj : BitVec 5) (d : BitVec 6) (b : BitVec 4) (x : BitVec 6) (o : BitVec 4) (w : BitVec 3)
    (op : BitVec 3) : Syl :=
  BitVec.ofBool s ++ maj ++ d ++ b ++ x ++ o ++ w ++ op

/-- Form E: op, pg, pn, ldisp, syl. -/
def formE (s : Bool) (maj : BitVec 5) (op : BitVec 2) (g : Guard) (l : BitVec 16) (y : BitVec 4) : Syl :=
  BitVec.ofBool s ++ maj ++ op ++ g.p ++ BitVec.ofBool g.neg ++ l ++ y

/-- Form F: lvl, K, cnt, eline, esyl, zero, minor. -/
def formF (s : Bool) (maj : BitVec 5) (lvl : BitVec 2) (k : Bool) (n : BitVec 9) (el es : BitVec 4) : Syl :=
  BitVec.ofBool s ++ maj ++ lvl ++ BitVec.ofBool k ++ n ++ el ++ es ++ (0 : BitVec 6)

/-- A memory operand [an] with mode 0b00. -/
def memAt (b : BitVec 4) (f : BitVec 6) : MemOpnd := { base := b, mode := .off, field := f }

/-- An address register in a 6-bit field (R40). -/
def aCode (n : BitVec 4) : BitVec 6 := (0 : BitVec 2) ++ n

/-- An x register in a 6-bit field (R40). -/
def xCode (n : BitVec 2) : BitVec 6 := (0 : BitVec 4) ++ n

/-- An accumulator in a 6-bit field (R40). -/
def accCode (d : Bool) : BitVec 6 := (0 : BitVec 5) ++ BitVec.ofBool d

/-- A channel in the data field (R293). -/
def chanCode (c : BitVec 3) : BitVec 6 := (0 : BitVec 3) ++ c

/-- A stride or coordinate register and two bits below it, in the data field (R234, R262, R266). -/
def tileCode (s : BitVec 4) (lo : BitVec 2) : BitVec 6 := s ++ lo

/-- The words of an instruction of the common majors or of the SCU, with stop bit `s`; none for any other. -/
def encodeScu (s : Bool) (i : Instr) : List Syl :=
  match i with
  | .nop => [formP s 1 0 0]
  | .halt => [formP s 1 0 1]
  | .waitk m => [formP s 1 ((0 : BitVec 14) ++ m) 2]
  | .slack n => [formP s 1 n 3]
  | .mfs d r g => [formS s 23 d.code r.code g 0]
  | .mts r a g => [formS s 23 a.code r.code g 1]
  | .fset f a i => [formB s 24 (aCode f) a.code i 0]
  | .fwait f a i => [formB s 24 (aCode f) a.code i 1]
  | .fclr f => [formB s 24 (aCode f) 0 0 2]
  | .fence k x m w => [formA s 25 (x.code ++ m.code) ((0 : BitVec 4) ++ k.code) 0 w 0 0]
  | .mark g => [formA s 25 0 0 0 g.p (.ofBool g.neg) 1]
  | .tlsig d w => [formA s 25 d.code 0 0 w 0 2]
  | .tlwait t n w => [formA s 25 0 t.code n.code w 0 3]
  | .tlrd d t w => [formA s 25 d.code t.code 0 w 0 4]
  | .binit r b o w => [formD s 26 r.code (memAt b o) w 0]
  | .barr r b o w => [formD s 26 r.code (memAt b o) w 1]
  | .bwait r b o w => [formD s 26 r.code (memAt b o) w 2]
  | .btry r b o w => [formD s 26 r.code (memAt b o) w 3]
  | .binv r b o w => [formD s 26 r.code (memAt b o) w 4]
  | .trap n g => [formA s 27 (n.extractLsb' 12 6) (n.extractLsb' 6 6) (n.extractLsb' 0 6) g.p (.ofBool g.neg) 0]
  | .brk n g => [formA s 27 (n.extractLsb' 12 6) (n.extractLsb' 6 6) (n.extractLsb' 0 6) g.p (.ofBool g.neg) 1]
  | .faultrd d k g => [formA s 27 d.code 0 (chanCode k) g.p (.ofBool g.neg) 2]
  | .hcall d a v w => [formA s 27 d.code a.code v w 0 3]
  | .eret a dr np => [formA s 27 0 a.code ((0 : BitVec 4) ++ BitVec.ofBool dr ++ BitVec.ofBool np) 0 0 4]
  | .icinv c a b w => [formA s 27 ((0 : BitVec 4) ++ c.code) a.code b.code w 0 5]
  | .mtrrd d a w => [formA s 27 d.code a.code 0 w 0 6]
  | .add d a b g => [formA s 2 d.code a.code b.code g.p (.ofBool g.neg) 0]
  | .sub d a b g => [formA s 2 d.code a.code b.code g.p (.ofBool g.neg) 1]
  | .and d a b g => [formA s 2 d.code a.code b.code g.p (.ofBool g.neg) 2]
  | .or d a b g => [formA s 2 d.code a.code b.code g.p (.ofBool g.neg) 3]
  | .xor d a b g => [formA s 2 d.code a.code b.code g.p (.ofBool g.neg) 4]
  | .andn d a b g => [formA s 2 d.code a.code b.code g.p (.ofBool g.neg) 5]
  | .shl d a b g => [formA s 2 d.code a.code b.code g.p (.ofBool g.neg) 6]
  | .shr d a b g => [formA s 2 d.code a.code b.code g.p (.ofBool g.neg) 7]
  | .sra d a b g => [formA s 2 d.code a.code b.code g.p (.ofBool g.neg) 8]
  | .rotl d a b g => [formA s 2 d.code a.code b.code g.p (.ofBool g.neg) 9]
  | .min d a b g => [formA s 2 d.code a.code b.code g.p (.ofBool g.neg) 10]
  | .max d a b g => [formA s 2 d.code a.code b.code g.p (.ofBool g.neg) 11]
  | .minn d a b g => [formA s 2 d.code a.code b.code g.p (.ofBool g.neg) 12]
  | .maxn d a b g => [formA s 2 d.code a.code b.code g.p (.ofBool g.neg) 13]
  | .sel d a b g => [formA s 2 d.code a.code b.code g.p (.ofBool g.neg) 14]
  | .clz d a g => [formA s 2 d.code a.code 0 g.p (.ofBool g.neg) 15]
  | .ctz d a g => [formA s 2 d.code a.code 1 g.p (.ofBool g.neg) 15]
  | .popc d a g => [formA s 2 d.code a.code 2 g.p (.ofBool g.neg) 15]
  | .addi d a i => [formB s 3 d.code a.code i 0]
  | .andi d a i => [formB s 3 d.code a.code i 1]
  | .ori d a i => [formB s 3 d.code a.code i 2]
  | .xori d a i => [formB s 3 d.code a.code i 3]
  | .shli d a i => [formB s 3 d.code a.code ((0 : BitVec 4) ++ i) 4]
  | .shri d a i => [formB s 3 d.code a.code ((0 : BitVec 4) ++ i) 5]
  | .srai d a i => [formB s 3 d.code a.code ((0 : BitVec 4) ++ i) 6]
  | .mul d a b g => [formA s 4 d.code a.code b.code g.p (.ofBool g.neg) 0]
  | .mulh d a b g => [formA s 4 d.code a.code b.code g.p (.ofBool g.neg) 1]
  | .mulhn d a b g => [formA s 4 d.code a.code b.code g.p (.ofBool g.neg) 2]
  | .div d a b w => [formA s 4 d.code a.code b.code w 0 3]
  | .divn d a b w => [formA s 4 d.code a.code b.code w 0 4]
  | .rem d a b w => [formA s 4 d.code a.code b.code w 0 5]
  | .remn d a b w => [formA s 4 d.code a.code b.code w 0 6]
  | .cmp p c a b g => [formA s 5 (p ++ c.code) a.code b.code g.p (.ofBool g.neg) 0]
  | .cmpi p c a i => [formB s 5 (p ++ c.code) a.code i 8]
  | .movi d i => [formW s 6 d.code i 0]
  | .movk d i h => [formW s 6 d.code i ((1 : BitVec 2) ++ h)]
  | .ldi d i => [formW s 28 d.code ((0 : BitVec 15) ++ i.extractLsb' 31 1) 0, (0 : BitVec 1) ++ i.extractLsb' 0 31]
  | .bext d a b g => [formA s 7 d.code a.code b.code g.p (.ofBool g.neg) 0]
  | .bins d a b g => [formA s 7 d.code a.code b.code g.p (.ofBool g.neg) 1]
  | .aadd d a g => [formB s 8 (aCode d) (aCode a) (g.code ++ (0 : BitVec 4)) 0]
  | .aaddi d a i => [formB s 8 (aCode d) (aCode a) i 1]
  | .amov d a => [formB s 8 (aCode d) a.code 0 2]
  | .aget d a => [formB s 8 d.code (aCode a) 0 3]
  | .amesh d c => [formB s 8 d.code 0 c.code 4]
  | .br l y g => [formE s 9 0 g l y]
  | .jmp l y => [formE s 10 0 .always l y]
  | .call l y g => [formE s 10 1 g l y]
  | .jmpr a g => [formE s 10 2 g (a.code ++ (0 : BitVec 10)) 0]
  | .ret g => [formE s 10 3 g 0 0]
  | .loopImmediate v n el es => [formF s 11 v true n el es]
  | .loopRegister v a el es => [formF s 11 v false ((0 : BitVec 3) ++ a.code) el es]
  | .join ve ce mx g =>
    [formE s 12 0 g (BitVec.ofBool ve ++ BitVec.ofBool ce ++ BitVec.ofBool mx ++ (0 : BitVec 13)) 0]
  | .fork t l y g => [formE s 12 t.code g l y]
  | .qclose q g => [formA s 13 0 (chanCode q) 0 g.p (.ofBool g.neg) 0]
  | .qstat d q g => [formA s 13 d.code (chanCode q) 0 g.p (.ofBool g.neg) 1]
  | .ld t d m w => [formD s 16 d.code m w ((0 : BitVec 2) ++ t.code)]
  | .ldn t d m w => [formD s 16 d.code m w ((1 : BitVec 2) ++ t.code)]
  | .lda t d m w => [formD s 16 d.code m w ((2 : BitVec 2) ++ t.code)]
  | .st t d m w => [formD s 17 d.code m w ((0 : BitVec 3) ++ t.code)]
  | .atm o wide d b x w => [formM s 18 d.code b x.code o.code w ((0 : BitVec 2) ++ BitVec.ofBool wide)]
  | .acas wide d b x w => [formM s 18 d.code b x.code 0 w ((1 : BitVec 2) ++ BitVec.ofBool wide)]
  | .acas2 d b x w => [formM s 18 d.code b x.code 0 w 4]
  | .stbind r b w => [formD s 19 r.code (memAt b 0) w 0]
  | .stunbd r w => [formD s 19 r.code (memAt 0 0) w 1]
  | .stflsh r w => [formD s 19 r.code (memAt 0 0) w 2]
  | .stdrop r w => [formD s 19 r.code (memAt 0 0) w 3]
  | .sttch r w => [formD s 19 r.code (memAt 0 0) w 4]
  | .cflsh n b w => [formD s 19 n.code (memAt b 0) w 5]
  | .cinv n b w => [formD s 19 n.code (memAt b 0) w 6]
  | .cdisc n b w => [formD s 19 n.code (memAt b 0) w 7]
  | .rld t d b w => [formM s 22 d.code b 0 ((0 : BitVec 1) ++ t.code) w 0]
  | .rst t x b w => [formM s 22 0 b x.code ((0 : BitVec 2) ++ t.code) w 1]
  | .ratm o d b x w => [formM s 22 d.code b x.code o.code w 2]
  | .rcas t d b x w => [formM s 22 d.code b x.code t.code w 3]
  | .casn d b x w => [formM s 22 d.code b x.code 0 w 4]
  | .enq d b x w => [formM s 22 d.code b x.code 1 w 4]
  | .deq d b x w => [formM s 22 d.code b x.code 2 w 4]
  | .chase d b x w => [formM s 22 d.code b x.code 3 w 4]
  | .fadd d b x w => [formM s 22 d.code b x.code 4 w 4]
  | .fminloc d b x w => [formM s 22 d.code b x.code 5 w 4]
  | .rfence w => [formM s 22 0 0 0 0 w 5]
  | _ => []

/-- The words of an instruction of the VE. -/
def encodeVe (s : Bool) (i : Instr) : List Syl :=
  match i with
  | .vadd t d a b g => [formV s 2 d.code a.code b.code g t.code 0]
  | .vsub t d a b g => [formV s 2 d.code a.code b.code g t.code 1]
  | .vmul t d a b g => [formV s 2 d.code a.code b.code g t.code 2]
  | .vmin t d a b g => [formV s 2 d.code a.code b.code g t.code 3]
  | .vmax t d a b g => [formV s 2 d.code a.code b.code g t.code 4]
  | .vdiv t d a b g => [formV s 2 d.code a.code b.code g t.code 5]
  | .vfma t d a b g => [formV s 3 d.code a.code b.code g t.code 0]
  | .vfms t d a b g => [formV s 3 d.code a.code b.code g t.code 1]
  | .vfnma t d a b g => [formV s 3 d.code a.code b.code g t.code 2]
  | .vabs t d a g => [formV s 4 d.code a.code 0 g t.code 0]
  | .vneg t d a g => [formV s 4 d.code a.code 0 g t.code 1]
  | .vsqrt t d a g => [formV s 4 d.code a.code 0 g t.code 2]
  | .vrcp t d a g => [formV s 4 d.code a.code 0 g t.code 3]
  | .vrsq t d a g => [formV s 4 d.code a.code 0 g t.code 4]
  | .vexp2 t d a g => [formV s 4 d.code a.code 0 g t.code 5]
  | .vlog2 t d a g => [formV s 4 d.code a.code 0 g t.code 6]
  | .viadd t d a b g => [formV s 5 d.code a.code b.code g t.code 0]
  | .visub t d a b g => [formV s 5 d.code a.code b.code g t.code 1]
  | .vimul t d a b g => [formV s 5 d.code a.code b.code g t.code 2]
  | .vimulh t d a b g => [formV s 5 d.code a.code b.code g t.code 3]
  | .vimin t d a b g => [formV s 5 d.code a.code b.code g t.code 4]
  | .vimax t d a b g => [formV s 5 d.code a.code b.code g t.code 5]
  | .vclamp t d a b g => [formV s 5 d.code a.code b.code g t.code 6]
  | .vwadd t d a b g => [formV s 5 d.code a.code b.code g t.code 7]
  | .vand t d a b g => [formV s 6 d.code a.code b.code g t.code 0]
  | .vor t d a b g => [formV s 6 d.code a.code b.code g t.code 1]
  | .vxor t d a b g => [formV s 6 d.code a.code b.code g t.code 2]
  | .vnot t d a g => [formV s 6 d.code a.code 0 g t.code 3]
  | .vshl t d a b g => [formV s 6 d.code a.code b.code g t.code 4]
  | .vshr t d a b g => [formV s 6 d.code a.code b.code g t.code 5]
  | .vsra t d a b g => [formV s 6 d.code a.code b.code g t.code 6]
  | .vrshr t d a b g => [formV s 6 d.code a.code b.code g t.code 7]
  | .vmacb q d a b g => [formV s 7 d.code a.code b.code g q 0]
  | .vimulr h d a b g => [formV s 7 d.code a.code b.code g ((0 : BitVec 1) ++ BitVec.ofBool h) 1]
  | .vnarb q d a g => [formV s 7 d.code a.code 0 g q 2]
  | .vcmp c t p a b g => [formV s 8 (p ++ c.code) a.code b.code g t.code 0]
  | .vfcmp c t p a b g => [formV s 8 (p ++ c.code) a.code b.code g t.code 1]
  | .vpand p a b g => [formV s 8 (p ++ (0 : BitVec 3)) (chanCode a) (chanCode b) g 0 2]
  | .vpor p a b g => [formV s 8 (p ++ (0 : BitVec 3)) (chanCode a) (chanCode b) g 0 3]
  | .vpnot p a g => [formV s 8 (p ++ (0 : BitVec 3)) (chanCode a) 0 g 0 4]
  | .vsel t d a b g => [formV s 9 d.code a.code b.code g t.code 0]
  | .vcvtLow dst src d a k =>
    [formV s 10 d.code a.code (src.code ++ dst.code.extractLsb' 2 2) k (dst.code.extractLsb' 0 2) 0]
  | .vcvtHigh dst src d a k =>
    [formV s 10 d.code a.code (src.code ++ dst.code.extractLsb' 2 2) k (dst.code.extractLsb' 0 2) 2]
  | .vqnt dst d a b k => [formV s 10 d.code a.code b.code k dst.code 1]
  | .vperm t d a b g => [formV s 11 d.code a.code b.code g t.code 0]
  | .vrot o d a g => [formV s 11 d.code a.code (o.extractLsb' 2 6) g (o.extractLsb' 0 2) 1]
  | .vrmrg o d a g => [formV s 11 d.code a.code (o.extractLsb' 2 6) g (o.extractLsb' 0 2) 2]
  | .vshuf t p d a g => [formV s 11 d.code a.code p.code g t.code 3]
  | .vbcast k i d a g => [formV s 12 d.code a.code i g k 0]
  | .vextr wide i d a g => [formV s 12 d.code a.code i g ((0 : BitVec 1) ++ BitVec.ofBool wide) 1]
  | .viota t i d g => [formV s 12 d.code 0 i g t.code 2]
  | .vscan o d a g => [formV s 12 d.code a.code o.code g o.ty 3]
  | .xclr x g => [formV s 13 (xCode x) 0 0 g 0 0]
  | .xacc x a g => [formV s 13 (xCode x) a.code 0 g 0 1]
  | .xsca e x a b g => [formV s 13 (xCode x) a.code b.code g ((0 : BitVec 1) ++ BitVec.ofBool e) 2]
  | .xred n x a g => [formV s 13 (xCode x) (xCode a) 0 g n 3]
  | .xrnd h d a g => [formV s 13 d.code (xCode a) 0 g ((0 : BitVec 1) ++ BitVec.ofBool h) 4]
  | .xld x m w => [formD s 14 (xCode x) m w 0]
  | .xst x m w => [formD s 14 (xCode x) m w 1]
  | .vkey t d a b g => [formV s 15 d.code a.code b.code g t.code 0]
  | .vld d m w => [formD s 16 d.code m w 0]
  | .vst d m w => [formD s 16 d.code m w 1]
  | .vstm d m p w => [formD s 16 d.code m w (p ++ (2 : BitVec 2))]
  | .vldq q m p w => [formD s 17 ((4 : BitVec 3) ++ q) m w (p ++ (0 : BitVec 2))]
  | .vldt d m p w => [formD s 17 d.code m w (p ++ (1 : BitVec 2))]
  | .vgath d b sh i p w =>
    [formD s 18 ((0 : BitVec 1) ++ d) { base := b, mode := (if sh then .idxShift else .idx), field := (0 : BitVec 1) ++ i }
      w (p ++ (0 : BitVec 2))]
  | .vscat d b sh i p w =>
    [formD s 18 d.code { base := b, mode := (if sh then .idxShift else .idx), field := (0 : BitVec 1) ++ i }
      w (p ++ (1 : BitVec 2))]
  | .vpref b sh i p w =>
    [formD s 18 0 { base := b, mode := (if sh then .idxShift else .idx), field := (0 : BitVec 1) ++ i }
      w (p ++ (2 : BitVec 2))]
  | _ => []

/-- The words of an instruction of the CE or the MX. -/
def encodeCeMx (s : Bool) (i : Instr) : List Syl :=
  match i with
  | .cpy c m w => [formD s 2 (chanCode c) m w 0]
  | .cpyt c m w => [formD s 3 (chanCode c) m w 0]
  | .cpym t c m w => [formD s 4 ((0 : BitVec 2) ++ BitVec.ofBool t ++ c) m w 0]
  | .pput c b m w => [formD s 5 (chanCode c) (memAt b ((0 : BitVec 2) ++ m)) w 0]
  | .cwprd d t c w => [formA s 6 (aCode d) ((0 : BitVec 2) ++ BitVec.ofBool t ++ c) 0 w 0 0]
  | .ccan t c w => [formA s 7 0 ((0 : BitVec 2) ++ BitVec.ofBool t ++ c) 0 w 0 0]
  | .cbuf t n m w => [formD s 8 ((0 : BitVec 1) ++ BitVec.ofBool t ++ n) m w 0]
  | .cstat d t c w => [formA s 9 (aCode d) ((0 : BitVec 2) ++ BitVec.ofBool t ++ c) 0 w 0 0]
  | .cgrp g m w => [formD s 10 (xCode g) m w 0]
  | .car c m w => [formD s 11 (chanCode c) m w 0]
  | .crs c m w => [formD s 11 (chanCode c) m w 1]
  | .cag c m w => [formD s 11 (chanCode c) m w 2]
  | .ca2a c m w => [formD s 12 (chanCode c) m w 0]
  | .cbc c m w => [formD s 12 (chanCode c) m w 1]
  | .repart c m w => [formD s 13 (chanCode c) m w 0]
  | .mlease n => [formB s 2 0 0 n 0]
  | .mfree => [formB s 2 0 0 0 1]
  | .mlda r c m w => [formD s 3 (tileCode r c) m w 0]
  | .mldu c m w => [formD s 4 (tileCode 0 c) m w 0]
  | .mldb r c m w => [formD s 5 (tileCode r c) m w 0]
  | .mldbt r c m w => [formD s 5 (tileCode r c) m w 1]
  | .mmul t d kb ka clr w =>
    [formA s 6 (accCode d) ((0 : BitVec 3) ++ BitVec.ofBool kb ++ BitVec.ofBool ka ++ BitVec.ofBool clr) 0 w 0 t.code]
  | .mzero d w => [formA s 7 (accCode d) 0 0 w 0 0]
  | .mrd d m w => [formD s 8 (accCode d) m w 0]
  | .mrdx d q w => [formD s 8 (accCode d) (memAt 0 (chanCode q)) w 1]
  | .mstat d clr w => [formA s 9 (aCode d) ((0 : BitVec 5) ++ BitVec.ofBool clr) 0 w 0 0]
  | .rep n => [formP s 10 ((0 : BitVec 10) ++ n) 0]
  | .mldp r st col m w => [formD s 11 (tileCode r (BitVec.ofBool st ++ BitVec.ofBool col)) m w 0]
  | .mmulp d af kb ka clr ms w =>
    [formA s 12 (accCode d)
      ((0 : BitVec 2) ++ BitVec.ofBool af ++ BitVec.ofBool kb ++ BitVec.ofBool ka ++ BitVec.ofBool clr)
      ((0 : BitVec 5) ++ BitVec.ofBool ms) w 0 0]
  | .mmulpt d af kb ka clr ms w =>
    [formA s 12 (accCode d)
      ((0 : BitVec 2) ++ BitVec.ofBool af ++ BitVec.ofBool kb ++ BitVec.ofBool ka ++ BitVec.ofBool clr)
      ((0 : BitVec 5) ++ BitVec.ofBool ms) w 0 1]
  | .meps r ms col m w => [formD s 13 (tileCode r (BitVec.ofBool ms ++ BitVec.ofBool col)) m w 0]
  | .mseed a b => [formA s 14 0 (aCode a) (aCode b) 0 0 0]
  | _ => []

/-- The words of instruction `i` with stop bit `s` (R29): one syllable, or two for LDI; none for a step that has no
encoding. -/
def encode (s : Bool) (i : Instr) : List Syl := encodeScu s i ++ encodeVe s i ++ encodeCeMx s i

/-- The first syllable of `encode`, and the second where there is one (zero otherwise). -/
def encodeWords (s : Bool) (i : Instr) : Syl × Syl :=
  match encode s i with
  | [] => (0, 0)
  | w :: rest => (w, rest.headD 0)

/-- Decoding without knowing the engine, as the table's rows have no engine field: the first of SCU, VE, CE and MX whose
opcode map has the word (log 7). -/
def decodeAnyEngine (w w2 : Syl) : Option (Engine × Instr) :=
  match decode .scu w w2 with
  | .ok i => some (.scu, i)
  | .error _ =>
    match decode .ve w w2 with
    | .ok i => some (.ve, i)
    | .error _ =>
      match decode .ce w w2 with
      | .ok i => some (.ce, i)
      | .error _ =>
        match decode .mx w w2 with
        | .ok i => some (.mx, i)
        | .error _ => none

/-- The instruction whose bits are `w`, numbered as the opcode table numbers them: bit 0 is the least significant bit of
the first syllable, and the second syllable's bits count on from bit 32. Bits above `nbits` are zero. -/
def decodeTableWord (nbits w : Nat) : Option Instr :=
  let v := w % 2 ^ nbits
  (decodeAnyEngine (BitVec.ofNat 32 v) (BitVec.ofNat 32 (v / 2 ^ 32))).map Prod.snd

end Sys2Proof
end

