-- ==== Sys2Proof/Config.lean ====
section
/-!
DEFINITION. What the model takes as fixed but unknown: the free values, and the functions the spec names without defining
(SHA3-256, the module's identity, its signature). None has a body, so no proof can see a value of one.
-/

namespace Sys2Proof.Config

/-- A free value (log 9): what the spec leaves open after an effect it does state. The argument is `State.free`, a plain
counter that the step reads and advances. -/
opaque freeValue : (w : Nat) → Nat → BitVec w

/-- SHA3-256 of a list of bytes (R406, R421, R438; log 12). -/
opaque sha3 : List Byte → BitVec 256

/-- The device identity that the physically unclonable function yields (R405, R437; log 12). -/
opaque deviceId : BitVec 256

/-- The module's ML-DSA-44 signature of a list of bytes, with the randomness that it uses (R406; log 12). -/
opaque sign : List Byte → Nat → BitVec 19360

/-- The certificate chain for the module's identity key, signed by Mladain (R438; log 12). -/
opaque certificateChain : List Byte

/-- A sector as it is written to the safe tier: encrypted under the checkpoint key (R404, R434; log 26). -/
opaque checkpointCipher : BitVec 256 → Nat → BitVec 256

/-- The correctly rounded value of a transcendental function where the model's enclosure does not separate two
neighbouring results (R132; log 21): the function (0 is 2^a, 1 is log2 a), the format, the operand's bits, the mode. -/
opaque transcendental : Nat → Nat → Nat → BitVec 2 → Nat

/-- Digests that the boot measures: number 1 of the slice manager, 2 of the repair and configuration data (R437; log 12). -/
opaque bootDigest : Nat → BitVec 256

/-- FWVER of a firmware image, by its digest (R433; log 12). -/
opaque imageVersion : BitVec 256 → BitVec 32

/-- Ordinary receive buffers of an endpoint for one virtual channel (R304; log 16). -/
opaque receiveBuffers : Nat

end Sys2Proof.Config
end

