-- ==== Sys2Proof/Machine/Tbl.lean ====
section
/-!
DEFINITION. Sparse tables: a list of (key, value) pairs with strictly rising keys in which no entry holds the default, so
that equal tables are equal lists. Memory, registers, stash rows and cores are held in this form.
-/

namespace Sys2Proof.Machine

/-- A sparse table with natural-number keys. -/
abbrev Tbl (α : Type) := List (Nat × α)

/-- The value at a key; an unlisted key reads as the default `d`. -/
def Tbl.get {α : Type} (t : Tbl α) (d : α) (k : Nat) : α :=
  match t with
  | [] => d
  | (j, v) :: r => if k = j then v else if k < j then d else Tbl.get r d k

/-- What stands beyond a key: all of it, in the canonical form. -/
def Tbl.above {α : Type} (t : Tbl α) (k : Nat) : Tbl α := t.dropWhile (fun e => decide (e.1 ≤ k))

/-- Writes a key, keeping the canonical form: writing the default removes the entry. -/
def Tbl.set {α : Type} [DecidableEq α] (t : Tbl α) (d : α) (k : Nat) (v : α) : Tbl α :=
  match t with
  | [] => if v = d then [] else [(k, v)]
  | (j, w) :: r =>
    if k < j then (if v = d then (j, w) :: r else (k, v) :: (j, w) :: r)
    else if k = j then
      (if v = d then Tbl.above r k else (k, v) :: Tbl.above r k)
    else (j, w) :: Tbl.set r d k v

/-- The canonical form: keys strictly rising from above `lo`, no entry equal to the default. -/
def Tbl.wfFrom {α : Type} [DecidableEq α] (d : α) (lo : Nat) (t : Tbl α) : Bool :=
  match t with
  | [] => true
  | (k, v) :: r => decide (lo ≤ k) && decide (v ≠ d) && Tbl.wfFrom d (k + 1) r

/-- The canonical form of a whole table. -/
def Tbl.wf {α : Type} [DecidableEq α] (d : α) (t : Tbl α) : Bool := Tbl.wfFrom d 0 t

/-- Applies a function at one key. -/
def Tbl.upd {α : Type} [DecidableEq α] (t : Tbl α) (d : α) (k : Nat) (f : α → α) : Tbl α :=
  t.set d k (f (t.get d k))

/-- The canonical form of a memory: addresses strictly rising, and no entry equal to 0, what an unlisted address reads as
(log 4). -/
abbrev Memory.wf (m : Tbl Byte) : Bool := Tbl.wf 0 m

end Sys2Proof.Machine
end

