-- ==== Sys2Proof/Machine/State.lean ====
section
/-!
DEFINITION. The state of one FVK-880 package: everything the spec names (INVENTORY.md lists it with its rules), as plain
data, and `State.reset`. Sparse parts are `Tbl` tables; `Core.init`, `Row` zero and the like are their defaults.
-/

namespace Sys2Proof.Machine

/-! ## Accesses -/

/-- Classes of access (R366, ACC of R372). -/
inductive Access where
  | read | write | fetch | rw
  /-- a fill; of a row that is not read-only it also needs write permission -/
  | fill (w : Bool)
  /-- a write-back of a stash row (R162), which writes -/
  | back
  deriving DecidableEq, Repr

/-! ## Engines -/

/-- Whether an engine issues (R86, R120, R358, R374). -/
inductive RunState where
  /-- idle: never started, or its HALT is complete (R120) -/
  | halted
  /-- HALT has issued; tokens and landing buffer drain (R120 step 2) -/
  | halting
  /-- issuing, unless a trap of its own has parked it (R358, `Core.parked`) -/
  | running
  /-- parked on a page request for an instruction fetch (R48) or a descriptor (R283): the request (R373), the address that
  missed and its class of access -/
  | fetchParked (req : Nat) (va : W64) (acc : Access)
  deriving DecidableEq, Repr

/-- What a fixed-latency result writes when it lands (R84, R126, R128). -/
inductive Effect where
  | g (n : BitVec 6) (v : W64)
  /-- a g register, or an address register, of which only some bits are written (R216) -/
  | gbits (n : BitVec 6) (v mask : W64)
  | abits (n : BitVec 4) (v mask : W64)
  | p (n : BitVec 3) (v : Bool)
  | a (n : BitVec 4) (v : W64)
  | push (q : BitVec 3) (id : Nat) (v : Row)
  | v (n : BitVec 5) (val : Row) (m : BMask)
  /-- a v register of which only some bits are written (R143, R144) -/
  | vbits (n : BitVec 5) (val mask : Row)
  | vp (n : BitVec 3) (val : BMask) (m : BMask)
  /-- XCLR of the lanes whose bit 4j is set (R150) -/
  | xclr (x : BitVec 2) (m : BMask)
  /-- XACC of F32 lanes (R150) -/
  | xacc (x : BitVec 2) (val : Row) (m : BMask)
  /-- XSCA of 16 exact elements under 64 scales (R151) -/
  | xsca (e8m0 : Bool) (x : BitVec 2) (el : Row) (sc : Row) (m : BMask)
  /-- XRED: the sums read at issue, as R80's lane images of 512 bits each, with the lanes they replace (R152) -/
  | xset (x : BitVec 2) (lanes : List (Nat × BitVec 512))
  deriving DecidableEq, Repr

/-- An entry of a landing buffer (R85): what lands, its VFLAGS bits, the cycles remaining, and the engine's number of operations
at its issue, which gives its place in issue order among the results of variable latency (R84). -/
structure Landing where
  eff : Effect
  flags : W64
  rem : Nat
  stamp : Nat
  deriving DecidableEq, Repr

/-- A result of variable latency on its way to its destination: it waits in the L1 for a write slot (R85). -/
structure Return where
  /-- its operation, which completes when `last` lands (R87, R170) -/
  num : Nat
  last : Bool
  effs : List Effect
  flags : W64
  /-- the first cycle at whose end it can land (R159, R170) -/
  due : Nat
  deriving DecidableEq, Repr

/-- Reasons for a wait (R90, R190). -/
inductive WaitCause where
  /-- a pop or peek finds too few entries (R96) -/
  | pop (q : BitVec 3)
  /-- a push finds no room (R96) -/
  | push (q : BitVec 3)
  | flag
  | token
  | fork
  | join
  /-- a full load or store queue, or another wait of the ordering class (R190) -/
  | order
  /-- no wait but a hold: no landing-buffer entry or write slot (R85, R126), or an ERET whose buffer is not empty (R381) -/
  | hold
  /-- a stash bank is taken (R159): no wait either, but STALLC counts it (R92) -/
  | bank
  deriving DecidableEq, Repr

/-- The wait in force for an engine's next group (R90, R91, R97). -/
structure Wait where
  /-- every reason of the group's members, in syllable order -/
  causes : List WaitCause
  /-- the cycle in which it began -/
  since : Nat
  /-- the last cycle counted -/
  last : Nat
  /-- cycles waited -/
  len : Nat
  /-- cycles in which a queue condition was unmet (R97) -/
  qlen : Nat
  /-- it has become a stall (R90) -/
  stalled : Bool
  /-- held by the stall wire (R91 step 4) -/
  held : Bool
  /-- the slack in force for the group (R89) -/
  slack : BitVec 22
  deriving DecidableEq, Repr

/-- Where an issued operation stands. -/
inductive OpStatus where
  /-- in its queue, not yet performed -/
  | queued
  /-- parked on a page request (R374), with the address that missed and its class of access -/
  | paging (req : Nat) (va : W64) (acc : Access)
  /-- its access trapped; it performs again, or is dropped, at ERET (R381) -/
  | trapped
  /-- a remote request under way (R316, R323) -/
  | departed
  /-- performed; a command or unit operation with cycles left before completion -/
  | busy (until_ : Nat)
  /-- performed; its result waits to land (R85, `Ctx.returns`) -/
  | returning
  deriving DecidableEq, Repr

/-- A variable-latency instruction that has issued and not completed, or a MARK (R87, R170, R189). -/
structure PendOp where
  /-- serial number of the operation in its engine (the model's own) -/
  num : Nat
  /-- timeline number, 0 where the instruction takes none (R202) -/
  tnum : Nat
  instr : Instr
  /-- the token it charges; none for MARK (R211) -/
  tok : Option (BitVec 3)
  /-- holds an entry of the load queue, of the store queue (R189) -/
  ld : Bool
  st : Bool
  /-- effective address, or the first source register -/
  addr : W64
  /-- data, index or further sources, read at issue -/
  val : Row
  val2 : Row
  /-- rows of an exact register under transfer (R154), captured rows of a readout (R230) -/
  rows : List Row
  /-- byte guard (R172) -/
  mask : BMask
  /-- stop bit of its syllable (R30), which the save format keeps (R397, R399) -/
  stop : Bool
  /-- physical package that its message went to, once it has departed (R311) -/
  pkg : Option (BitVec 21)
  /-- progress (R177, R183) -/
  mpc : W64
  /-- cycles that sectors of one bank add to a stash access (R159); sectors of its next row that a tile load has read (R227) -/
  part : Nat
  /-- cycle + 1 of a tile load's first read (R227), or of the departure of a remote request's message (R331); the first cycle after a
  begun readout's time on the drain path (R229) -/
  first : Nat
  /-- reserved queue entry of a push destination (R96) -/
  qid : Nat
  /-- point of the instruction's group (R361 word 1) -/
  pt : W64
  /-- cycle of issue -/
  issued : Nat
  status : OpStatus
  deriving DecidableEq, Repr

/-- A trap record as raised (R361). -/
structure TrapRec where
  code : BitVec 8
  eng : Engine
  chan : Option (BitVec 3)
  /-- 0 group, 1 performed, 2 channel, 3 notice (R362) -/
  kind : BitVec 2
  /-- word 1, word 2, word 3 -/
  pt : W64
  addr : W64
  detail : W64
  /-- word 5, word 6 -/
  time : W64
  mpc : W64
  /-- the cycle in which it was raised, which orders traps (R362) -/
  cyc : Nat
  /-- the operation it belongs to, of kind performed -/
  num : Nat
  /-- raised by the checks of a FORK's target point (R115) -/
  entry : Bool
  deriving DecidableEq, Repr

/-- Where the fetch of a transfer's target line stands (R48, R111; log 25). -/
inductive Reach where
  | idle
  /-- the transfer waits for the line of its target -/
  | asked
  /-- the line cannot be fetched: the transfer is taken, and the fault is that of the target's own fetch; with address and
  DETAIL where a FAIL reply ended it (R374) -/
  | barred (p : W64) (fail : Option (W64 × W64))
  deriving DecidableEq, Repr

/-- One engine's sequencer and the registers every engine has. -/
structure Ctx where
  /-- a0–a15 (R82, R121) -/
  areg : Tbl W64
  /-- the program counter, as a point (R27, R111) -/
  pt : W64
  run : RunState
  /-- MPC (R93) -/
  mpc : W64
  /-- slack in force (R89) -/
  slack : BitVec 22
  /-- wait tokens (R87) -/
  tok : Tbl Nat
  /-- next timeline number (R202) -/
  next : Nat
  /-- the model's serial of operations -/
  serial : Nat
  land : List Landing
  /-- results of variable latency that have not landed, and what has landed in this cycle, by place in issue order (R84, R85) -/
  returns : List Return
  landed : List (Nat × Effect)
  ops : List PendOp
  /-- cycles before the next group can issue (R52, R359, R381) -/
  bubble : Nat
  wait : Option Wait
  /-- a member of the group being issued waits or is held (the model's own) -/
  stuck : Bool
  /-- the reasons noted so far by the members of the group being issued (the model's own) -/
  why : List WaitCause
  /-- target of the transfer taken by the group being issued (the model's own); while the group is stuck, the point whose
  line it needs fetched -/
  target : Option W64
  /-- the group being issued goes on at its target without a taken transfer (R114; the model's own) -/
  falls : Bool
  reach : Reach
  /-- last trap record of the engine and its channels, with the resume point and HALTED of its entry (R361, R379) -/
  lastRec : Option (TrapRec × W64 × Bool)
  /-- its landing buffer stands still until its next group comes to issue (R86) -/
  frozen : Bool
  /-- line addresses held in the loop buffer, oldest first; the next LB = 1 line not held begins a new body (R52) -/
  lbuf : List W64
  fresh : Bool
  /-- a FORK has started it and its target point has not been checked yet (R115) -/
  starting : Bool
  deriving DecidableEq, Repr

/-- An engine that has never run. -/
def Ctx.init : Ctx :=
  { areg := [], pt := 0, run := .halted, mpc := 0, slack := 0, tok := [], next := 1, serial := 0, land := [], ops := [],
    bubble := 0, wait := none, stuck := false, target := none, reach := .idle, lastRec := none, frozen := false, lbuf := []
    returns := [], landed := [], why := [], fresh := false, starting := false, falls := false }

/-! ## The core -/

/-- A queue entry: reserved at issue, filled when its result lands (R96). A scalar entry is in bits 63:0. -/
structure QSlot where
  id : Nat
  val : Option Row
  deriving DecidableEq, Repr

/-- One of queues q0–q7 with its QCFG fields (R95). -/
structure Queue where
  row : Bool
  en : Bool
  prod : Engine
  cons : Engine
  closed : Bool
  slots : List QSlot
  deriving DecidableEq, Repr

/-- A queue as at launch (R93, R95). -/
def Queue.init : Queue := { row := false, en := false, prod := .scu, cons := .scu, closed := false, slots := [] }

/-- A hardware loop level (R114). -/
structure Loop where
  active : Bool
  start : W64
  /-- line address and syllable of the end point, as a point -/
  stop : W64
  rem : W64
  deriving DecidableEq, Repr

/-- An inactive loop level. -/
def Loop.init : Loop := { active := false, start := 0, stop := 0, rem := 0 }

/-- What trap entry saves (R359), with the record being handled. -/
structure Handler where
  pt : W64
  land : List Landing
  loops : Tbl Loop
  run : RunState
  rec_ : TrapRec
  deriving DecidableEq, Repr

/-- A stash row with its state (R160). -/
structure StashRow where
  data : Row
  owner : Nat
  bound : Bool
  /-- virtual address of the line, bits 47:8 -/
  line : BitVec 40
  ro : Bool
  zero : Bool
  filled : Bool
  dirty : BitVec 8
  region : BitVec 12
  poison : BitVec 8
  /-- key tag, physical line and slice addresses of the fill's translation (R163, R368, R371) -/
  key : BitVec 7
  pa : Nat
  path : List Nat
  deriving DecidableEq, Repr

/-- A row of scratch, unowned, reading zero (log 4). -/
def StashRow.init : StashRow :=
  { data := 0, owner := 0, bound := false, line := 0, ro := false, zero := false, filled := false, dirty := 0, region := 0,
    poison := 0, key := 0, pa := 0,
    path := [] }

/-- A line of an L1 (R167): its physical line, and by sector what is held and what has an uncorrectable error (R376). -/
structure L1Line where
  line : Nat
  valid : BitVec 8
  bad : BitVec 8
  deriving DecidableEq, Repr

/-- A line of an L2 (R168, R169): its physical line, its way, and the sectors with an uncorrectable error (R376). -/
structure L2Line where
  line : Nat
  way : Nat
  bad : BitVec 8
  deriving DecidableEq, Repr

/-- Who waits for stash banks besides a group (R159): an operation of an engine, a channel of the CE, an engine's fetch, or a request
of another package with the cycle of its arrival. -/
inductive Claimant where
  | op (e : Engine) (num : Nat)
  | chan (n : Nat)
  | fetch (e : Engine)
  | far (at_ : Nat) (r : FarReq)
  deriving DecidableEq, Repr

/-- A claimant of stash banks: its place among claimants of equal age, whether it is a fill or a write-back (R166), since when its
claim stands, and the last cycle in which it was served or turned away (R159). -/
structure BankWait where
  who : Claimant
  rank : Nat
  fills : Bool
  since : Nat
  tried : Nat
  deriving DecidableEq, Repr

/-- A lane of an exact accumulator register (R77). -/
structure XLane where
  x : BitVec 448
  n : Bool
  pi : Bool
  ni : Bool
  xsat : Bool
  deriving DecidableEq, Repr

/-- A cleared lane. -/
def XLane.init : XLane := { x := 0, n := false, pi := false, ni := false, xsat := false }

/-- What acts at the end of a cycle (R94, R98, R99, R100). -/
inductive Late where
  | mts (e : Engine) (r : SReg) (v : W64)
  /-- a satisfied FWAIT subtracts -/
  | fsub (k : BitVec 4) (n : BitVec 16)
  | fclr (k : BitVec 4)
  | fadd (k : BitVec 4) (n : BitVec 16)
  | qclose (q : BitVec 3)
  /-- in-use bits that a CBUF sets or clears (R296, R300) -/
  | cbuf (set : Bool) (m : BitVec 512)
  deriving DecidableEq, Repr

/-- An entry of a TLB (R370): the combined translation of one page. -/
structure TlbEntry where
  slice : Nat
  s1root : W64
  /-- first virtual address and log2 of the size of the range both stages translate as one -/
  va : Nat
  logsize : Nat
  pa : Nat
  r : Bool
  w : Bool
  x : Bool
  /-- stage-2 permissions, which set bit 4 of a denial's DETAIL -/
  r2 : Bool
  w2 : Bool
  key : BitVec 7
  region : BitVec 12
  dirty : Bool
  /-- the slice addresses it translates through: of stage-1 entries, and the result (R371) -/
  path : List Nat
  deriving DecidableEq, Repr

/-! ## The copy engine -/

/-- What a channel runs (R273, R344). -/
inductive JobKind where
  | copy
  | mcast
  | put
  | coll (k : CollKind)
  deriving DecidableEq, Repr

/-- A group slot (R332): the binding with the mapped table, one word of R334 per rank (with the physical package). -/
structure Group where
  bound : Bool
  gid : BitVec 32
  n : Nat
  rank : Nat
  mtab : W64
  table : List W64
  seq : BitVec 32
  deriving DecidableEq, Repr

/-- An unbound slot. -/
def Group.init : Group := { bound := false, gid := 0, n := 0, rank := 0, mtab := 0, table := [], seq := 0 }

/-- A receiver of a multicast (R290): its package-core index, its decision, the bytes landed there. -/
structure Receiver where
  core : Nat
  decided : Bool
  accepts : Bool
  landed : Nat
  credited : Nat
  deriving DecidableEq, Repr

/-- A byte in flight with its meter region (R282). -/
structure TagByte where
  b : Byte
  region : BitVec 12
  deriving DecidableEq, Repr

/-- A copy descriptor, or a collective's (R274, R333). -/
abbrev Desc := BitVec 512

/-- A copy, peer put or collective in a channel's queues or in the caddy (R273, R286, R344). -/
structure Job where
  /-- its operation in the CE (R87) -/
  num : Nat
  kind : JobKind
  desc : Desc
  /-- PPUT's base and peer word (R329) -/
  base : W64
  peer : W64
  /-- status bits that apply: LATE, REFUSED, BADBAR, CANC (R298) -/
  late : Bool
  badbar : Bool
  /-- bytes of this copy credited to its barrier (R280) -/
  credited : Nat
  /-- bytes that its landings have overwritten where it may still read, as they were before (R281; log 22) -/
  prior : List (W64 × Byte)
  recv : List Receiver
  /-- source of a collective, once read whole (R344), and the group binding and SEQ it took (R336) -/
  src : Option (List TagByte)
  grp : Group
  /-- what has been read of the source so far, and the bytes landed of the item under way: progress values (R285, R345) -/
  got : List TagByte
  part : Nat
  /-- ranks on other packages to which contributions have gone -/
  told : List Nat
  /-- the physical package which the message under way of a far end went to (R311) -/
  asked : Option (BitVec 21)
  /-- cancelled while that message is under way (R295) -/
  cancelled : Bool
  /-- the message under way departed before the migration that brought the context here (R403) -/
  carried : Bool
  /-- owners or ranks that have answered, and elements, blocks or records that have landed (R344) -/
  answered : List Nat
  landed : List Nat
  /-- status block: flags 7:0, NVN, OVN (R343) -/
  stat : BitVec 8
  nvn : Nat
  ovn : Nat
  deriving DecidableEq, Repr

/-- A channel's fault state (R284, CSTAT.STATE). -/
inductive ChanPark where
  | none_
  | paging (req : Nat) (va : W64) (acc : Access)
  | trapped
  deriving DecidableEq, Repr

/-- A credit that a channel owes to barriers for bytes that have landed (R280): home cores, the object's stash address, bytes, and
the first cycle in which it can be made. -/
structure Credit where
  homes : List Nat
  addr : W64
  amount : Nat
  since : Nat
  deriving DecidableEq, Repr

/-- A copy channel (R273, R297). -/
structure Channel where
  jobs : List Job
  wp : W64
  prog : Nat
  done_ : W64
  refcnt : BitVec 8
  last : BitVec 8
  /-- CANC BADBAR REFUSED LATE; those raised in this cycle, and whether a CSTAT of this cycle clears the others (R297) -/
  sticky : BitVec 4
  raised : BitVec 4
  clear : Bool
  /-- credits not yet made, oldest first (R280) -/
  owed : List Credit
  /-- an answer of another package that came while its context was stopped (R393) -/
  kept : Option FarReply
  park : ChanPark
  deriving DecidableEq, Repr

/-- A channel at launch (R273). -/
def Channel.init : Channel :=
  { jobs := [], wp := 0, prog := 0, done_ := 0, refcnt := 0, last := 0, sticky := 0, raised := 0, clear := false, owed := [],
    kept := none, park := .none_ }

/-- A timed copy in the caddy (R286). -/
structure Timed where
  chan : BitVec 3
  time : W64
  job : Job
  deriving DecidableEq, Repr

/-! ## The matrix issue sequencer -/

/-- A tile slot of a staging FIFO (R226, R261). Class 4 is P. -/
structure Tile where
  /-- the load that fills it -/
  num : Nat
  cls : Nat
  bytes : BitVec 65536
  /-- meter region by pair of bits (R226) -/
  regions : Tbl (BitVec 12)
  k0 : BitVec 24
  j0 : BitVec 24
  /-- first cycle in which a product can take it -/
  from_ : Nat
  deriving DecidableEq, Repr

/-- An entry of a command sequence with what it captured at issue (R220, R260). -/
structure Cmd where
  num : Nat
  instr : Instr
  addr : W64
  seed : W64
  member : BitVec 32
  k0 : BitVec 24
  j0 : BitVec 24
  deriving DecidableEq, Repr

/-- An accumulator of one processing element (R72). -/
structure Acc where
  a : BitVec 96
  n : Bool
  pi : Bool
  ni : Bool
  asat : Bool
  deriving DecidableEq, Repr

/-- A cleared accumulator. -/
def Acc.init : Acc := { a := 0, n := false, pi := false, ni := false, asat := false }

/-- An empty tile slot. -/
def Tile.init : Tile := { num := 0, cls := 0, bytes := 0, regions := [], k0 := 0, j0 := 0, from_ := 0 }

/-- An array command that has begun and has not completed (R228, R394): the cycle in which it began, the tiles that the array
copied into its edge buffers, and the accumulators as they stood before it. -/
structure Flight where
  cmd : Cmd
  start : Nat
  a : Tile
  b : Tile
  before : Tbl Acc
  deriving DecidableEq, Repr

/-- Kinds of an accumulator (R231). -/
inductive AccKind where
  | unset | int | float
  deriving DecidableEq, Repr

/-- What the MX adds to a core. -/
structure MxState where
  unfd : W64
  seeds : W64
  seedm : W64
  /-- command sequence (R220) -/
  cmds : List Cmd
  fifoA : List Tile
  fifoB : List Tile
  /-- accumulator m of PE (i, j) at key 8192·m + 128·i + j (R9, R72) -/
  acc : Tbl Acc
  kind0 : AccKind
  kind1 : AccKind
  mix0 : Bool
  mix1 : Bool
  clsm : Bool
  tinv : Bool
  rsat : Bool
  /-- standing request, 0 none, and the implicit one (R223) -/
  standing : Nat
  implicit : Bool
  /-- begin cycle + 1 of the core's last product into m0, m1; 0 for none (R229) -/
  last0 : Nat
  last1 : Nat
  /-- begin cycle + 1 of the last command begun (R233) -/
  began : Nat
  /-- first cycle in which a load can take the slot freed last in the A FIFO, in the B FIFO (R226, R250) -/
  freeA : Nat
  freeB : Nat
  /-- array commands begun and not completed, oldest first (R228, R397) -/
  flights : List Flight
  deriving DecidableEq, Repr

/-- The MX at launch (R422), SEEDS and SEEDM aside. -/
def MxState.init : MxState :=
  { unfd := 0, seeds := 0, seedm := 0, cmds := [], fifoA := [], fifoB := [], acc := [], kind0 := .unset, kind1 := .unset,
    mix0 := false, mix1 := false, clsm := false, tinv := false, rsat := false, standing := 0, implicit := false, last0 := 0,
    last1 := 0, began := 0, freeA := 0, freeB := 0, flights := [] }

/-- A core: four engines and what they share. -/
structure Core where
  /-- g1–g47 and p1–p7 (R82) -/
  g : Tbl W64
  p : BitVec 8
  scu : Ctx
  ve : Ctx
  ce : Ctx
  mx : Ctx
  /-- v0–v31, vp1–vp7, lane j of xk at key 64k + j (R121) -/
  v : Tbl Row
  vp : Tbl BMask
  x : Tbl XLane
  /-- VFLAGS (R70) and the bits that landed in this cycle (R71) -/
  vflags : W64
  vlanded : W64
  /-- f0–f15, FOVF and STALLC (R92, R93, R99) -/
  flags : Tbl (BitVec 16)
  fovf : BitVec 16
  stallc : W64
  queues : Tbl Queue
  qserial : Nat
  loops : Tbl Loop
  /-- TRAPV (R93) -/
  trapv : W64
  /-- handler mode with what its entry saved (R359) -/
  hand : Option Handler
  /-- traps pending, oldest first (R362), and the last record handled (R361) with its word 4 and HALTED -/
  pend : List TrapRec
  handled : Option (TrapRec × W64 × Bool)
  rows : Tbl StashRow
  /-- first cycle in which each stash bank is free, and who waits for banks (R159) -/
  banks : Tbl Nat
  bankWaits : List BankWait
  /-- L1 by set, most recently used line first (R167) -/
  l1 : Tbl (List L1Line)
  /-- instruction cache: a line at key 2^48·slice + line address (R49, R382) -/
  icache : Tbl (Option (BitVec 512))
  /-- keys of its lines, oldest first: it holds 1,024 (R49) -/
  icorder : List Nat
  tlb : List TlbEntry
  late : List Late
  /-- special registers that groups read, by engine, as they stood before the cycle (R94, R117) -/
  latched : List (Engine × SReg × W64)
  /-- WP and the CSTAT word of each channel as they stood before the cycle, where the CE's group reads one (R294, R297) -/
  chanSeen : List (W64 × W64)
  /-- channels 0–7, caddy, in-use bits, group slots, grant table (R273, R286, R291, R321, R332) -/
  chans : Tbl Channel
  caddy : List Timed
  inuse : BitVec 512
  /-- bytes each channel has landed in this cycle, and the channel served last (R292) -/
  moved : Tbl Nat
  served : Nat
  groups : Tbl Group
  grants : List (BitVec 128)
  mxs : MxState
  /-- the instance it runs, 0 for none (R18) -/
  inst : Nat
  deriving DecidableEq, Repr

/-- An idle core (log 3). -/
def Core.init : Core :=
  { g := [], p := 0, scu := Ctx.init, ve := Ctx.init, ce := Ctx.init, mx := Ctx.init, v := [], vp := [], x := [],
    vflags := 0, vlanded := 0, flags := [], fovf := 0, stallc := 0, queues := [], qserial := 0, loops := [], trapv := 0,
    hand := none, pend := [], handled := none, rows := [], banks := [], bankWaits := [], l1 := [],
    icache := [], icorder := [], tlb := [], late := [], latched := [], chanSeen := [], chans := [], caddy := [], inuse := 0,
    moved := [], served := 7,
    groups := [], grants := [], mxs := MxState.init, inst := 0 }

/-! ## The cluster -/

/-- A tile the infuser forms or has formed (R251): the command and the first cycle in which it is ready. -/
structure Formed where
  pos : Nat
  num : Nat
  ready : Nat
  deriving DecidableEq, Repr

/-- A cluster: the array's lease, its paths and its infuser (R9, R223, R229, R251). -/
structure Cluster where
  holder : Option (BitVec 2)
  rem : Nat
  h : BitVec 2
  /-- first cycle in which the holder may begin a command, and consecutive idle cycles -/
  since : Nat
  idle : Nat
  /-- first cycle in which the entry is free -/
  entry : Nat
  drain : Nat
  /-- first cycle at whose start a free lease can pass on (R223, R233) -/
  free : Nat
  formed : List Formed
  /-- shadow storage: the context whose fixed part it holds, 0 for none (R388, R395) -/
  shadow : Nat
  deriving DecidableEq, Repr

/-- A cluster after reset (R223 step 3). -/
def Cluster.init : Cluster :=
  { holder := none, rem := 0, h := 3, since := 0, idle := 0, entry := 0, drain := 0, free := 0, formed := [], shadow := 0 }

/-! ## Memory -/

/-- A dirty sector above HBM (R167, R186): its newest bytes, and the core + 1 whose L1 holds it, or 0 for the home L2. -/
structure DirtySector where
  data : Sector
  poison : Bool
  l1 : Nat
  deriving DecidableEq, Repr

/-! ## Slices, launches and instances -/

/-- A slice (R387), with its package map (R311) and window table (R312). -/
structure Slice where
  granules : BitVec 32
  vf : BitVec 6
  stag : BitVec 21
  keys : List (BitVec 7)
  regions : List (BitVec 12)
  trapv : W64
  s2root : W64
  weights : List (BitVec 8)
  pkgmap : Tbl (BitVec 64)
  windows : Tbl (BitVec 128)
  /-- measurement handles given (R421) -/
  handles : Nat
  deriving DecidableEq, Repr

/-- No slice. -/
def Slice.init : Slice :=
  { granules := 0, vf := 0, stag := 0, keys := [], regions := [], trapv := 0, s2root := 0, weights := [], pkgmap := [],
    windows := [], handles := 0 }

/-- Where a committed launch stands (R420, R426). -/
inductive LaunchStage where
  /-- waiting at steps 1 and 2 -/
  | committed
  /-- passed its checks; waiting for cores since a cycle (R423) -/
  | checked (since : W64) (blocked : Bool)
  /-- cores reserved for its gang (R426 step 4) -/
  | reserved
  deriving DecidableEq, Repr

/-- A launch record (R418): the 32 registers with the two roots. -/
structure Launch where
  seq : BitVec 32
  regs : Tbl W64
  s1root : W64
  s2root : W64
  /-- completion vector at commit (R390) -/
  vector : BitVec 16
  gang : Option (BitVec 16 × BitVec 5)
  commit : Nat
  stage : LaunchStage
  deriving DecidableEq, Repr

/-- A command queue (R389, R390, R415). -/
structure CmdQueue where
  tail : BitVec 16
  head : BitVec 16
  seqc : BitVec 32
  seqs : BitVec 32
  seqd : BitVec 32
  qerr : W64
  qtok : W64
  en : Bool
  halted : Bool
  reason : BitVec 8
  shadow : Tbl W64
  /-- bound to a slot; the guest address of the control block (R416) -/
  bound : Bool
  block : W64
  /-- the front end's copy of the guest block (R390) -/
  guest : BitVec 1024
  /-- the shadow of the privileged fields (R390) -/
  s2root : W64
  prioceil : BitVec 8
  slice : BitVec 5
  slot : BitVec 8
  /-- GTIME of the last refresh (R390) -/
  refreshed : W64
  /-- privileged guest values that last raised a tamper event (R390), and tamper events since reset (R391) -/
  seen : Option (BitVec 1024)
  tampers : W64
  launches : List Launch
  /-- sequence numbers at or above SEQS, SEQD that have started or ended, that have ended (R415) -/
  started : List (BitVec 32)
  ended : List (BitVec 32)
  /-- 1 + the cycle in which SEQD last advanced, and SEQD before that cycle (R429) -/
  moved : Nat
  before : BitVec 32
  /-- bindings of the queue so far: its numbers are those of the last (R416, R428) -/
  binding : Nat
  deriving DecidableEq, Repr

/-- An unbound queue (R415). -/
def CmdQueue.init : CmdQueue :=
  { tail := 0, head := 0, seqc := 0, seqs := 0, seqd := 0, qerr := 0, qtok := 0, en := false, halted := false, reason := 0,
    shadow := [], bound := false, block := 0, guest := 0, s2root := 0, prioceil := 0, slice := 0, slot := 0, refreshed := 0,
    seen := none,
    tampers := 0, launches := [], started := [], ended := [], moved := 0, before := 0, binding := 0 }

/-- A gang (R426): PARTS, when the first part arrived, and the parts that have arrived (function, queue, sequence number). -/
structure Gang where
  parts : BitVec 5
  since : W64
  arrived : List (BitVec 6 × BitVec 6 × BitVec 32)
  deriving DecidableEq, Repr

/-- Where an instance stands (R388, R392, R393, R424). -/
inductive InstState where
  | running
  /-- a pre-emption by STOP, FREEZE or AUTO with its deadline is under way -/
  | stopping (freeze : Bool) (deadline : Option W64)
  | saved (freeze : Bool)
  | parkedOut (freeze : Bool)
  /-- its slice moved to another package at a time; to which, and what is left here waits for late replies (R401, R403) -/
  | moved (since : W64) (to_ : BitVec 21)
  /-- ended; its completion write is due (R425) -/
  | ending (status : BitVec 8)
  /-- ended, its completion write made; its number still tags rows (R164, R184) -/
  | ended
  deriving DecidableEq, Repr

/-- A kernel instance, or context (R17, R21, R388). -/
structure Inst where
  vf : BitVec 6
  q : BitVec 6
  seq : BitVec 32
  /-- which binding of its queue it came by (R428), and the class and deadline of its bind records when it started (R414, R423) -/
  binding : Nat
  class_ : Nat
  deadline : W64
  slice : BitVec 5
  regs : Tbl W64
  s1root : W64
  s2root : W64
  ox : BitVec 4
  oy : BitVec 4
  lw : BitVec 3
  lh : BitVec 3
  dmask : BitVec 8
  static_ : Bool
  /-- accumulated freeze, latest sample, and the global time of the next one (R21, R91) -/
  freeze : W64
  asserted : Bool
  sampled : W64
  /-- completion vector, as the control block gave it at commit (R389, R390) -/
  vector : BitVec 16
  start : W64
  dlined : Bool
  status : InstState
  /-- the record that ended it (R360) -/
  fault : Option TrapRec
  /-- image limits of R410: none, or base and length -/
  image : Option (W64 × W64)
  /-- migration sequence, 0 if never migrated (R398), and GTIME of the last restore (R403) -/
  migr : W64
  restored : W64
  /-- cycle and GTIME of its last pre-emption (R394, R398) -/
  stopCycle : Nat
  stopTime : W64
  deriving DecidableEq, Repr

/-- The instance number 0 stands for: a panel of core (0, 0) of die 0. -/
def Inst.init : Inst :=
  { vf := 0, q := 0, seq := 0, binding := 0, class_ := 0, deadline := 0, slice := 0, regs := [], s1root := 0, s2root := 0, ox := 0,
    oy := 0, lw := 0, lh := 0, dmask := 1,
    static_ := false, freeze := 0, asserted := false, sampled := 0, vector := 0, start := 0, dlined := false, status := .running,
    fault := none, image := none, migr := 0, restored := 0, stopCycle := 0, stopTime := 0 }

/-- A saved context (R395, R399, R400): for each core of the panel by its package-core index, its image and claimed scratch
rows; and the cycle in which it was swapped out. -/
structure Saved where
  cores : Tbl Core
  rows : List (Nat × Nat × StashRow)
  cycle : Nat
  /-- sectors of its fixed part that an uncorrectable error has struck, by cluster (R376) -/
  bad : List (Nat × Nat)
  /-- its area has been moved out of HBM (R434) -/
  cxl : Bool
  deriving DecidableEq, Repr

/-- Nothing saved. -/
def Saved.init : Saved := { cores := [], rows := [], cycle := 0, bad := [], cxl := false }

/-- A current measurement of an image (R421). -/
structure ImageMeas where
  slice : BitVec 5
  desc : W64
  handle : BitVec 16
  gen : BitVec 32
  digest : BitVec 256
  base : W64
  len : W64
  /-- the descriptor's 64 bytes as they were measured -/
  bytes : BitVec 512
  current : Bool
  /-- physical addresses of the stage-2 leaves that lost W (R410) -/
  leaves : List Nat
  deriving DecidableEq, Repr

/-! ## Page requests -/

/-- A page request (R372, R373): its record, and whether the ring holds it. -/
structure PageReq where
  vf : BitVec 6
  seq : BitVec 32
  rec_ : BitVec 256
  written : Bool
  /-- answered: by RETRY, or by FAIL (R374) -/
  reply : Option Bool
  /-- merge key (R370): die, slice, stage-1 root, 4 KiB page -/
  die : Nat
  slice : Nat
  s1root : W64
  page : Nat
  /-- slice addresses that its walk went through (R371) -/
  path : List Nat
  deriving DecidableEq, Repr

/-- A table entry in a die's walker cache (R370): its slice, stage, stage-1 root (0 for stage 2), its address (physical for stage 2, a
slice address for stage 1), its value, and first address and log2 size of what it translates (slice addresses for stage 2, virtual
ones for stage 1). -/
structure WalkEntry where
  slice : Nat
  stage2 : Bool
  root : W64
  addr : Nat
  val : W64
  base : Nat
  log : Nat
  deriving DecidableEq, Repr

/-- An invalidation under way (R371): stage, first address, length, whole slice. -/
structure Inval where
  stage2 : Bool
  whole : Bool
  addr : W64
  len : W64
  deriving DecidableEq, Repr

/-- A page-request block (R373). -/
structure PrqBlock where
  base : W64
  ctl : W64
  tail : W64
  head : W64
  ignored : BitVec 16
  next : BitVec 32
  invaddr : W64
  invlen : W64
  invdone : W64
  invals : List Inval
  deriving DecidableEq, Repr

/-- A block after reset. -/
def PrqBlock.init : PrqBlock :=
  { base := 0, ctl := 0, tail := 0, head := 0, ignored := 0, next := 0, invaddr := 0, invlen := 0, invdone := 0, invals := [] }

/-! ## Collectives at the exchange units -/

/-- A group operation at one member of an exchange unit's die (R336, R342, R355): the member's context and package-core index, its
own operation's header once it has issued, the contributions that have arrived, and the elements reduced with their flags as in
bits 4:0 of R343. -/
structure XOp where
  ctx : Nat
  core : Nat
  gid : BitVec 32
  seq : BitVec 32
  own : Option Contribution
  /-- the member has completed or cancelled it (R348) -/
  ended : Bool
  contribs : List Contribution
  /-- answers that have come from owners on other packages, and the places in `contribs` of what other packages sent that this unit
has answered (R344) -/
  answers : List Contribution
  told : List Nat
  reduced : List (Nat × W64 × BitVec 8)
  deriving DecidableEq, Repr

/-! ## Metering, the fabric, the host port, boot -/

/-- A meter region (R405). -/
structure Region where
  opened : Bool
  count : W64
  licid : BitVec 128
  gen : BitVec 32
  allow : List (BitVec 256)
  rseq : W64
  prev : BitVec 256
  /-- GTIME of its last periodic record (R407) -/
  last : W64
  /-- elements that products of each slice have counted (R411) -/
  shares : Tbl W64
  /-- slices that came by a migration and for which it is not open yet (R408) -/
  awaited : List Nat
  deriving DecidableEq, Repr

/-- A region never opened. -/
def Region.init : Region :=
  { opened := false, count := 0, licid := 0, gen := 0, allow := [], rseq := 0, prev := 0, last := 0, shares := [], awaited := [] }

/-- A meter record (R406), field by field. -/
structure MeterRec where
  reason : BitVec 8
  region : BitVec 12
  devid : BitVec 256
  licid : BitVec 128
  gen : BitVec 32
  count : W64
  rseq : W64
  gtime : W64
  bound : W64
  nonce : BitVec 128
  prev : BitVec 256
  digest : BitVec 256
  sig : BitVec 19360
  deriving DecidableEq, Repr

/-- One direction of a bridge port (R302, R306): the slots of credit that its link extends for each virtual channel, those that slots
sent have taken and that have not come back, protected mode, GTIME since which the reserve has been held, the slot it put on its ring
last, and the slice whose turn it is with the slots left to it (R302). -/
structure Way where
  credits : Tbl Nat
  used : Tbl Nat
  protected_ : Bool
  held : W64
  out : Option Slot
  turn : Nat
  share : Nat
  deriving DecidableEq, Repr

/-- A direction that holds the reserve of two slots for each of six virtual channels (R306; log 3). -/
def Way.init : Way := { credits := [], used := [], protected_ := false, held := 0, out := none, turn := 0, share := 0 }

/-- A bridge port's link (R306 to R309), clockwise and counter-clockwise, with the slice tags it has keys for (R307). -/
structure Link where
  trained : Bool
  keyed : Bool
  cw : Way
  ccw : Way
  tags : List (BitVec 21)
  slew : Int
  errors : Nat
  deriving DecidableEq, Repr

/-- A link after power-good. -/
def Link.init : Link :=
  { trained := false, keyed := false, cw := Way.init, ccw := Way.init, tags := [], slew := 0, errors := 0 }

/-- A message of which some slots have landed and more are to come (R301): source package and endpoint, next SEQ, and the payload
landed. -/
structure Partial where
  spkg : BitVec 21
  sep : BitVec 12
  seq : BitVec 16
  got : List (BitVec 1024)
  deriving DecidableEq, Repr

/-- Receive buffers of an endpoint on one virtual channel (R304): ordinary slots held, the elder buffer, slots that go round the
package ring once more with their direction, those refused twice, messages partly landed, and the last message landed whole. -/
structure Endpoint where
  buf : List Slot
  elder : Option Slot
  circling : List (Slot × Bool)
  nacked : List Slot
  under : List Partial
  landed : Option Partial
  deriving DecidableEq, Repr

/-- An endpoint with empty buffers. -/
def Endpoint.init : Endpoint := { buf := [], elder := none, circling := [], nacked := [], under := [], landed := none }

/-- What a message that leaves the package carries (R302, R315, R320, R336). -/
inductive Body where
  | request (q : FarReq)
  | reply (r : ReplyData) (region : BitVec 12)
  | part (k : Contribution)
  /-- a message of the session that sets a link up (R308, R439) -/
  | setup
  /-- a slot on its way through the package -/
  | slot (x : Slot)
  deriving DecidableEq, Repr

/-- A message that waits at a bridge station (R301 to R306): destination, source endpoint, virtual channel, slice tag, reply code,
what it carries, which operation or channel of its source waits for an answer, its slots and those left, the first cycle in which
it can be sent (R305), and whether it goes the other way round its ring (R306). Once its first slot has left, `seq` is that slot's
sequence number (R301), and `busy` counts the NACK-BUSY replies that it has had in a row (R305). -/
structure Msg where
  dpkg : BitVec 21
  dep : BitVec 12
  sep : BitVec 12
  vc : BitVec 3
  stag : BitVec 21
  code : BitVec 8
  body : Body
  who : Option Claimant
  slots : Nat
  left : Nat
  since : Nat
  turned : Bool
  seq : BitVec 16
  busy : Nat
  deriving DecidableEq, Repr

/-- A slice as it moves between packages (R401): its number and tag, its contexts with what is saved of them, its page requests
outstanding and answered, its next page-request number, the state its members have at the exchange units, its granules there, and
their memory with key tags and poisoned sectors, by place among them in ascending order. -/
structure Migrant where
  slice : Nat
  to_ : BitVec 21
  stag : BitVec 21
  insts : List (Nat × Inst × Saved)
  reqs : List (Nat × PageReq)
  next : BitVec 32
  xops : List XOp
  granules : List Nat
  cells : List Host.Cell
  scrubs : List (Nat × Nat × BitVec 7)
  poison : Tbl Bool
  deriving DecidableEq, Repr

/-- A frame that a pre-copy round brought to a slice's target: its address, its size and its bytes (R401 step 1). -/
structure CopiedFrame where
  base : Nat
  size : Nat
  cells : List Host.Cell
  deriving DecidableEq, Repr

/-- The last whole-memory checkpoint (R404): HBM with its key tags and poisoned sectors. Its sectors are on the tier as ciphertext
(`Tier.sector`). -/
structure Tier where
  cells : List Host.Cell
  scrubs : List (Nat × Nat × BitVec 7)
  poison : Tbl Bool
  deriving DecidableEq, Repr

/-- No checkpoint has been written. -/
def Tier.init : Tier := { cells := [], scrubs := [], poison := [] }

/-- Why a write-back of a context that ends was abandoned (R425). -/
inductive LostCause where
  | miss
  | denied
  | keyConflict
  | poisoned
  deriving DecidableEq, Repr

/-- What the management complex is told (R302, R306, R376, R423 to R425, R439). -/
inductive MgmtEvent where
  | link (level : BitVec 2) (die : BitVec 3) (what : Nat)
  | blocked (vf q : BitVec 6) (seq : BitVec 32)
  | deadline (ctx : Nat)
  | fault (ctx : Nat) (rec_ : TrapRec)
  | poisoned (pa : Nat) (slice : Nat)
  | lost (slice : Nat) (line : BitVec 40) (cause : LostCause)
  | corrected (count : Nat)
  | coreReset (core : BitVec 2)
  deriving DecidableEq, Repr

/-- What the DOE mailbox last answered (R438, R440). -/
inductive DoeReply where
  | none_
  | versions (v : List (BitVec 16))
  | notReady
  | measurements (blocks : List (BitVec 256)) (log : List (Nat × BitVec 256 × W64 × W64))
  | certificate (chain : List Byte)
  deriving DecidableEq, Repr

/-- A tamper event waiting for the event ring (R391). -/
structure TamperRec where
  gtime : W64
  vf : BitVec 8
  queue : BitVec 8
  mask : BitVec 8
  pval : BitVec 32
  gval : W64
  count : W64
  deriving DecidableEq, Repr

/-- Device registers and boot state (R433, R436 to R442). -/
structure Device where
  svc : BitVec 2
  handover : Bool
  dies : BitVec 8
  /-- arithmetic clock in MHz as DEVSTAT shows it -/
  clock : BitVec 12
  fwver : BitVec 32
  evbase : W64
  evctl : W64
  evtail : W64
  evhead : W64
  qverpf : BitVec 16
  running : Bool
  failed : Bool
  /-- a checkpoint asked for during a hand-over (R444), and the contexts that the checkpoint under way stopped (R404) -/
  ckptDue : Bool
  ckptCtx : List Nat
  /-- AGREED per function (R436) -/
  qver : Tbl (BitVec 16)
  events : List TamperRec
  meas : Tbl (BitVec 256)
  log : List (Nat × BitVec 256 × W64 × W64)
  /-- the image that runs, and the one that takes over at a hand-over's commit (R440) -/
  image : BitVec 256
  next : BitVec 256
  doe : DoeReply
  /-- GTIME of each management core's last heartbeat (R439) -/
  beats : Tbl Nat
  /-- the SPDM responder runs (R437 steps 3, 4), and the repair and configuration data are in use (step 5) -/
  responder : Bool
  repaired : Bool
  /-- the management complex's scratch memory (R413), and the HDM ranges of the CXL port (R434) -/
  scratch : List Host.Cell
  hdm : BitVec 16
  msgs : List MgmtEvent
  /-- MSI-X vectors fired: function (0 the physical one) and vector -/
  msix : List (BitVec 6 × BitVec 11)
  /-- what the host's last read of BAR 0 received (R432) -/
  readData : W64
  /-- pages of a function's DMA space, by 2^52 · function + page, at which its accesses fail (R416) -/
  dmaErr : Tbl Bool
  correctable : Nat
  deriving DecidableEq, Repr

/-- The device after reset (R433, R438). -/
def Device.init : Device :=
  { svc := 0, handover := false, dies := 0, clock := 0, fwver := 0, evbase := 0, evctl := 0, evtail := 0, evhead := 0,
    qverpf := 0, running := false, failed := false, ckptDue := false, ckptCtx := [], qver := [], events := [], meas := [], log := [],
    image := 0, next := 0, doe := .none_, beats := [], responder := false, repaired := false, scratch := [], hdm := 0, msgs := [],
    msix := [], readData := 0, dmaErr := [], correctable := 0 }

/-! ## The machine -/

/-- An issue slot left in the cycle: a core's engine, whether it is the second try of R96's last rule, and whether it has let an older
FWAIT that waits for room go first (R99). -/
structure IssueSlot where
  core : Nat
  eng : Engine
  again : Bool
  late : Bool
  deriving DecidableEq, Repr

/-- The package. -/
structure State where
  /-- the package's own physical number (R303; log 3) -/
  pkg : BitVec 21
  cycle : Nat
  /-- GTIME (R20), and the part of a nanosecond gone by (log 6) -/
  gtime : W64
  gphase : Nat
  /-- correction of GTIME still due, and nanoseconds since its last step (R20, R309) -/
  slew : Int
  slewPhase : Nat
  /-- the model's counter of free values (log 9) -/
  free : Nat
  /-- the model's schedule: events to come first, issue slots left in this cycle (log 2) -/
  agenda : List Instr
  turn : List IssueSlot
  /-- whose instruction `exec` runs, and its syllable and index (log 2) -/
  focus : Nat
  eng : Engine
  syl : Syl
  idx : BitVec 4
  /-- cores by package-core index, clusters by 64·die + cluster index (R7, R8) -/
  cores : Tbl Core
  clusters : Tbl Cluster
  /-- HBM by physical address (R10); key tags as the slice manager's scrubs of them, latest first: first sector, number of
  sectors, key (R368); poisoned sectors (R376); dirty sectors above HBM by sector (R167) -/
  hbm : List Host.Cell
  scrubs : List (Nat × Nat × BitVec 7)
  poison : Tbl Bool
  dirty : Tbl (Option DirtySector)
  /-- L2RNG registers by 8·die + n, and their accumulators (R168, R169) -/
  l2rng : Tbl (BitVec 128)
  l2acc : Tbl (BitVec 9)
  /-- L2 lines by 24,576·die + set, most recently used first (R168) -/
  l2 : Tbl (List L2Line)
  /-- stash banks that the step under way claims: core, bank, and the claim's place among those of equal age (R159; the model's own) -/
  claims : List (Nat × Nat × Nat)
  /-- the place in the order of R218 that the cycle's barrier operations have reached: kind, core, engine (the model's own) -/
  barStage : Nat
  hostMem : List Host.Cell
  slices : Tbl Slice
  /-- bind records by 256·die + n (R414) -/
  slots : Tbl (BitVec 128)
  /-- queue q of function v at key 64·v + q -/
  queues : Tbl CmdQueue
  gangs : Tbl Gang
  /-- instances by context number, saved contexts, next number (R388) -/
  insts : Tbl Inst
  saved : Tbl Saved
  nextCtx : Nat
  images : List ImageMeas
  prq : Tbl PrqBlock
  reqs : Tbl PageReq
  nextReq : Nat
  /-- walker caches by die, most recently used entry first (R370) -/
  walks : Tbl (List WalkEntry)
  xops : List XOp
  regions : Tbl Region
  records : List MeterRec
  /-- links by 8·level + die, endpoints by 8·(512·die + endpoint) + vc (R301, R304) -/
  links : Tbl Link
  endpoints : Tbl Endpoint
  /-- physical numbers at which no package is fitted (R303), next SEQ by 8·(512·die + endpoint) + vc (R301), messages that wait at
  the bridge stations (R302), and requests of other packages that are not served yet, each with the cycle of its arrival (R331) -/
  unfitted : Tbl Bool
  seqs : Tbl (BitVec 16)
  waiting : List Msg
  /-- messages of which slots have left and which another package may still refuse, newest first (R305) -/
  sent : List Msg
  arrived : List (Nat × FarReq)
  /-- slices that have moved to other packages, and that arrive here (R401) -/
  outbound : List Migrant
  inbound : List Migrant
  /-- frames that a pre-copy has brought to a slice's target, by slice (R401 step 1) -/
  copied : Tbl (List CopiedFrame)
  /-- the whole-memory checkpoint on the safe tier (R404) -/
  tier : Tier
  dev : Device
  deriving DecidableEq, Repr

/-- The defaults of the tables of records that have no named initial value: what an unlisted entry stands for. -/
def Gang.init : Gang := { parts := 0, since := 0, arrived := [] }

/-- No page request. -/
def PageReq.init : PageReq :=
  { vf := 0, seq := 0, rec_ := 0, written := false, reply := none, die := 0, slice := 0, s1root := 0, page := 0,
    path := [] }

/-- The package right after reset: every register at the value the spec gives for reset, and otherwise at the value its
log entry names (INVENTORY.md, ## State). No core runs (R16, R22): a program comes by a launch (log 8). -/
def State.reset : State :=
  { pkg := 0, cycle := 0, gtime := 0, gphase := 0, slew := 0, slewPhase := 0, free := 0, agenda := [], turn := [], focus := 0,
    eng := .scu, syl := 0, idx := 0,
    cores := [], clusters := [], hbm := [], scrubs := [], poison := [], dirty := [], l2rng := [], l2acc := [], l2 := [],
    claims := [], barStage := 0, hostMem := [], slices := [],
    slots := [], queues := [], gangs := [], insts := [], saved := [], nextCtx := 1, images := [], prq := [], reqs := [],
    nextReq := 1, walks := [], xops := [], regions := [], records := [], links := [], endpoints := [], unfitted := [], seqs := [],
    waiting := [], sent := [], arrived := [], outbound := [], inbound := [], copied := [], tier := Tier.init, dev := Device.init }

/-! ## Outcomes -/

/-- Faults of the model: where a step stops. Every one is the model's own (log 17). -/
inductive Fault where
  /-- Raised by memory operations: a physical address at or above 2^40, where the package has no memory (R10, R386).
  Safe: the machine stops where the spec gives no behaviour. -/
  | noMemory (pa : Nat)
  deriving DecidableEq, Repr

/-- Refusals of the model. -/
inductive Refusal where
  /-- Raised by `exec` alone, for an instruction that has no meaning in the model. Safe: the machine stops. -/
  | notModelled (mnemonic : String)
  deriving DecidableEq, Repr

end Sys2Proof.Machine
end

