-- ==== Sys2Proof/Machine/Ops.lean ====
section
/-!
DEFINITION. The named operations over registers, queues, tokens, landing buffers and outstanding operations that every
meaning uses; the one issue gate of R84 to R98 and R190; taking a trap (R358 to R362), entering the handler (R359) and
returning from it (R381).
-/

namespace Sys2Proof.Machine

/-! ## Bits -/

/-- Bits `lo + w - 1 : lo` of a word. -/
def slice {n : Nat} (x : BitVec n) (lo w : Nat) : BitVec w := x.extractLsb' lo w

/-- One bit as a number of any width. -/
def bit {n : Nat} (b : Bool) (at_ : Nat) : BitVec n := if b then BitVec.ofNat n (2 ^ at_) else 0

/-- A field placed at a bit. -/
def field {n w : Nat} (x : BitVec w) (at_ : Nat) : BitVec n := (x.setWidth n) <<< at_

/-- The signed amount of a short field, in units of `u` (R38). -/
def sextTimes {w : Nat} (x : BitVec w) (u : Nat) : W64 := (x.signExtend 64) * BitVec.ofNat 64 u

/-- A mask of a byte guard with one bit per byte, widened to the bits of a row. -/
def rowMask (m : BMask) : Row :=
  if m = BitVec.allOnes 256 then BitVec.allOnes 2048
  else (List.range 256).foldl (fun acc j => if m.getLsbD j then acc ||| (0xFF#2048 <<< (8 * j)) else acc) 0

/-- Bytes of `new` where the guard enables them, of `old` elsewhere (R123, R173). -/
def mergeBytes (old new : Row) (m : BMask) : Row :=
  if m = BitVec.allOnes 256 then new else (old &&& ~~~(rowMask m)) ||| (new &&& rowMask m)

/-! ## Cores and engines -/

/-- A core by its package-core index (R7). -/
def State.core (s : State) (c : Nat) : Core := s.cores.get Core.init c

/-- Replaces a core. -/
def State.setCore (s : State) (c : Nat) (k : Core) : State := { s with cores := s.cores.set Core.init c k }

/-- Changes a core. -/
def State.modCore (s : State) (c : Nat) (f : Core → Core) : State := s.setCore c (f (s.core c))

/-- One of the four engines of a core. -/
def Core.ctx (k : Core) (e : Engine) : Ctx :=
  match e with
  | .scu => k.scu
  | .ve => k.ve
  | .ce => k.ce
  | .mx => k.mx

/-- Replaces an engine. -/
def Core.setCtx (k : Core) (e : Engine) (x : Ctx) : Core :=
  match e with
  | .scu => { k with scu := x }
  | .ve => { k with ve := x }
  | .ce => { k with ce := x }
  | .mx => { k with mx := x }

/-- The four engines in the order in which they issue (R99, R159). -/
def engines : List Engine := [.scu, .ve, .ce, .mx]

/-- Changes an engine. -/
def Core.modCtx (k : Core) (e : Engine) (f : Ctx → Ctx) : Core := k.setCtx e (f (k.ctx e))

/-- The core whose instruction runs. -/
def State.cur (s : State) : Core := s.core s.focus

/-- The engine whose instruction runs. -/
def State.ctx (s : State) : Ctx := s.cur.ctx s.eng

/-- Changes the core whose instruction runs. -/
def State.modCur (s : State) (f : Core → Core) : State := s.modCore s.focus f

/-- Changes the engine whose instruction runs. -/
def State.modCtx (s : State) (f : Ctx → Ctx) : State := s.modCur (fun k => k.modCtx s.eng f)

/-- The instance a core runs; number 0 when it runs none. -/
def State.instOf (s : State) (c : Nat) : Inst := s.insts.get Inst.init (s.core c).inst

/-- Changes an instance. -/
def State.modInst (s : State) (n : Nat) (f : Inst → Inst) : State :=
  { s with insts := s.insts.set Inst.init n (f (s.insts.get Inst.init n)) }

/-- Cluster of a core, and its position in it (R8). -/
def clusterOf (c : Nat) : Nat := 64 * (c / 256) + (c % 16) / 2 + 8 * ((c % 256) / 16 / 2)

/-- Position of a core in its cluster (R8). -/
def posOf (c : Nat) : Nat := (c % 16) % 2 + 2 * (((c % 256) / 16) % 2)

/-- The core at a position of a cluster (R8). -/
def coreAt (cl pos : Nat) : Nat :=
  256 * (cl / 64) + (2 * (cl % 8) + pos % 2) + 16 * (2 * (cl % 64 / 8) + pos / 2)

/-! ## Registers -/

/-- A general register; g0 reads 0 (R82). -/
def Core.gr (k : Core) (n : BitVec 6) : W64 := if n = 0 then 0 else k.g.get 0 n.toNat

/-- Writes a general register; g0 discards (R82). -/
def Core.setG (k : Core) (n : BitVec 6) (v : W64) : Core := if n = 0 then k else { k with g := k.g.set 0 n.toNat v }

/-- An SCU predicate; p0 reads 1 (R82). -/
def Core.pr (k : Core) (n : BitVec 3) : Bool := n = 0 || k.p.getLsbD n.toNat

/-- Writes an SCU predicate; p0 discards. -/
def Core.setP (k : Core) (n : BitVec 3) (v : Bool) : Core :=
  if n = 0 then k else { k with p := (k.p &&& ~~~(bit true n.toNat)) ||| bit v n.toNat }

/-- An address register of an engine (R82, R121). -/
def Ctx.ar (x : Ctx) (n : BitVec 4) : W64 := x.areg.get 0 n.toNat

/-- Writes an address register. -/
def Ctx.setA (x : Ctx) (n : BitVec 4) (v : W64) : Ctx := { x with areg := x.areg.set 0 n.toNat v }

/-- A vector register. -/
def Core.vr (k : Core) (n : BitVec 5) : Row := k.v.get 0 n.toNat

/-- A vector predicate; vp0 reads all ones (R121). -/
def Core.vpr (k : Core) (n : BitVec 3) : BMask := if n = 0 then BitVec.allOnes 256 else k.vp.get 0 n.toNat

/-- Whether the guard of an SCU instruction holds (R34). -/
def Core.guardP (k : Core) (g : Guard) : Bool := k.pr g.p != g.neg

/-- Whether the guard of MFS, MTS or MARK holds on an engine: element 0 of a vector predicate on the VE, always on the CE
and the MX (R34, R221, R272). -/
def Core.guardOn (k : Core) (e : Engine) (g : Guard) : Bool :=
  match e with
  | .scu => k.guardP g
  | .ve => (k.vpr g.p).getLsbD 0 != g.neg
  | .ce => true
  | .mx => true

/-! ## Queues -/

end Sys2Proof.Machine

namespace Sys2Proof

/-- The queue reference of a source field: whether it pops, and which queue (R41). -/
def GField.qref : GField → Option (Bool × BitVec 3)
  | .r _ => none
  | .pop q => some (true, q)
  | .peek q => some (false, q)

/-- The same of a vector field. -/
def VField.qref : VField → Option (Bool × BitVec 3)
  | .r _ => none
  | .pop q => some (true, q)
  | .peek q => some (false, q)

/-- The same of the register operand of a common major. -/
def RF.qref : RF → Option (Bool × BitVec 3)
  | .g f => f.qref
  | .a _ => none

/-- A pop code as a destination pushes (R41). -/
def GField.push : GField → Option (BitVec 3)
  | .r _ => none
  | .pop q => some q
  | .peek _ => none

/-- The same of a vector field. -/
def VField.push : VField → Option (BitVec 3)
  | .r _ => none
  | .pop q => some q
  | .peek _ => none

/-- The same of the register operand of a common major. -/
def RF.push : RF → Option (BitVec 3)
  | .g f => f.push
  | .a _ => none

end Sys2Proof

namespace Sys2Proof.Machine

/-- A queue of a core. -/
def Core.queue (k : Core) (q : BitVec 3) : Queue := k.queues.get Queue.init q.toNat

/-- Replaces a queue. -/
def Core.setQueue (k : Core) (q : BitVec 3) (x : Queue) : Core := { k with queues := k.queues.set Queue.init q.toNat x }

/-- The entry a pop or peek reads: the oldest, once its push has landed (R96). -/
def Queue.head (x : Queue) : Option Row :=
  match x.slots with
  | [] => none
  | e :: _ => e.val

/-- Removes the head entry. -/
def Core.popQueue (k : Core) (q : BitVec 3) : Core :=
  k.setQueue q { k.queue q with slots := (k.queue q).slots.tail }

/-- Reserves an entry for a push (R96); the entry's number is the serial before. -/
def Core.reserve (k : Core) (q : BitVec 3) : Core :=
  { k.setQueue q { k.queue q with slots := (k.queue q).slots ++ [{ id := k.qserial, val := none }] } with
    qserial := k.qserial + 1 }

/-- Fills a reserved entry; without one (R98) nothing is pushed. -/
def Core.fill (k : Core) (q : BitVec 3) (id : Nat) (v : Row) : Core :=
  k.setQueue q { k.queue q with
    slots := (k.queue q).slots.map (fun e => if e.id = id ∧ e.val = none then { e with val := some v } else e) }

/-- COUNT of a queue: entries held (R95). -/
def Queue.count (x : Queue) : Nat := (x.slots.filter (fun e => e.val.isSome)).length

/-- What a queue source reads, and the core after it (R96). -/
def Core.readQ (k : Core) (pop : Bool) (q : BitVec 3) : Row × Core :=
  (((k.queue q).head).getD 0, if pop then k.popQueue q else k)

/-- Reads a g-field (R40, R41). -/
def Core.readG (k : Core) (f : GField) : W64 × Core :=
  match f with
  | .r n => (k.gr n, k)
  | .pop q => let (v, k') := k.readQ true q; (v.setWidth 64, k')
  | .peek q => let (v, k') := k.readQ false q; (v.setWidth 64, k')

/-- The value a scalar entry gives a vector source: the 64-bit entry 32 times over (R124). -/
def splat64 (v : W64) : Row := (List.range 32).foldl (fun acc j => acc ||| ((v.setWidth 2048) <<< (64 * j))) 0

/-- Reads a vector field (R124). -/
def Core.readV (k : Core) (f : VField) : Row × Core :=
  match f with
  | .r n => (k.vr n, k)
  | .pop q =>
    let (v, k') := k.readQ true q
    (if (k.queue q).row then v else splat64 (v.setWidth 64), k')
  | .peek q =>
    let (v, k') := k.readQ false q
    (if (k.queue q).row then v else splat64 (v.setWidth 64), k')

/-- Reads the register operand of a common major on an engine (R36). -/
def Core.readRF (k : Core) (e : Engine) (f : RF) : W64 × Core :=
  match f with
  | .g x => k.readG x
  | .a n => ((k.ctx e).ar n, k)

/-- What is pushed to a queue: the whole row, or bits 63:0 where the queue is scalar (R124). -/
def Queue.entry (x : Queue) (v : Row) : Row := if x.row then v else (v.setWidth 64).setWidth 2048

/-- The queues, in reading order, whose entries do not suffice (R96). -/
def unmetPops (k : Core) : List (Option (Bool × BitVec 3)) → List (BitVec 3)
  | [] => []
  | none :: r => unmetPops k r
  | some (pop, q) :: r =>
    match (k.queue q).head with
    | none => q :: unmetPops k r
    | some _ => unmetPops (if pop then k.popQueue q else k) r

/-- The core after its pops. -/
def afterPops (k : Core) : List (Option (Bool × BitVec 3)) → Core
  | [] => k
  | none :: r => afterPops k r
  | some (pop, q) :: r => afterPops (if pop then k.popQueue q else k) r

/-! ## The issue gate -/

/-- The write-port groups of R85 and R126. -/
inductive RegFile where
  | gpa | v | vp | x
  /-- a destination without write slots: a queue, or a register of an engine that R85 and R126 give no limit -/
  | free
  deriving DecidableEq, Repr

/-- The file an effect writes on an engine. -/
def Effect.file (e : Engine) : Effect → RegFile
  | .g _ _ => .gpa
  | .gbits _ _ _ => .gpa
  | .p _ _ => .gpa
  | .a _ _ => if e = .scu then .gpa else .free
  | .abits _ _ _ => if e = .scu then .gpa else .free
  | .push _ _ _ => .free
  | .v _ _ _ => .v
  | .vbits _ _ _ => .v
  | .vp _ _ _ => .vp
  | .xclr _ _ => .x
  | .xacc _ _ _ => .x
  | .xsca _ _ _ _ _ => .x
  | .xset _ _ => .x

/-- What an instruction needs in order to issue. -/
structure Needs where
  /-- queue sources in the order s1, s2 (R96), and the queue it pushes -/
  srcs : List (Option (Bool × BitVec 3)) := []
  dst : Option (BitVec 3) := none
  /-- a further encoding check that depends on the state fails (ILL_FIELD) -/
  bad : Bool := false
  /-- its guard holds (R34) -/
  act : Bool := true
  /-- token charged (R87), entries taken (R189) -/
  tok : Option (BitVec 3) := none
  ld : Bool := false
  st : Bool := false
  /-- latency and file of its landing-buffer entry; latency 0 takes none (R85, R126) -/
  lat : Nat := 0
  file : RegFile := .free
  /-- another reason to wait (R90) -/
  cond : Option WaitCause := none
  deriving DecidableEq, Repr

/-- A queue source that the engine may read (R41, R95). -/
def Core.srcOk (k : Core) (e : Engine) (r : Option (Bool × BitVec 3)) : Bool :=
  match r with
  | none => true
  | some (_, q) => (k.queue q).en && decide ((k.queue q).cons = e) && !(decide (e = .scu) && (k.queue q).row)

/-- A queue that the engine may push (R41, R95). -/
def Core.dstOk (k : Core) (e : Engine) (r : Option (BitVec 3)) : Bool :=
  match r with
  | none => true
  | some q => (k.queue q).en && decide ((k.queue q).prod = e) && !(decide (e = .scu) && (k.queue q).row)

/-- A token's count (R87). -/
def Ctx.token (x : Ctx) (t : BitVec 3) : Nat := x.tok.get 0 t.toNat

/-- Entries held in the load queue (R189): by operations that have not performed. -/
def Ctx.loads (x : Ctx) : Nat := (x.ops.filter (fun o => o.ld)).length

/-- Entries held in the store queue. -/
def Ctx.stores (x : Ctx) : Nat := (x.ops.filter (fun o => o.st)).length

/-- A free landing-buffer entry and a free write slot in the landing cycle (R85, R126). -/
def Ctx.landRoom (x : Ctx) (e : Engine) (lat : Nat) (f : RegFile) : Bool :=
  lat = 0 ||
    (decide (x.land.length < 8) &&
      (decide (f = .free) ||
        decide ((x.land.filter (fun l => l.rem = lat ∧ l.eff.file e = f)).length < 4)))

/-- What the gate finds. -/
inductive Verdict where
  | go
  /-- the guard is false: no effect on any state (R34) -/
  | skip
  | ill
  | closed (q : BitVec 3)
  | wait (cs : List WaitCause)
  | hold
  deriving DecidableEq, Repr

/-- The closed queue that makes a group trap Q_CLOSED (R97): a pop or peek that finds it closed and short, or a push; in the
order s1, s2, push. One that still holds the entries asked of it is not named (log 29). -/
def closedQueue (k : Core) (n : Needs) : Option (BitVec 3) :=
  (unmetPops k n.srcs ++ n.dst.toList).find? (fun q => (k.queue q).closed)

/-- The queue conditions that are not met, in the order s1, s2, push (R96). -/
def queueWaits (k : Core) (n : Needs) : List WaitCause :=
  (unmetPops k n.srcs).map .pop ++
    match n.dst with
    | some q => if ((afterPops k n.srcs).queue q).slots.length < 8 then [] else [.push q]
    | none => []

/-- Every reason to wait of an instruction of engine `e` (R90, R96, R87, R190). -/
def Core.waits (k : Core) (e : Engine) (n : Needs) : List WaitCause :=
  queueWaits k n ++
    (if n.tok.any (fun t => 63 ≤ (k.ctx e).token t) then [.token] else []) ++
    (if (n.ld && decide (32 ≤ (k.ctx e).loads)) || (n.st && decide (32 ≤ (k.ctx e).stores)) then [.order] else []) ++
    n.cond.toList

/-- Whether an instruction of engine `e` issues (R39, R85, R90, R96, R97, R126, R190). -/
def Core.gate (k : Core) (e : Engine) (n : Needs) : Verdict :=
  if n.bad || !(n.srcs.all (k.srcOk e)) || !(k.dstOk e n.dst) then .ill
  else if !n.act then .skip
  else
    match closedQueue k n with
    | some q => .closed q
    | none =>
      match k.waits e n with
      | [] => if (k.ctx e).landRoom e n.lat n.file then .go else .hold
      | cs => .wait cs

/-- An instruction issues now: the condition of the completion statements. -/
def State.ready (s : State) (n : Needs) : Bool := decide (s.cur.gate s.eng n = .go)

/-! ## Traps -/

/-- Line address and syllable of a point (R111). -/
def ptLine (p : W64) : W64 := p &&& ~~~(63#64)

/-- Syllable of a point. -/
def ptSyl (p : W64) : BitVec 4 := slice p 0 4

/-- A point: bits 5:4 zero (R111). -/
def isPoint (p : W64) : Bool := slice p 4 2 == 0#2

/-- The point of a line and a syllable. -/
def mkPt (line : W64) (syl : BitVec 4) : W64 := ptLine line ||| syl.setWidth 64

/-- Rank of a trap among those of one cycle (R362). -/
def TrapRec.rank (r : TrapRec) : Nat :=
  if r.kind = 3 then 12
  else
    match r.chan with
    | some c => 4 + c.toNat
    | none =>
      match r.eng with
      | .scu => 0
      | .ve => 1
      | .mx => 2
      | .ce => 3

/-- Places a trap among those pending: oldest first, R362's order within a cycle. -/
def insertTrap (r : TrapRec) : List TrapRec → List TrapRec
  | [] => [r]
  | x :: xs => if x.cyc = r.cyc ∧ r.rank < x.rank then r :: x :: xs else x :: insertTrap r xs

/-- A trap belongs to an engine, which it parks: neither a channel's nor a notice (R358, R362). -/
def TrapRec.parks (r : TrapRec) (e : Engine) : Bool :=
  decide (r.eng = e) && decide (r.chan = none) && decide (r.kind ≠ 3)

/-- An engine is parked by a trap of its own until the ERET that names it (R358). The SCU runs the handler meanwhile, of an older
trap too (R362). -/
def Core.parked (k : Core) (e : Engine) : Bool :=
  ((decide (e ≠ .scu) || k.hand.isNone) && k.pend.any (fun r => r.parks e)) ||
    (decide (e ≠ .scu) && k.hand.any (fun h => h.rec_.parks e))

/-- Ends an instance as a fault; the slice manager receives the record (R360, R425). -/
def State.endFault (s : State) (n : Nat) (r : TrapRec) : State :=
  let s := s.modInst n (fun i => { i with status := .ending 2, fault := some r })
  { s with dev := { s.dev with msgs := s.dev.msgs ++ [.fault n r] } }

/-- A trap that ends the instance (R360): TRAPV is 0 or no point, or the SCU's own instruction traps in the handler. -/
def Core.fatal (k : Core) (r : TrapRec) : Bool :=
  decide (k.trapv = 0) || !isPoint k.trapv || (r.parks .scu && k.hand.isSome)

/-- An engine takes a trap of its own or of its channels: the record is its last; one that parks it ends its wait (R92, R358,
R379), and a group trap leaves nothing of the group's last try and stops the landing buffer in its cycle (R86, R362). -/
def Ctx.trapped (x : Ctx) (e : Engine) (r : TrapRec) : Ctx :=
  if !r.parks e then { x with lastRec := some (r, 0, false) }
  else if r.kind ≠ 0 then { x with lastRec := some (r, 0, false), wait := none }
  else
    { x with lastRec := some (r, 0, false), wait := none, stuck := false, target := none, reach := .idle, frozen := true }

/-- TAKING A TRAP (R358, R360 to R362): the record is made, the engine parks, and the trap pends for the SCU. -/
def State.takeTrap (s : State) (c : Nat) (r : TrapRec) : State :=
  let k := s.core c
  let k' := k.modCtx r.eng (fun x => x.trapped r.eng r)
  if k.fatal r then (s.setCore c k').endFault k.inst r
  else s.setCore c { k' with pend := insertTrap r k'.pend }

/-- The record of a group trap of the engine whose instruction runs (R361, R362). -/
def State.groupRec (s : State) (code : BitVec 8) (addr detail : W64) : TrapRec :=
  { code := code, eng := s.eng, chan := none, kind := 0, pt := s.ctx.pt, addr := addr, detail := detail, time := s.gtime,
    mpc := s.ctx.mpc, cyc := s.cycle, num := 0, entry := false }

/-- A group trap (R362 kind 0). -/
def State.groupTrap (s : State) (code : BitVec 8) (addr detail : W64) : State :=
  s.takeTrap s.focus (s.groupRec code addr detail)

/-- DETAIL of an encoding fault: the syllable and its index (R363). -/
def State.sylDetail (s : State) : W64 := s.syl.setWidth 64 ||| field s.idx 32

/-- ILL_FIELD at the group (R363). -/
def State.illField (s : State) : State := s.groupTrap 0x02 (ptLine s.ctx.pt) s.sylDetail

/-- Q_CLOSED at the group (R97, R363). -/
def State.qClosed (s : State) (q : BitVec 3) : State := s.groupTrap 0x21 0 (q.setWidth 64)

/-- Nothing but a hold or a stash bank keeps a group (R85, R159). -/
def onlyHeld (cs : List WaitCause) : Bool := cs.all (fun c => decide (c = .hold ∨ c = .bank))

/-- The wait of a group for one more cycle, for all its reasons (R90): a hold does not lengthen it (R85), and an FWAIT that
begins while the core's latest sample of the stall wire is asserted is held (R91 step 4). -/
def Wait.go (old : Option Wait) (cs : List WaitCause) (now : Nat) (asserted : Bool) : Wait :=
  let flag := decide (WaitCause.flag ∈ cs)
  match old with
  | none =>
    { causes := cs, since := now, last := now, len := if onlyHeld cs then 0 else 1, qlen := 0, stalled := false,
      held := asserted && flag, slack := 0 }
  | some w =>
    let fresh := onlyHeld w.causes
    { w with
      causes := cs
      since := if fresh then now else w.since
      last := now
      len := if onlyHeld cs ∨ w.last = now ∧ ¬ fresh then w.len else w.len + 1
      held := asserted && flag && (fresh || w.held) }

/-- The core's latest sample of its panel's stall wire (R91); a dynamic panel has no wire. -/
def State.asserted (s : State) (c : Nat) : Bool := (s.instOf c).static_ && (s.instOf c).asserted

/-- Notes reasons for which the group cannot issue (R90), or that it is held (R85). -/
def State.noteWait (s : State) (cs : List WaitCause) : State :=
  s.modCtx (fun x => { x with stuck := true, why := x.why ++ cs })

/-- Issues an instruction: where the gate lets it go its effect acts; otherwise the group traps, waits or is held. -/
def State.issue (s : State) (n : Needs) (effect : State → State) : Host.Outcome State Fault Refusal :=
  .next
    (match s.cur.gate s.eng n with
    | .go => effect s
    | .skip => s
    | .ill => s.illField
    | .closed q => s.qClosed q
    | .wait cs => s.noteWait cs
    | .hold => s.noteWait [.hold])

/-- The same for an effect that may end in a fault of the model. -/
def State.issueTo (s : State) (n : Needs) (effect : State → Host.Outcome State Fault Refusal) :
    Host.Outcome State Fault Refusal :=
  match s.cur.gate s.eng n with
  | .go => effect s
  | _ => s.issue n id

/-- Cores are grouped in granules of 8 × 8, four to a die (R15, R18). -/
def granuleOf (c : Nat) : Nat := 4 * (c / 256) + (c % 16) / 8 + 2 * ((c % 256) / 16 / 8)

/-- The slice that holds a core's granule; number 0 with no granules where none does (R16). -/
def State.sliceOfCore (s : State) (c : Nat) : Option Nat :=
  (s.slices.find? (fun (p : Nat × Slice) => p.2.granules.getLsbD (granuleOf c))).map (fun p => p.1)

/-! ## Results and operations -/

/-- Enters a fixed-latency result into the landing buffer (R84, R85). -/
def State.land (s : State) (lat : Nat) (eff : Effect) (flags : W64 := 0) : State :=
  s.modCtx (fun x => { x with land := x.land ++ [{ eff := eff, flags := flags, rem := lat, stamp := x.serial }] })

/-- A scalar result to a g-field: a register, or a reserved entry of a queue (R41, R85). -/
def State.toG (s : State) (d : GField) (lat : Nat) (v : W64) : State :=
  match d with
  | .r n => s.land lat (.g n v)
  | .pop q => (s.modCur (fun k => k.reserve q)).land lat (.push q s.cur.qserial (v.setWidth 2048))
  | .peek _ => s

/-- A scalar result to the register operand of a common major (R36). -/
def State.toRF (s : State) (d : RF) (lat : Nat) (v : W64) : State :=
  match d with
  | .g f => s.toG f lat v
  | .a n => s.land lat (.a n v)

end Sys2Proof.Machine

namespace Sys2Proof

/-- File of a g-field destination. -/
def GField.file : GField → Machine.RegFile
  | .r _ => .gpa
  | .pop _ => .free
  | .peek _ => .free

/-- File of a common major's destination. -/
def RF.file (e : Engine) : RF → Machine.RegFile
  | .g f => f.file
  | .a _ => if e = .scu then .gpa else .free

/-- File of a vector destination. -/
def VField.file : VField → Machine.RegFile
  | .r _ => .v
  | .pop _ => .free
  | .peek _ => .free

end Sys2Proof

namespace Sys2Proof.Machine

/-- A vector result with its guard and VFLAGS bits: the enabled bytes of a register, or a whole entry of a queue in which
disabled bytes are zero (R123, R124). -/
def State.toV (s : State) (d : VField) (lat : Nat) (v : Row) (m : BMask) (flags : W64) : State :=
  match d with
  | .r n => s.land lat (.v n v m) flags
  | .pop q =>
    (s.modCur (fun k => k.reserve q)).land lat
      (.push q s.cur.qserial ((s.cur.queue q).entry (mergeBytes 0 v m))) flags
  | .peek _ => s

/-- Charges a token (R87). -/
def Ctx.charge (x : Ctx) (t : Option (BitVec 3)) : Ctx :=
  match t with
  | none => x
  | some k => { x with tok := x.tok.set 0 k.toNat (x.token k + 1) }

/-- Releases a token at completion (R87). -/
def Ctx.release (x : Ctx) (t : Option (BitVec 3)) : Ctx :=
  match t with
  | none => x
  | some k => { x with tok := x.tok.set 0 k.toNat (x.token k - 1) }

/-- Enters an operation in issue order: its token is charged and, unless it is one of TLWAIT, TLRD and BWAIT, it takes the
next timeline number (R87, R202). `o` gives everything but the numbers, the point and the time. -/
def Ctx.enter (x : Ctx) (o : PendOp) (takes : Bool) (now : Nat) : Ctx :=
  { (x.charge o.tok) with
    ops := x.ops ++ [{ o with num := x.serial + 1, tnum := if takes then x.next else 0, pt := x.pt, issued := now }]
    serial := x.serial + 1
    next := if takes then x.next + 1 else x.next }

/-- An operation with nothing set but the instruction and its token. -/
def PendOp.of (i : Instr) (t : Option (BitVec 3)) : PendOp :=
  { num := 0, tnum := 0, instr := i, tok := t, ld := false, st := false, addr := 0, val := 0, val2 := 0, rows := [], mask := 0, stop := false,
    pkg := none, mpc := 0, part := 0, first := 0, qid := 0, pt := 0, issued := 0, status := .queued }

/-- Enters an operation of the engine whose instruction runs, with the stop bit of its syllable (R397, R399). -/
def State.enterOp (s : State) (o : PendOp) (takes : Bool := true) : State :=
  s.modCtx (fun x => x.enter { o with stop := s.syl.getLsbD 31 } takes s.cycle)

/-- The operation of a number. -/
def Ctx.op? (x : Ctx) (num : Nat) : Option PendOp := x.ops.find? (fun o => o.num = num)

/-- Changes an operation. -/
def Ctx.modOp (x : Ctx) (num : Nat) (f : PendOp → PendOp) : Ctx :=
  { x with ops := x.ops.map (fun o => if o.num = num then f o else o) }

/-- An operation completes: its token is released and it leaves the engine (R87, R203). -/
def Ctx.finish (x : Ctx) (num : Nat) : Ctx :=
  match x.op? num with
  | none => x
  | some o => { (x.release o.tok) with ops := x.ops.filter (fun p => p.num ≠ num) }

/-- An operation completes. -/
def State.finish (s : State) (c : Nat) (e : Engine) (num : Nat) : State :=
  s.modCore c (fun k => k.modCtx e (fun x => x.finish num))

/-- Changes an operation. -/
def State.modOp (s : State) (c : Nat) (e : Engine) (num : Nat) (f : PendOp → PendOp) : State :=
  s.modCore c (fun k => k.modCtx e (fun x => x.modOp num f))

/-- The timeline value T (R203): the largest n such that every numbered operation up to n has completed. -/
def Ctx.timeline (x : Ctx) : Nat :=
  x.ops.foldl (fun t o => if o.tnum = 0 then t else min t (o.tnum - 1)) (x.next - 1)

/-- What a scalar result of a variable-latency instruction writes (R84, R106): the register, or the entry it reserved. -/
def GField.eff (d : GField) (qid : Nat) (v : W64) : List Effect :=
  match d with
  | .r n => [.g n v]
  | .pop q => [.push q qid (v.setWidth 2048)]
  | .peek _ => []

/-- The same for the register operand of a common major. -/
def RF.eff (d : RF) (qid : Nat) (v : W64) : List Effect :=
  match d with
  | .g f => GField.eff f qid v
  | .a n => [.a n v]

/-- What an instruction writes that replaces only some bits of its operand register (R216). -/
def RF.bitsEff (d : RF) (v mask : W64) : List Effect :=
  match d with
  | .g (.r n) => [.gbits n v mask]
  | .g (.pop _) => []
  | .g (.peek _) => []
  | .a n => [.abits n v mask]

/-- What a vector result writes. -/
def Core.effV (k : Core) (d : VField) (qid : Nat) (v : Row) (m : BMask) : List Effect :=
  match d with
  | .r n => [.v n v m]
  | .pop q => [.push q qid ((k.queue q).entry (mergeBytes 0 v m))]
  | .peek _ => []

/-- An operation has performed, and its result goes to its destination, where it can land from cycle `due` on (R84, R85, R170): it
gives up its queue entries (R189) and completes when the result lands. -/
def Ctx.send (x : Ctx) (num : Nat) (effs : List Effect) (flags : W64) (due : Nat) : Ctx :=
  { x.modOp num (fun o => { o with status := .returning, ld := false, st := false }) with
    returns := x.returns ++ [{ num := num, last := true, effs := effs, flags := flags, due := due }] }

/-- The same of an engine of a core, with the cycles that the result is on its way. -/
def State.send (s : State) (c : Nat) (e : Engine) (num : Nat) (effs : List Effect) (flags : W64 := 0) (wait : Nat := 0) : State :=
  s.modCore c (fun k => k.modCtx e (fun x => x.send num effs flags (s.cycle + wait)))

/-- An operation of the SCU has performed: its scalar result goes to its destination (R84, R85, R170). -/
def State.landG (s : State) (c : Nat) (num : Nat) (d : GField) (qid : Nat) (v : W64) (wait : Nat := 0) : State :=
  s.send c .scu num (GField.eff d qid v) 0 wait

/-- An operation of the VE has performed: its vector result goes to its destination, with its flags (R126). -/
def State.landV (s : State) (c : Nat) (num : Nat) (d : VField) (qid : Nat) (v : Row) (m : BMask) (flags : W64 := 0)
    (wait : Nat := 0) : State :=
  s.send c .ve num ((s.core c).effV d qid v m) flags wait

/-- An instruction of the MX whose rows its own progress counts, beside the index of a repeat (R237, R243, R244, R246, R263). -/
def countsRows (i : Instr) : Bool :=
  match i with
  | .mlda _ _ _ _ | .mldb _ _ _ _ | .mldbt _ _ _ _ | .mldp _ _ _ _ _ | .mldu _ _ _ => true
  | .mrd _ _ _ | .mrdx _ _ _ | .meps _ _ _ _ _ => true
  | _ => false

/-- A trap met by an operation where it performs (R171, R362 kind 1): the operation keeps its entries and its charge. The record shows
the engine's MPC (R361). -/
def State.opTrap (s : State) (c : Nat) (e : Engine) (num : Nat) (code : BitVec 8) (addr detail : W64) : State :=
  match ((s.core c).ctx e).op? num with
  | none => s
  | some o =>
    (s.modOp c e num (fun o => { o with status := .trapped })).takeTrap c
      { code := code, eng := e, chan := none, kind := 1, pt := o.pt, addr := addr, detail := detail, time := s.gtime,
        mpc := if countsRows o.instr then o.mpc else ((s.core c).ctx e).mpc, cyc := s.cycle, num := num, entry := false }

/-! ## Handler entry and return -/

/-- A trap can be entered: one pends, the core is not in handler mode, and its instance runs (R359, R362). -/
def State.canEnterHandler (s : State) (c : Nat) : Bool :=
  let k := s.core c
  !k.pend.isEmpty && k.hand.isNone && decide ((s.instOf c).status = .running)

/-- A run state as a handler saves it: an SCU parked on a fetch fetches its group again (R359). -/
def RunState.refetched (x : RunState) : RunState :=
  match x with
  | .fetchParked _ _ _ => .running
  | .halted => .halted
  | .halting => .halting
  | .running => .running

/-- The landing buffer of an engine that issues no further group counts again when its trap or stop is over (R86, R120). -/
def Ctx.thaw (x : Ctx) : Ctx := { x with frozen := x.frozen && decide (x.run ≠ .halting ∧ x.run ≠ .halted) }

/-- A landing buffer one cycle on (R86). -/
def Ctx.countDown (x : Ctx) : Ctx := { x with land := x.land.map (fun l => { l with rem := l.rem - 1 }) }

/-- A record that is an engine's last takes the resume point and HALTED of its entry (R361, R379). -/
def Ctx.noteEntry (x : Ctx) (r : TrapRec) (resume : W64) (halted : Bool) : Ctx :=
  { x with lastRec := x.lastRec.map (fun l => if l.1 = r then (r, resume, halted) else l) }

/-- ENTERING THE HANDLER (R359): the oldest trap is taken up; the SCU's point, landing buffer, loop levels and run state are
saved; the first handler group issues at TRAPV four cycles after the boundary. The saved landing buffer has counted the cycle
of the entry where `counted` (R86). -/
def Core.enterHandler (k : Core) (counted : Bool) : Core :=
  match k.pend with
  | [] => k
  | r :: rest =>
    let halted := decide (k.scu.run = .halted)
    let x := if counted then k.scu.countDown else k.scu
    let k := k.modCtx r.eng (fun x => x.noteEntry r k.scu.pt halted)
    { k with
      pend := rest
      hand := some { pt := k.scu.pt, land := x.land, loops := k.loops, run := k.scu.run.refetched, rec_ := r }
      handled := some (r, k.scu.pt, halted)
      loops := []
      scu := { k.scu with
        pt := k.trapv, land := [], run := .running, bubble := 4, wait := none, frozen := false, lbuf := [], fresh := false
        stuck := false, target := none, reach := .idle } }

/-- Word k of a trap record (R361), with the point at which the SCU resumes, HALTED and PEND. -/
def TrapRec.word (r : TrapRec) (k : BitVec 3) (resume : W64) (halted : Bool) (pend : Nat) : W64 :=
  if k = 0 then
    field r.code 56 ||| field r.eng.code 54 ||| bit r.chan.isSome 53 ||| field (r.chan.getD 0) 50 ||| field r.kind 48 |||
      bit halted 47 ||| field (BitVec.ofNat 5 (min pend 31)) 40
  else if k = 1 then r.pt
  else if k = 2 then r.addr
  else if k = 3 then r.detail
  else if k = 4 then resume
  else if k = 5 then r.time
  else if k = 6 then r.mpc
  else 0

/-- FAULTINFO (R93, R361): word 0 of the record being handled or last handled. -/
def Core.faultinfo (k : Core) : W64 :=
  match k.handled with
  | none => 0
  | some (r, resume, halted) => r.word 0 resume halted k.pend.length

/-- Traps pending behind a record (R361). -/
def Core.behind (k : Core) (r : TrapRec) : Nat :=
  match k.pend.dropWhile (fun p => decide (p ≠ r)) with
  | [] => k.pend.length
  | _ :: rest => rest.length

/-- The word FAULTRD reads (R379). -/
def Core.faultWord (k : Core) (e : Engine) (n : BitVec 3) : W64 :=
  if e = .scu ∧ k.hand.isSome then
    match k.handled with
    | none => 0
    | some (r, resume, halted) => r.word n resume halted k.pend.length
  else
    match (k.ctx e).lastRec with
    | none => 0
    | some (r, resume, halted) => r.word n resume halted (k.behind r)

/-- Places a claimant among those that are older or, of equal age, come first (R159). -/
def insertAge {α : Type} (x : Nat × Nat × α) : List (Nat × Nat × α) → List (Nat × Nat × α)
  | [] => [x]
  | y :: r => if x.1 < y.1 ∨ x.1 = y.1 ∧ x.2.1 < y.2.1 then x :: y :: r else y :: insertAge x r

/-- Claimants, oldest first, those of equal age by their second key (R159, R331). -/
def byAge {α : Type} (l : List (Nat × Nat × α)) : List (Nat × Nat × α) := l.foldl (fun r x => insertAge x r) []

/-- RETURNING FROM THE HANDLER, the SCU's own part (R381): the saved state comes back and the interrupted stream issues its
first group four cycles after the ERET. -/
def Core.leaveHandler (k : Core) (h : Handler) : Core :=
  { k with
    hand := none
    loops := h.loops
    scu := { k.scu with
      pt := h.pt, land := h.land, bubble := 3, wait := none, lbuf := [], fresh := false, stuck := false, target := none
      reach := .idle, run := h.run, frozen := decide (h.run = .running) } }

end Sys2Proof.Machine
end

