-- ==== Sys2Proof/Machine/Float.lean ====
section
/-!
DEFINITION. Number formats and exact arithmetic (R57 to R71): decoding an element to an exact value, exact operations, and
the one rounding of R67 with its flags.
-/

namespace Sys2Proof.Machine

/-! ## Exact values -/

/-- An exact value: NaN, an infinity, or sign · num / den (zero keeps its sign). -/
inductive Num where
  | nan
  | inf (neg : Bool)
  | fin (neg : Bool) (num den : Nat)
  deriving DecidableEq, Repr

/-- Flag bits of VFLAGS (R70). -/
def fNX : W64 := 1
/-- Underflow. -/
def fUF : W64 := 2
/-- Overflow. -/
def fOF : W64 := 4
/-- Division by zero. -/
def fDZ : W64 := 8
/-- Invalid. -/
def fNV : W64 := 16
/-- A reserved T2 code was decoded. -/
def fTINV : W64 := 32
/-- An exact lane saturated. -/
def fXSAT : W64 := 64

/-- Rounding modes (R66). -/
inductive RMode where
  | rne | rtz | rup | rdn
  deriving DecidableEq, Repr

/-- The mode a code names (R66). -/
def RMode.ofCode (c : BitVec 2) : RMode := if c = 0 then .rne else if c = 1 then .rtz else if c = 2 then .rup else .rdn

/-- The code of a mode. -/
def RMode.code : RMode → BitVec 2
  | .rne => 0
  | .rtz => 1
  | .rup => 2
  | .rdn => 3

/-- VFLAGS.RM (R70). -/
def Core.rmode (k : Core) : RMode := .ofCode (slice k.vflags 8 2)

/-- A floating-point layout (R57, R58): exponent and mantissa bits, bias, the code of the largest finite value, the
canonical NaN, and whether infinities and NaNs exist. -/
structure FSpec where
  e : Nat
  m : Nat
  bias : Nat
  top : Nat
  nan : Option Nat
  inf : Option Nat
  deriving DecidableEq, Repr

/-- R58 and R59. -/
def fF32 : FSpec := { e := 8, m := 23, bias := 127, top := 0x7F7FFFFF, nan := some 0x7FC00000, inf := some 0x7F800000 }
/-- R58 and R59. -/
def fF16 : FSpec := { e := 5, m := 10, bias := 15, top := 0x7BFF, nan := some 0x7E00, inf := some 0x7C00 }
/-- R58 and R59. -/
def fBF16 : FSpec := { e := 8, m := 7, bias := 127, top := 0x7F7F, nan := some 0x7FC0, inf := some 0x7F80 }
/-- R58 and R59. -/
def fE5M2 : FSpec := { e := 5, m := 2, bias := 15, top := 0x7B, nan := some 0x7E, inf := some 0x7C }
/-- R58 and R59. -/
def fE4M3 : FSpec := { e := 4, m := 3, bias := 7, top := 0x7E, nan := some 0x7F, inf := none }
/-- R58 and R59. -/
def fE3M2 : FSpec := { e := 3, m := 2, bias := 3, top := 0x1F, nan := none, inf := none }
/-- R58 and R59. -/
def fE2M3 : FSpec := { e := 2, m := 3, bias := 1, top := 0x1F, nan := none, inf := none }
/-- R58 and R59. -/
def fE2M1 : FSpec := { e := 2, m := 1, bias := 1, top := 0x7, nan := none, inf := none }

/-- Width of an element. -/
def FSpec.width (f : FSpec) : Nat := 1 + f.e + f.m

/-- A value num · 2^p / den, with an integer exponent. -/
def scaled (neg : Bool) (num : Nat) (p : Int) : Num :=
  if 0 ≤ p then .fin neg (num * 2 ^ p.toNat) 1 else .fin neg num (2 ^ (-p).toNat)

/-- The exact value of an element (R57 to R60). -/
def FSpec.decode (f : FSpec) (code : Nat) : Num :=
  let neg := code.testBit (f.e + f.m)
  let mag := code % 2 ^ (f.e + f.m)
  let ex := mag / 2 ^ f.m
  let man := mag % 2 ^ f.m
  if mag ≤ f.top then
    if ex = 0 then scaled neg man (1 - (f.bias : Int) - f.m)
    else scaled neg (2 ^ f.m + man) ((ex : Int) - f.bias - f.m)
  else if f.inf = some mag then .inf neg
  else .nan

/-- floor(log2(num / den)) for positive num and den. -/
def floorLog2 (num den : Nat) : Int :=
  let g : Int := (num.log2 : Int) - den.log2
  -- num / den lies in (2^(g-1), 2^(g+1))
  let ge : Bool := if 0 ≤ g then den * 2 ^ g.toNat ≤ num else den ≤ num * 2 ^ (-g).toNat
  if ge then g else g - 1

/-- floor and the rest of num / den · 2^sh: (floor, 0 exact, 1 below half, 2 half, 3 above half). -/
def floorRest (num den : Nat) (sh : Int) : Nat × Nat :=
  let n := if 0 ≤ sh then num * 2 ^ sh.toNat else num
  let d := if 0 ≤ sh then den else den * 2 ^ (-sh).toNat
  let r := n % d
  (n / d, if r = 0 then 0 else if 2 * r < d then 1 else if 2 * r = d then 2 else 3)

/-- Whether a floor is raised by one (R67). -/
def roundUp (mode : RMode) (neg : Bool) (f rest : Nat) : Bool :=
  match mode with
  | .rne => rest = 3 || (rest = 2 && f % 2 = 1)
  | .rtz => false
  | .rup => !neg && rest ≠ 0
  | .rdn => neg && rest ≠ 0

/-- round(fmt, v, mode) for a floating-point format (R67), with the flags it raises. -/
def FSpec.round (f : FSpec) (v : Num) (mode : RMode) : Nat × W64 :=
  let sign (neg : Bool) : Nat := if neg then 2 ^ (f.e + f.m) else 0
  match v with
  | .nan =>
    match f.nan with
    | some c => (c, 0)
    | none => (0, fNV)
  | .inf neg =>
    match f.inf with
    | some c => (sign neg + c, 0)
    | none => (sign neg + f.top, fOF)
  | .fin neg num den =>
    if num = 0 then (sign neg, 0)
    else
      let emin : Int := 1 - f.bias
      let e := max (floorLog2 num den) emin
      let (fl, rest) := floorRest num den (f.m - e)
      let fl' := if roundUp mode neg fl rest then fl + 1 else fl
      let code := (e - emin).toNat * 2 ^ f.m + fl'
      let nx : W64 := if rest = 0 then 0 else fNX
      if code > f.top then
        let away : Bool :=
          match mode with
          | .rne => true
          | .rtz => false
          | .rup => !neg
          | .rdn => neg
        match f.inf with
        | some c => if away then (sign neg + c, fOF ||| fNX) else (sign neg + f.top, fOF ||| fNX)
        | none => (sign neg + f.top, fOF ||| fNX)
      else (sign neg + code, nx ||| (if rest ≠ 0 ∧ code < 2 ^ f.m then fUF else 0))

/-- round for an integer type with the range lo to hi (R67). -/
def roundInt (lo hi : Int) (v : Num) (mode : RMode) : Int × W64 :=
  match v with
  | .nan => (0, fNV)
  | .inf neg => (if neg then lo else hi, fOF)
  | .fin neg num den =>
    let (fl, rest) := floorRest num den 0
    let a : Nat := if roundUp mode neg fl rest then fl + 1 else fl
    let r : Int := if neg then -(a : Int) else a
    if r < lo then (lo, fOF ||| fNX)
    else if hi < r then (hi, fOF ||| fNX)
    else (r, if rest = 0 then 0 else fNX)

/-- round for E8M0 (R63). -/
def roundE8M0 (v : Num) (mode : RMode) : Nat × W64 :=
  match v with
  | .nan => (0xFF, 0)
  | .inf neg => if neg then (0xFF, fNV) else (0xFE, fOF)
  | .fin neg num den =>
    if num = 0 ∨ neg then (0xFF, fNV)
    else
      let e := floorLog2 num den
      if e < -127 then (0, fUF ||| fNX)
      else
        let (fl, rest) := floorRest num den (-e)
        let code := (e + 127).toNat + (if roundUp mode false fl rest then 1 else 0)
        if 0xFE < code then (0xFE, fOF ||| fNX) else (code, if rest = 0 then 0 else fNX)

/-! ## Exact operations -/

/-- Sign inverted. -/
def Num.neg : Num → Num
  | .nan => .nan
  | .inf s => .inf !s
  | .fin s n d => .fin (!s) n d

/-- a × b with the flag of an invalid product (R60). -/
def Num.mul (a b : Num) : Num × W64 :=
  match a, b with
  | .nan, _ => (.nan, 0)
  | _, .nan => (.nan, 0)
  | .inf s, .inf t => (.inf (s != t), 0)
  | .inf s, .fin t n _ => if n = 0 then (.nan, fNV) else (.inf (s != t), 0)
  | .fin s n _, .inf t => if n = 0 then (.nan, fNV) else (.inf (s != t), 0)
  | .fin s n d, .fin t m e => (.fin (s != t) (n * m) (d * e), 0)

/-- The sum of two finite values, with the sign of an exact zero (R69). -/
def addFin (mode : RMode) (s : Bool) (n d : Nat) (t : Bool) (m e : Nat) : Num :=
  if s = t then .fin s (n * e + m * d) (d * e)
  else if n * e = m * d then .fin (decide (mode = .rdn)) 0 1
  else if m * d < n * e then .fin s (n * e - m * d) (d * e)
  else .fin t (m * d - n * e) (d * e)

/-- a + b (R60, R69). -/
def Num.add (mode : RMode) (a b : Num) : Num × W64 :=
  match a, b with
  | .nan, _ => (.nan, 0)
  | _, .nan => (.nan, 0)
  | .inf s, .inf t => if s = t then (.inf s, 0) else (.nan, fNV)
  | .inf s, .fin _ _ _ => (.inf s, 0)
  | .fin _ _ _, .inf t => (.inf t, 0)
  | .fin s n d, .fin t m e => (addFin mode s n d t m e, 0)

/-- a × b + c before rounding (R67, R131): an invalid product sets NV whatever c holds. -/
def Num.fma (mode : RMode) (a b c : Num) : Num × W64 :=
  let (p, f) := a.mul b
  if f ≠ 0 then (.nan, f) else p.add mode c

/-- a / b (R60, R69). -/
def Num.div (a b : Num) : Num × W64 :=
  match a, b with
  | .nan, _ => (.nan, 0)
  | _, .nan => (.nan, 0)
  | .inf _, .inf _ => (.nan, fNV)
  | .inf s, .fin t _ _ => (.inf (s != t), 0)
  | .fin s _ _, .inf t => (.fin (s != t) 0 1, 0)
  | .fin s n d, .fin t m e =>
    if m = 0 then (if n = 0 then (.nan, fNV) else (.inf (s != t), fDZ))
    else (.fin (s != t) (n * e) (d * m), 0)

/-- floor of the square root, bit by bit from bit `b` down. -/
def isqrtFrom (n : Nat) : Nat → Nat → Nat
  | 0, r => if (r + 1) * (r + 1) ≤ n then r + 1 else r
  | b + 1, r => isqrtFrom n b (if (r + 2 ^ (b + 1)) * (r + 2 ^ (b + 1)) ≤ n then r + 2 ^ (b + 1) else r)

/-- floor of the square root. -/
def isqrt (n : Nat) : Nat := isqrtFrom n (n.log2 / 2) 0

/-- A value that rounds as √(num / den) does to any format of at most 40 significant bits: the root cut after enough bits,
with its last bit standing for what was cut. -/
def sqrtSticky (num den : Nat) : Num :=
  let k := 64 + den.log2
  let n := num * 2 ^ (2 * k)
  let r := isqrt (n / den)
  if n % den = 0 ∧ r * r = n / den then .fin false r (2 ^ k) else .fin false (2 * r + 1) (2 ^ (k + 1))

/-- √a (R132). -/
def Num.sqrt (a : Num) : Num × W64 :=
  match a with
  | .nan => (.nan, 0)
  | .inf s => if s then (.nan, fNV) else (.inf false, 0)
  | .fin s n d => if n = 0 then (.fin s 0 1, 0) else if s then (.nan, fNV) else (sqrtSticky n d, 0)

/-- 1/√a (R132): the reciprocal is taken before the root, which is exact. -/
def Num.rsqrt (a : Num) : Num × W64 :=
  match a with
  | .nan => (.nan, 0)
  | .inf s => if s then (.nan, fNV) else (.fin false 0 1, 0)
  | .fin s n d => if n = 0 then (.inf s, fDZ) else if s then (.nan, fNV) else (sqrtSticky d n, 0)

/-- 1/a (R132). -/
def Num.rcp (a : Num) : Num × W64 := Num.div (.fin false 1 1) a

/-- a < b of numbers that are not NaN; −0 equals +0 (R139). -/
def Num.lt (a b : Num) : Bool :=
  match a, b with
  | .nan, _ => false
  | _, .nan => false
  | .inf s, .inf t => s && !t
  | .inf s, .fin _ _ _ => s
  | .fin _ _ _, .inf t => !t
  | .fin s n d, .fin t m e =>
    if s then (if t then m * d < n * e else n ≠ 0 || m ≠ 0)
    else (if t then false else n * e < m * d)

/-- a = b, −0 equal to +0, NaN equal to nothing (R139). -/
def Num.eqv (a b : Num) : Bool :=
  match a, b with
  | .nan, _ => false
  | _, .nan => false
  | .inf s, .inf t => s = t
  | .inf _, .fin _ _ _ => false
  | .fin _ _ _, .inf _ => false
  | .fin s n d, .fin t m e => n * e = m * d && (s = t || n = 0)

/-- The sign of a number. -/
def Num.isNeg : Num → Bool
  | .nan => false
  | .inf s => s
  | .fin s _ _ => s

/-- minimumNumber, on the encodings: true picks the first operand (R131; −0 is less than +0). -/
def Num.minFirst (a b : Num) : Bool := a.lt b || (a.eqv b && a.isNeg)

/-! ## Transcendental functions (R132): enclosures in fixed point with 384 fraction bits (log 21) -/

/-- Fraction bits of the enclosures. -/
def encBits : Nat := 384

/-- Enclosure of Σ z^(2k+1)/(2k+1), the inverse hyperbolic tangent, from an enclosure of z ≤ 1/3: `n` terms from the k-th
on. -/
def atanhSum (z2lo z2hi : Nat) : Nat → Nat → Nat → Nat → Nat × Nat
  | 0, k, _, thi => (0, thi / k + thi + 1)
  | n + 1, k, tlo, thi =>
    let (lo, hi) := atanhSum z2lo z2hi n (k + 2) (tlo * z2lo / 2 ^ encBits) (thi * z2hi / 2 ^ encBits + 1)
    (tlo / k + lo, thi / k + 1 + hi)

/-- Enclosure of ln(num / den) for 1 ≤ num / den ≤ 2, scaled by 2^384. -/
def lnEnc (num den : Nat) : Nat × Nat :=
  let z := (num - den) * 2 ^ encBits / (num + den)
  let (lo, hi) := atanhSum (z * z / 2 ^ encBits) ((z + 1) * (z + 1) / 2 ^ encBits + 1) 130 1 z (z + 1)
  (2 * lo, 2 * hi)

/-- Enclosure of Σ x^k/k!: `n` terms from the k-th on. -/
def expSum (xlo xhi : Nat) : Nat → Nat → Nat → Nat → Nat × Nat
  | 0, _, _, thi => (0, 2 * thi + 1)
  | n + 1, k, tlo, thi =>
    let (lo, hi) := expSum xlo xhi n (k + 1) (tlo * xlo / 2 ^ encBits / k) (thi * xhi / 2 ^ encBits / k + 1)
    (tlo + lo, thi + hi)

/-- Rounds what lies strictly between two bounds when both round alike; otherwise the value is the configuration's. -/
def FSpec.roundBetween (f : FSpec) (lo hi : Num) (mode : RMode) (fn code : Nat) : Nat × W64 :=
  let (a, fa) := f.round lo mode
  let (b, fb) := f.round hi mode
  if a = b ∧ fa = fb then (a, fa) else (Config.transcendental fn f.width code mode.code % 2 ^ f.width, fNX)

/-- VEXP2 of an element (R132). -/
def FSpec.exp2 (f : FSpec) (code : Nat) (mode : RMode) : Nat × W64 :=
  match f.decode code with
  | .nan => f.round .nan mode
  | .inf s => if s then (0, 0) else f.round (.inf false) mode
  | .fin s n d =>
    -- a = whole + frac / d with 0 ≤ frac < d
    let whole : Int := if s then -((n / d : Nat) : Int) - (if n % d = 0 then 0 else 1) else ((n / d : Nat) : Int)
    let frac := if s then (if n % d = 0 then 0 else d - n % d) else n % d
    let whole := max (min whole 300) (-300)
    if frac = 0 then f.round (scaled false 1 whole) mode
    else
      let (l2lo, l2hi) := lnEnc 2 1
      let (lo, hi) := expSum (l2lo * frac / d) (l2hi * frac / d + 1) 90 1 (2 ^ encBits) (2 ^ encBits)
      f.roundBetween (scaled false lo (whole - encBits)) (scaled false hi (whole - encBits)) mode 0 code

/-- VLOG2 of an element (R132). -/
def FSpec.log2 (f : FSpec) (code : Nat) (mode : RMode) : Nat × W64 :=
  match f.decode code with
  | .nan => f.round .nan mode
  | .inf s => if s then ((f.round .nan mode).1, fNV) else f.round (.inf false) mode
  | .fin s n d =>
    if n = 0 then ((f.round (.inf true) mode).1, fDZ)
    else if s then ((f.round .nan mode).1, fNV)
    else
      let e := floorLog2 n d
      let num := if 0 ≤ e then n else n * 2 ^ (-e).toNat
      let den := if 0 ≤ e then d * 2 ^ e.toNat else d
      if num = den then f.round (if e = 0 then .fin false 0 1 else .fin (decide (e < 0)) e.natAbs 1) mode
      else
        let (lo, hi) := lnEnc num den
        let (l2lo, l2hi) := lnEnc 2 1
        let one : Nat := 2 ^ encBits
        let flo : Int := lo * one / l2hi
        let fhi : Int := hi * one / l2lo + 1
        let a := e * one + flo
        let b := e * one + fhi
        let val (x : Int) : Num := .fin (decide (x < 0)) x.natAbs one
        f.roundBetween (val a) (val b) mode 1 code

/-! ## Exact lanes (R77 to R80) -/

/-- A lane's sum as an integer. -/
def XLane.int (l : XLane) : Int := l.x.toInt

/-- x_sum: adds an exact integer and saturates (R78); the flag is XSAT. -/
def XLane.sum (l : XLane) (t : Int) : XLane × W64 :=
  let u := l.int + t
  if 2 ^ 447 - 1 < u then ({ l with x := BitVec.ofInt 448 (2 ^ 447 - 1), xsat := true }, fXSAT)
  else if u < -(2 ^ 447) then ({ l with x := BitVec.ofInt 448 (-(2 ^ 447)), xsat := true }, fXSAT)
  else ({ l with x := BitVec.ofInt 448 u }, 0)

/-- Sets the infinity bit of a sign (R78). -/
def XLane.setInf (l : XLane) (neg : Bool) : XLane := if neg then { l with ni := true } else { l with pi := true }

/-- A finite value times 2^k as an integer; exact where R78 says so. -/
def finTimes (neg : Bool) (num den : Nat) (k : Nat) : Int :=
  let a : Int := (num * 2 ^ k / den : Nat)
  if neg then -a else a

/-- x_add of an exact value (R78). -/
def XLane.add (l : XLane) (v : Num) : XLane × W64 :=
  match v with
  | .nan => ({ l with n := true }, 0)
  | .inf s => (l.setInf s, 0)
  | .fin s n d => l.sum (finTimes s n d 224)

/-- x_add_scaled of an exact element (R76) under a scale (R78). -/
def XLane.addScaled (l : XLane) (el : BitVec 128) (sc : Num) : XLane × W64 :=
  let a : Int := (slice el 0 96).toInt
  let pi := el.getLsbD 97
  let ni := el.getLsbD 98
  let asat := el.getLsbD 99
  let l := { l with n := l.n || el.getLsbD 96, xsat := l.xsat || asat }
  let f0 : W64 := if asat then fXSAT else 0
  match sc with
  | .nan => ({ l with n := true }, f0)
  | .inf s =>
    let l := if a = 0 ∧ !pi ∧ !ni then { l with n := true } else l
    let l := if 0 < a ∨ pi then l.setInf s else l
    let l := if a < 0 ∨ ni then l.setInf (!s) else l
    (l, f0)
  | .fin s n d =>
    let l := if n = 0 ∧ (pi ∨ ni) then { l with n := true } else l
    let l := if n ≠ 0 ∧ pi then l.setInf s else l
    let l := if n ≠ 0 ∧ ni then l.setInf (!s) else l
    let (l, f1) := l.sum (a * finTimes s n d 192)
    (l, f0 ||| f1)

/-- readout_x (R79). -/
def XLane.readout (l : XLane) (f : FSpec) (mode : RMode) : Nat × W64 :=
  if l.n ∨ (l.pi ∧ l.ni) then f.round .nan mode
  else if l.pi then f.round (.inf false) mode
  else if l.ni then f.round (.inf true) mode
  else if l.x = 0 then (0, 0)
  else f.round (.fin (decide (l.int < 0)) l.int.natAbs (2 ^ 224)) mode

/-- A lane's 64-byte image (R80). -/
def XLane.image (l : XLane) : BitVec 512 :=
  l.x.setWidth 512 ||| bit l.n 448 ||| bit l.pi 449 ||| bit l.ni 450 ||| bit l.xsat 451

/-- The lane an image holds; bits 511:452 are ignored (R80). -/
def XLane.ofImage (b : BitVec 512) : XLane :=
  { x := slice b 0 448, n := b.getLsbD 448, pi := b.getLsbD 449, ni := b.getLsbD 450, xsat := b.getLsbD 451 }

/-- Lane `j` of x register `r`. -/
def Core.xlane (k : Core) (r : BitVec 2) (j : Nat) : XLane := k.x.get XLane.init (64 * r.toNat + j)

/-- Replaces a lane. -/
def Core.setXlane (k : Core) (r : BitVec 2) (j : Nat) (l : XLane) : Core :=
  { k with x := k.x.set XLane.init (64 * r.toNat + j) l }

end Sys2Proof.Machine
end

