-- ==== Sys2Proof/Machine/Landing.lean ====
section
/-!
DEFINITION. What happens when results land and at the end of a cycle: landing-buffer effects (R84, R126, R128), flag
arithmetic (R99, R100) and the end-of-cycle part of MTS (R94, R98).
-/

namespace Sys2Proof.Machine

/-- F32 element `j` of a row. -/
def rowF32 (v : Row) (j : Nat) : Num := fF32.decode (slice v (32 * j) 32).toNat

/-- Lanes whose bit 4j is set in a guard (R123, R150). -/
def lanesOf (m : BMask) : List Nat := (List.range 64).filter (fun j => m.getLsbD (4 * j))

/-- Ors flag bits into VFLAGS as they land (R71). -/
def Core.raise (k : Core) (f : W64) : Core := { k with vflags := k.vflags ||| f, vlanded := k.vlanded ||| f }

/-- Changes lanes of an x register one after another, raising the flags each gives. -/
def Core.overLanes (k : Core) (r : BitVec 2) (f : Nat → XLane → XLane × W64) (js : List Nat) : Core :=
  js.foldl (fun k j => let (l, fl) := f j (k.xlane r j); (k.setXlane r j l).raise fl) k

/-- The scale of XSCA in a lane (R151). -/
def scaleOf (e8m0 : Bool) (sc : Row) (j : Nat) : Num :=
  if e8m0 then
    let c := (slice sc (32 * j) 8).toNat
    if c = 0xFF then .nan else scaled false 1 ((c : Int) - 127)
  else rowF32 sc j

/-- A result lands in engine `e`'s registers or in a queue (R84, R126, R128). -/
def Core.apply (k : Core) (e : Engine) (eff : Effect) : Core :=
  match eff with
  | .g n v => k.setG n v
  | .gbits n v mask => k.setG n ((k.gr n &&& ~~~mask) ||| (v &&& mask))
  | .abits n v mask => k.modCtx e (fun x => x.setA n ((x.ar n &&& ~~~mask) ||| (v &&& mask)))
  | .p n v => k.setP n v
  | .a n v => k.modCtx e (fun x => x.setA n v)
  | .push q id v => k.fill q id v
  | .v n val m => { k with v := k.v.set 0 n.toNat (mergeBytes (k.vr n) val m) }
  | .vbits n val mask => { k with v := k.v.set 0 n.toNat ((k.vr n &&& ~~~mask) ||| (val &&& mask)) }
  | .vp n val m => if n = 0 then k else { k with vp := k.vp.set 0 n.toNat ((k.vpr n &&& ~~~m) ||| (val &&& m)) }
  | .xclr x m => k.overLanes x (fun _ _ => (XLane.init, 0)) (lanesOf m)
  | .xacc x val m => k.overLanes x (fun j l => l.add (rowF32 val j)) (lanesOf m)
  | .xsca e8m0 x el sc m =>
    k.overLanes x (fun j l => l.addScaled (slice el (128 * (j % 16)) 128) (scaleOf e8m0 sc j)) (lanesOf m)
  | .xset x ls => ls.foldl (fun k p => k.setXlane x p.1 (XLane.ofImage p.2)) k

/-- Place in issue order of a result of fixed latency (R84): after the operations that its engine had entered. -/
def Landing.place (l : Landing) : Nat := 2 * l.stamp + 1

/-- Place in issue order of a result of variable latency. -/
def Return.place (r : Return) : Nat := 2 * r.num

/-- What a return writes, with its place. -/
def Return.writes (r : Return) : List (Nat × Effect) := r.effs.map (fun f => (r.place, f))

/-- The register of its file that an effect writes. -/
def Effect.reg : Effect → Nat
  | .g n _ => n.toNat
  | .gbits n _ _ => n.toNat
  | .abits n _ _ => 128 + n.toNat
  | .p n _ => 64 + n.toNat
  | .a n _ => 128 + n.toNat
  | .push _ id _ => id
  | .v n _ _ => n.toNat
  | .vbits n _ _ => n.toNat
  | .vp n _ _ => n.toNat
  | .xclr x _ => x.toNat
  | .xacc x _ _ => x.toNat
  | .xsca _ x _ _ _ => x.toNat
  | .xset x _ => x.toNat

/-- Write slots of a file that landings of one cycle take (R85, R126): one for each result of fixed latency, and one for each
register that a variable-latency instruction writes, however many lanes of a gather arrive together. -/
def slotsTaken (e : Engine) (f : RegFile) (l : List (Nat × Effect)) : Nat :=
  let mine := l.filter (fun p => decide (p.2.file e = f))
  (mine.filter (fun p => decide (p.1 % 2 = 1))).length +
    (((mine.filter (fun p => decide (p.1 % 2 = 0))).map (fun p => (p.1, p.2.reg))).eraseDups).length

/-- A return finds its write slots left free beside what lands already: four for each file in a cycle (R85, R126). -/
def Return.fits (e : Engine) (taken : List (Nat × Effect)) (r : Return) : Bool :=
  [RegFile.gpa, .v, .vp, .x].all (fun f =>
    r.effs.all (fun x => decide (x.file e ≠ f)) || decide (slotsTaken e f (taken ++ r.writes) ≤ 4))

/-- The returns that land in cycle `now` beside what lands already, oldest first, and those that wait in the L1 (R85) or have not
arrived (R159, R170). -/
def pickReturns (e : Engine) (now : Nat) (taken : List (Nat × Effect)) : List Return → List Return × List Return
  | [] => ([], [])
  | r :: rs =>
    if decide (r.due ≤ now) && r.fits e taken then
      let (go, stay) := pickReturns e now (taken ++ r.writes) rs
      (r :: go, stay)
    else
      let (go, stay) := pickReturns e now taken rs
      (go, r :: stay)

/-- Places a write behind those that come before it in issue order. -/
def insertWrite (p : Nat × Effect) : List (Nat × Effect) → List (Nat × Effect)
  | [] => [p]
  | q :: r => if p.1 < q.1 then p :: q :: r else q :: insertWrite p r

/-- Writes in issue order (R84). -/
def byPlace (l : List (Nat × Effect)) : List (Nat × Effect) := l.foldl (fun r p => insertWrite p r) []

/-- A write of a scalar register, which may be made again. -/
def Effect.scalar : Effect → Bool
  | .g _ _ | .gbits _ _ _ | .p _ _ | .a _ _ | .abits _ _ _ => true
  | .push _ _ _ | .v _ _ _ | .vbits _ _ _ | .vp _ _ _ | .xclr _ _ | .xacc _ _ _ | .xsca _ _ _ _ _ | .xset _ _ => false

/-- The entries of a landing buffer that land at the end of this cycle. -/
def Ctx.due (x : Ctx) : List Landing := x.land.filter (fun l => decide (l.rem ≤ 1))

/-- An engine that a trap of its own parks lands nothing (R358), from the cycle in which its landing buffer stands still (R86). -/
def Core.landsNothing (k : Core) (e : Engine) : Bool := (k.ctx e).frozen && k.parked e

/-- What an engine's results write at the end of cycle `now`: those due of its landing buffer where it counts, and the returns
that find write slots, unless the engine lands nothing (R358); with the returns, and those that wait (R84, R85). -/
def Core.landing (k : Core) (e : Engine) (counts : Bool) (now : Nat) : List Landing × List Return × List Return :=
  let x := k.ctx e
  let due := if counts then x.due else []
  if k.landsNothing e then (due, [], x.returns)
  else (due, pickReturns e now (x.landed ++ due.map (fun l => (l.place, l.eff))) x.returns)

/-- An engine's results land at the end of cycle `now`, in issue order, and the operations whose last result has landed
complete (R84, R85, R87). A scalar register takes the later in issue order also of what landed earlier in the cycle. -/
def Core.landDue (k : Core) (e : Engine) (counts : Bool) (now : Nat) : Core :=
  let x := k.ctx e
  let (due, go, stay) := k.landing e counts now
  let new := due.map (fun l => (l.place, l.eff)) ++ (go.map Return.writes).flatten
  let again := x.landed.filter (fun p => p.2.scalar && new.any (fun n => n.2.scalar && decide (n.2.reg = p.2.reg)))
  let k := k.modCtx e (fun x => { x with
    land := if counts then x.land.filter (fun l => !decide (l.rem ≤ 1)) else x.land
    returns := stay, landed := x.landed ++ new })
  let k := (byPlace (again ++ new)).foldl (fun k p => k.apply e p.2) k
  let k := (due.map (fun l => l.flags) ++ go.map (fun r => r.flags)).foldl Core.raise k
  go.foldl (fun k r => if r.last then k.modCtx e (fun x => x.finish r.num) else k) k

/-- A flag's value (R99). -/
def Core.flag (k : Core) (n : BitVec 4) : BitVec 16 := k.flags.get 0 n.toNat

/-- Sets a flag. -/
def Core.setFlag (k : Core) (n : BitVec 4) (v : BitVec 16) : Core := { k with flags := k.flags.set 0 n.toNat v }

/-- Adds to a flag: a sum above 65,535 gives 65,535 and sets its FOVF bit (R99). -/
def Core.addFlag (k : Core) (n : BitVec 4) (v : BitVec 16) : Core :=
  if (k.flag n).toNat + v.toNat ≤ 65535 then k.setFlag n (k.flag n + v)
  else { k.setFlag n 0xFFFF with fovf := k.fovf ||| bit true n.toNat }

/-- The value an FWAIT of this cycle is examined against: the flag at the start of the cycle, less the amounts of the FWAITs
already satisfied in it (R99). -/
def Core.flagLeft (k : Core) (n : BitVec 4) : Nat :=
  (k.flag n).toNat -
    k.late.foldl (fun t l => match l with
      | .fsub m v => if m = n then t + v.toNat else t
      | .mts _ _ _ => t
      | .fclr _ => t
      | .fadd _ _ => t
      | .qclose _ => t
      | .cbuf _ _ => t) 0

/-- QCFG as written by MTS: the queue is emptied and opened, and takes the new fields (R98). -/
def Queue.configure (v : W64) : Queue :=
  { row := v.getLsbD 10, en := v.getLsbD 9, prod := .ofCode (slice v 4 2), cons := .ofCode (slice v 0 2), closed := false,
    slots := [] }

/-- Places that FLAGS, STALLC and VFLAGS writes take among the happenings of a cycle: MTS first (R94), subtractions, FCLR,
additions, QCLOSE and CBUF (R100, R296), and queue configurations last (R98). -/
def Late.rank : Late → Nat
  | .mts _ r _ =>
    match r with
    | .qcfg _ => 4
    | _ => 0
  | .fsub _ _ => 1
  | .fclr _ => 2
  | .fadd _ _ => 3
  | .qclose _ => 3
  | .cbuf _ _ => 3

/-- A special register takes the value of an MTS at the end of the cycle, combined with what the hardware did to it in that
cycle (R70, R71, R94, R98, R238). -/
def Core.takeMts (k : Core) (r : SReg) (v : W64) : Core :=
  match r with
  | .stallc => { k with stallc := v }
  | .fovf => { k with fovf := v.setWidth 16 }
  | .trapv => { k with trapv := v }
  | .vflags => { k with vflags := (v &&& 0x37F#64) ||| k.vlanded }
  | .qcfg n => k.setQueue n (.configure v)
  | .unfd => { k with mxs := { k.mxs with unfd := v &&& 0x1FFFC0#64 } }
  | .seeds => { k with mxs := { k.mxs with seeds := v } }
  | .seedm => { k with mxs := { k.mxs with seedm := v } }
  | .gtime | .ptime | .mpc | .slackv | .tokst | .faultinfo | .stashst | .flagr _ | .lcnt _ | .leasest => k

/-- One late action takes effect. -/
def Core.doLate (k : Core) (l : Late) : Core :=
  match l with
  | .mts _ r v => k.takeMts r v
  | .fsub n v => k.setFlag n (k.flag n - v)
  | .fclr n => { k.setFlag n 0 with fovf := k.fovf &&& ~~~(bit true n.toNat) }
  | .fadd n v => k.addFlag n v
  | .qclose q => k.setQueue q { k.queue q with closed := true }
  | .cbuf set m => { k with inuse := if set then k.inuse ||| m else k.inuse &&& ~~~m }

/-- The late actions of a cycle take effect in the order of `Late.rank`, and within one rank in the order they were made. -/
def Core.doLates (k : Core) : Core :=
  let of (n : Nat) := k.late.filter (fun l => l.rank = n)
  { ((of 0 ++ of 1 ++ of 2 ++ of 3 ++ of 4).foldl Core.doLate k) with late := [], vlanded := 0 }

/-- Records an action for the end of the cycle. -/
def State.later (s : State) (c : Nat) (l : Late) : State := s.modCore c (fun k => { k with late := k.late ++ [l] })

/-- An engine that waits on a queue (R98): when its new configuration no longer connects the engine in the direction used,
the wait ends in Q_CLOSED; the queue is named. -/
def Core.cutOff (k : Core) (e : Engine) : Option (BitVec 3) :=
  (k.ctx e).wait.bind (fun w => w.causes.findSome? (fun c =>
    match c with
    | .pop q => if k.srcOk e (some (true, q)) then none else some q
    | .push q => if k.dstOk e (some q) then none else some q
    | .flag | .token | .fork | .join | .order | .hold | .bank => none))

end Sys2Proof.Machine
end

