-- ==== Sys2Proof/Machine/Memory.lean ====
section
/-!
DEFINITION. Storage: HBM with its key tags and poison, the dirty sectors above it, the stash directory, translation in two
stages with TLB and dirty marking, stash rows with claim, fill and write-back, page requests, and the scalar and row
accesses that every engine makes (R157 to R169, R364 to R376).
-/

namespace Sys2Proof.Machine

/-- A context's roots and slice (R364). -/
structure Space where
  slice : Nat
  s1root : W64
  s2root : W64
  deriving DecidableEq, Repr

/-- An access whose translation missed (R370, R372): its virtual address and class, the slice and stage-1 root that translate it, what
its record says of the walk, and the slice addresses that the walk went through. -/
structure Miss where
  va : Nat
  acc : Access
  slice : Nat
  s1root : W64
  stage2 : Bool
  cause : Nat
  level : Nat
  saddr : Nat
  table : Bool
  path : List Nat
  deriving DecidableEq, Repr

/-- What stops an access (R171): a walk that misses, which becomes a page request, a trap with its DETAIL, or a physical
address where the package has no memory. -/
inductive MemErr where
  | miss (stage2 : Bool) (cause level : Nat) (saddr : Nat) (table : Bool)
  /-- the same of an access -/
  | missAt (m : Miss)
  /-- the access waits: its die's miss-merge table is full (R370), or a stash bank that it needs is taken (R159) -/
  | later
  | trap (code : BitVec 8) (detail : W64)
  /-- a trap with a faulting address of its own: that of a translated line -/
  | trapAt (code : BitVec 8) (addr : W64) (detail : W64)
  | gone (pa : Nat)
  deriving DecidableEq, Repr

/-- The error of a translation of `va` for a class of access, whose walk went through `path`. -/
def MemErr.of (x : MemErr) (sp : Space) (va : Nat) (acc : Access) (path : List Nat) : MemErr :=
  match x with
  | .miss st ca lv sa tb =>
    .missAt { va := va, acc := acc, slice := sp.slice, s1root := sp.s1root, stage2 := st, cause := ca, level := lv, saddr := sa,
              table := tb, path := path }
  | .trap code d => .trapAt code (BitVec.ofNat 64 va) d
  | .missAt m => .missAt m
  | .later => .later
  | .trapAt code a d => .trapAt code a d
  | .gone pa => .gone pa

/-- ACC (R372). -/
def Access.code : Access → BitVec 3
  | .read => 0
  | .write => 1
  | .fetch => 2
  | .rw => 3
  | .fill _ => 4
  | .back => 1

/-- Who accesses: core, engine, channel, and the instance whose roots translate. -/
structure Who where
  core : Nat
  eng : Engine
  chan : Option (BitVec 3)
  deriving DecidableEq, Repr

/-- DETAIL of a denied access (R363). -/
def permDetail (acc : Access) (stage2 : Bool) : W64 := field acc.code 1 ||| bit stage2 4

/-! ## Sectors -/

/-- The die whose stacks hold a physical address, and the quadrant of its granule (R10, R386). -/
def homeDie (pa : Nat) : Nat := pa / 2 ^ 37

/-- The quadrant of a physical address's granule. -/
def homeQuadrant (pa : Nat) : Nat := pa / 2 ^ 35 % 4

/-- The stack that holds a physical address, whose memory-side agent serves it (R10, R12, R386). -/
def stackOf (pa : Nat) : Nat := 2 * homeDie pa + homeQuadrant pa / 2

/-- The channel of its stack on which a physical address lies (R10, R386). -/
def channelOf (pa : Nat) : Nat := 16 * (homeQuadrant pa % 2) + pa % 2 ^ 35 / 256 % 16

/-- The key tag of a sector: that of the latest scrub that covers it, else the device key 0 (R368). -/
def State.keyAt (s : State) (sec : Nat) : BitVec 7 :=
  match s.scrubs.find? (fun r => decide (r.1 ≤ sec) && decide (sec < r.1 + r.2.1)) with
  | some r => r.2.2
  | none => 0

/-- The stash that holds a physical line filled, as the directory records it: core and row (R163). -/
def State.holder (s : State) (line : Nat) : Option (Nat × Nat) :=
  s.cores.findSome? (fun ck => ck.2.rows.findSome? (fun qr =>
    if qr.2.filled ∧ qr.2.pa = line then some (ck.1, qr.1) else none))

/-- The 32 bytes HBM holds for a sector. -/
def State.hbmSector (s : State) (sec : Nat) : Sector :=
  (List.range 32).foldl (fun acc j => acc ||| (((Tbl.get s.hbm 0 (32 * sec + j)).setWidth 256) <<< (8 * j))) 0

/-- Writes the 32 bytes of a sector to HBM. -/
def State.setHbmSector (s : State) (sec : Nat) (v : Sector) (poison : Bool) : State :=
  { s with
    hbm := (List.range 32).foldl (fun m j => Tbl.set m 0 (32 * sec + j) (slice v (8 * j) 8)) s.hbm
    poison := s.poison.set false sec poison }

/-- A row of a core's stash. -/
def State.row (s : State) (c q : Nat) : StashRow := (s.core c).rows.get StashRow.init q

/-- Replaces a row. -/
def State.setRow (s : State) (c q : Nat) (r : StashRow) : State :=
  s.modCore c (fun k => { k with rows := k.rows.set StashRow.init q r })

/-- Lines of a core's L1 set that holds a physical line: 128 sets, by the low bits of the line's number (R167; log 13). -/
def Core.l1Set (k : Core) (line : Nat) : List L1Line := k.l1.get [] (line % 128)

/-- What a core's L1 holds of a line. -/
def Core.l1Line (k : Core) (line : Nat) : Option L1Line := (k.l1Set line).find? (fun x => decide (x.line = line))

/-- A core's L1 holds a sector: the error bit of its copy. -/
def Core.inL1 (k : Core) (sec : Nat) : Option Bool :=
  match k.l1Line (sec / 8) with
  | none => none
  | some x => if x.valid.getLsbD (sec % 8) then some (x.bad.getLsbD (sec % 8)) else none

/-- Key of the set of its home die's L2 in which a line is held: 24,576 sets of 16 lines (R168; log 13). -/
def l2Set (line : Nat) : Nat := 24576 * (line / 2 ^ 29) + line % 2 ^ 29 % 24576

/-- A line's copy in its home L2. -/
def State.l2Line (s : State) (line : Nat) : Option L2Line := (s.l2.get [] (l2Set line)).find? (fun x => decide (x.line = line))

/-- A sector as core `c` reads it through its L1, or (with none) as every agent sees it: in the stash that holds its line, else in
the caches, else in HBM; with its poison and where it was found (R163, R167, R376, DETAIL of POISON in R363). -/
def State.sectorFor (s : State) (c : Option Nat) (sec : Nat) : Sector × Bool × Nat :=
  match s.holder (sec / 8) with
  | some (c, q) =>
    let r := s.row c q
    (slice r.data (256 * (sec % 8)) 256, r.poison.getLsbD (sec % 8), 3)
  | none =>
    match s.dirty.get none sec with
    | some d => (d.data, d.poison, if d.l1 = 0 then 1 else 2)
    | none =>
      match c.bind (fun c => (s.core c).inL1 sec) with
      | some bad => (s.hbmSector sec, bad, 2)
      | none =>
        match s.l2Line (sec / 8) with
        | some x => (s.hbmSector sec, x.bad.getLsbD (sec % 8), 1)
        | none => (s.hbmSector sec, s.poison.get false sec, 0)

/-- A sector as every agent sees it that reads no L1. -/
def State.sector (s : State) (sec : Nat) : Sector × Bool × Nat := s.sectorFor none sec

/-- Places of claimants of equal age after the engines' own accesses (R159): rows of readouts, CE landings and reads, fills, write-backs, and accesses
that the directory sends. -/
def readoutRank : Nat := 3
def ceRank : Nat := 4
def fillRank : Nat := 5
def backRank : Nat := 6
def dirRank : Nat := 7

/-- Notes that the step under way claims stash banks: some sectors of a row, at a place among claimants of equal age (R159). -/
def State.useBanks (s : State) (c q : Nat) (m : BitVec 8) (rank : Nat) : State :=
  { s with claims := s.claims ++ ((List.range 8).filter (fun n => m.getLsbD n)).map (fun n => (c, 8 * (q % 4) + n, rank)) }

/-! ## The caches (R167 to R169) -/

/-- Takes sectors of a line out of a core's L1. -/
def Core.leaveL1 (k : Core) (line : Nat) (m : BitVec 8) : Core :=
  if (k.l1Line line).isNone then k
  else
    { k with l1 := k.l1.set [] (line % 128) (((k.l1Set line).map (fun x =>
        if x.line = line then { x with valid := x.valid &&& ~~~m, bad := x.bad &&& ~~~m } else x)).filter (fun x =>
          decide (x.valid ≠ 0))) }

/-- Takes sectors of a line out of every L1 but that of core `keep` - 1 (R163, R167). -/
def State.leaveL1s (s : State) (line : Nat) (m : BitVec 8) (keep : Nat) : State :=
  { s with cores := s.cores.foldl (fun (t : Tbl Core) (x : Nat × Core) =>
      if x.1 + 1 ≠ keep ∧ (x.2.l1Line line).isSome then t.set Core.init x.1 (x.2.leaveL1 line m) else t) s.cores }

/-- The lowest-lettered enabled range that governs a slice's access to an address (R168, R169). -/
def State.l2Range (s : State) (sl pa : Nat) : Option Nat :=
  let die := homeDie pa
  (List.range 8).find? (fun n =>
    let r := s.l2rng.get 0 (8 * die + n)
    r.getLsbD 0 && decide ((slice r 20 5).toNat = sl) && decide ((slice r 52 36).toNat ≤ pa / 2 ^ 16) &&
      decide (pa / 2 ^ 16 ≤ (slice r 88 36).toNat))

/-- Ways that the enabled ranges of a die reserve (R168). -/
def State.l2Reserved (s : State) (die : Nat) : BitVec 16 :=
  (List.range 8).foldl (fun a n =>
    let r := s.l2rng.get 0 (8 * die + n)
    if r.getLsbD 0 then a ||| slice r 36 16 else a) 0

/-- The class of a request that reaches the L2, as the ways in which a miss allocates, and the accumulator's step (R169). -/
def State.l2Class (s : State) (sl pa : Nat) : BitVec 16 × State :=
  let die := homeDie pa
  let normal := ~~~(s.l2Reserved die)
  match s.l2Range sl pa with
  | none => (normal, s)
  | some n =>
    let r := s.l2rng.get 0 (8 * die + n)
    let a := (s.l2acc.get 0 (8 * die + n)).toNat + (slice r 27 9).toNat
    (if 256 ≤ a then slice r 36 16 else normal,
      { s with l2acc := s.l2acc.set 0 (8 * die + n) (BitVec.ofNat 9 (if 256 ≤ a then a - 256 else a)) })

/-- The error bit of an L2's copy of a sector (R376). -/
def State.l2Mark (s : State) (sec : Nat) (bad : Bool) : State :=
  let b : BitVec 8 := bit true (sec % 8)
  if (s.l2Line (sec / 8)).isNone then s
  else
    { s with l2 := s.l2.set [] (l2Set (sec / 8)) ((s.l2.get [] (l2Set (sec / 8))).map (fun x =>
        if x.line = sec / 8 then { x with bad := (x.bad &&& ~~~b) ||| bit bad (sec % 8) } else x)) }

/-- A dirty sector above HBM is written to HBM; the copies that remain are clean (R167, R186). -/
def State.flushDirty (s : State) (sec : Nat) : State :=
  match s.dirty.get none sec with
  | none => s
  | some d => { (s.setHbmSector sec d.data d.poison).l2Mark sec d.poison with dirty := s.dirty.set none sec none }

/-- A line leaves its L2: its dirty sectors there go to HBM. -/
def State.leaveL2 (s : State) (line : Nat) : State :=
  let s := (List.range 8).foldl (fun (s : State) n =>
    if (s.dirty.get none (8 * line + n)).any (fun d => decide (d.l1 = 0)) then s.flushDirty (8 * line + n) else s) s
  { s with l2 := s.l2.set [] (l2Set line) ((s.l2.get [] (l2Set line)).filter (fun x => decide (x.line ≠ line))) }

/-- Puts a line that has just been used first in its L2 set, or last. -/
def State.l2Place (s : State) (x : L2Line) (last : Bool) : State :=
  let rest := (s.l2.get [] (l2Set x.line)).filter (fun y => decide (y.line ≠ x.line))
  { s with l2 := s.l2.set [] (l2Set x.line) (if last then rest ++ [x] else x :: rest) }

/-- Error bits of a line as HBM holds it. -/
def State.lineBad (s : State) (line : Nat) : BitVec 8 :=
  (List.range 8).foldl (fun a n => a ||| bit (s.poison.get false (8 * line + n)) n) 0

/-- A request of a slice reaches the home L2 of a line (R168, R169): it is classed; a hit is served where the line lies; a miss
allocates in the ways of its class, in a free one or in place of the least recently used line there (log 13). -/
def State.l2request (s : State) (sl pa : Nat) (last : Bool := false) : State :=
  let line := pa / 256
  let (ways, s) := s.l2Class sl pa
  match s.l2Line line with
  | some x => s.l2Place x last
  | none =>
    let ls := s.l2.get [] (l2Set line)
    let mine := (List.range 16).filter (fun w => ways.getLsbD w)
    match mine.find? (fun w => ls.all (fun x => decide (x.way ≠ w))) with
    | some w => s.l2Place { line := line, way := w, bad := s.lineBad line } last
    | none =>
      match (ls.filter (fun x => ways.getLsbD x.way)).getLast? with
      | none => s
      | some x => (s.leaveL2 x.line).l2Place { line := line, way := x.way, bad := s.lineBad line } last

/-- Lines that the caches no longer hold. -/
def State.forgetLines (s : State) (gone : Nat → Bool) : State :=
  { s with
    l2 := s.l2.filterMap (fun (x : Nat × List L2Line) =>
      let ls := x.2.filter (fun y => !gone y.line)
      if ls.isEmpty then none else some (x.1, ls))
    cores := s.cores.foldl (fun (t : Tbl Core) (c : Nat × Core) =>
      t.set Core.init c.1 { c.2 with l1 := c.2.l1.filterMap (fun (x : Nat × List L1Line) =>
        let ls := x.2.filter (fun y => !gone y.line)
        if ls.isEmpty then none else some (x.1, ls)) }) s.cores }

/-- A dirty sector goes to its home L2, and on to HBM where the L2 has no copy of its line. -/
def State.homeDirty (s : State) (sec : Nat) : State :=
  if (s.l2Line (sec / 8)).isNone then s.flushDirty sec
  else { s with dirty := s.dirty.set none sec ((s.dirty.get none sec).map (fun d => { d with l1 := 0 })) }

/-- A dirty sector of a core's L1 goes to the home L2 (R167). -/
def State.cleanL1 (s : State) (c sl sec : Nat) : State :=
  match s.dirty.get none sec with
  | none => s
  | some d =>
    if d.l1 = c + 1 then (s.l2request sl (32 * sec)).homeDirty sec else s

/-- A sector comes into a core's L1, its line as the most recently used of its set; the eleventh line of a set leaves, and its
dirty sectors go to the home L2 (R167). -/
def State.toL1 (s : State) (c sl sec : Nat) (bad : Bool) : State :=
  let k := s.core c
  let line := sec / 8
  let old := (k.l1Line line).getD { line := line, valid := 0, bad := 0 }
  let b : BitVec 8 := bit true (sec % 8)
  let x : L1Line := { line := line, valid := old.valid ||| b, bad := (old.bad &&& ~~~b) ||| bit bad (sec % 8) }
  let ls := x :: (k.l1Set line).filter (fun y => decide (y.line ≠ line))
  let s := s.setCore c { k with l1 := k.l1.set [] (line % 128) (ls.take 10) }
  match ls[10]? with
  | none => s
  | some y => (List.range 8).foldl (fun (s : State) n => s.cleanL1 c sl (8 * y.line + n)) s

/-- Sectors of a line leave every L1, dirty ones for the home L2: a stash comes to hold the line, or an atomic performs there (R163,
R180). -/
def State.unshare (s : State) (line : Nat) (m : BitVec 8) : State :=
  ((List.range 8).foldl (fun (s : State) n => if m.getLsbD n then s.homeDirty (8 * line + n) else s) s).leaveL1s line m 0

/-- The way of an access to global memory: through a core's L1, through it without allocating there (R178), or at the L2. -/
inductive Via where
  | l1 (c : Nat)
  | pass (c : Nat)
  | l2
  deriving DecidableEq, Repr

/-- The core whose L1 an access goes through. -/
def Via.core : Via → Option Nat
  | .l1 c => some c
  | .pass c => some c
  | .l2 => none

/-- An access to a sector that no stash holds goes through the caches (R167, R169); LDN's line comes last in its L2 set, also on a
hit (R178; log 29). -/
def State.bring (s : State) (via : Via) (sl pa : Nat) : State :=
  let sec := pa / 32
  match via with
  | .l2 => s.l2request sl pa
  | .pass c => if ((s.core c).inL1 sec).isSome then s else s.l2request sl pa true
  | .l1 c =>
    match (s.core c).inL1 sec with
    | some bad => s.toL1 c sl sec bad
    | none =>
      let s := s.l2request sl pa
      s.toL1 c sl sec (s.sector sec).2.1

/-- Bytes of a mask widened to bits of a sector. -/
def sectorMask (m : BitVec 32) : Sector :=
  (List.range 32).foldl (fun acc j => if m.getLsbD j then acc ||| (0xFF#256 <<< (8 * j)) else acc) 0

/-- Writes bytes of a stash row's sector: marked dirty when the row is bound; a whole-sector write is fresh, a partial write
of a poisoned sector stays poisoned (R163, R173, R376). -/
def StashRow.write (r : StashRow) (n : Nat) (v : Sector) (m : BitVec 32) : StashRow :=
  let old : Sector := slice r.data (256 * n) 256
  let new := (old &&& ~~~(sectorMask m)) ||| (v &&& sectorMask m)
  { r with
    data := (r.data &&& ~~~(((BitVec.allOnes 256).setWidth 2048) <<< (256 * n))) ||| ((new.setWidth 2048) <<< (256 * n))
    dirty := if r.bound then r.dirty ||| bit true n else r.dirty
    poison := if m = BitVec.allOnes 32 then r.poison &&& ~~~(bit true n) else r.poison }

/-- Writes bytes of a physical sector where it lives: in the stash that holds it, in the L1 of core `l1` - 1, in the home L2, or in
HBM where the L2 has no copy; every other L1's copy is removed first (R163, R167, R376). -/
def State.writeSector (s : State) (sec : Nat) (v : Sector) (m : BitVec 32) (l1 : Nat) : State :=
  if m = 0 then s
  else
    match s.holder (sec / 8) with
    | some (c, q) => s.setRow c q ((s.row c q).write (sec % 8) v m)
    | none =>
      let (old, poison, _) := s.sector sec
      let new := (old &&& ~~~(sectorMask m)) ||| (v &&& sectorMask m)
      let bad := poison && decide (m ≠ BitVec.allOnes 32)
      let s := s.leaveL1s (sec / 8) (bit true (sec % 8)) l1
      if l1 = 0 ∧ (s.l2Line (sec / 8)).isNone then
        { s.setHbmSector sec new bad with dirty := s.dirty.set none sec none }
      else { s with dirty := s.dirty.set none sec (some { data := new, poison := bad, l1 := l1 }) }

/-- `n` bytes at a physical address within one sector, little-endian. -/
def State.physRead (s : State) (pa n : Nat) : Nat := ((s.sector (pa / 32)).1.toNat / 2 ^ (8 * (pa % 32))) % 2 ^ (8 * n)

/-- Writes `n` bytes at a physical address within one sector. -/
def State.physWrite (s : State) (pa n : Nat) (v : Nat) (l1 : Nat) : State :=
  s.writeSector (pa / 32) (BitVec.ofNat 256 ((v % 2 ^ (8 * n)) * 2 ^ (8 * (pa % 32))))
    (BitVec.ofNat 32 ((2 ^ n - 1) * 2 ^ (pa % 32))) l1

/-- The management complex is told. -/
def State.tell (s : State) (m : MgmtEvent) : State := { s with dev := { s.dev with msgs := s.dev.msgs ++ [m] } }

/-- Writes `n` bytes for a slice at a physical address within one sector: a part of a poisoned sector is written and stays
poisoned, and the management complex logs it (R376). -/
def State.store (s : State) (sl pa n v l1 : Nat) : State :=
  (if n < 32 ∧ (s.sector (pa / 32)).2.1 then s.tell (.poisoned pa sl) else s).physWrite pa n v l1

/-- The package's memory (R10, R386). -/
def physExists (pa : Nat) : Bool := decide (pa < 2 ^ 40)

/-! ## Translation -/

/-- An 8-byte table entry under a key (R366): a poisoned sector traps POISON, another key KEY_CONFLICT. -/
def State.tableEntry (s : State) (pa : Nat) (key : BitVec 7) : Except MemErr W64 :=
  if !physExists pa then .error (.gone pa)
  else if s.keyAt (pa / 32) ≠ key then .error (.trap 0x12 (key.setWidth 64 ||| field (s.keyAt (pa / 32)) 8))
  else if (s.sector (pa / 32)).2.1 then .error (.trap 0x14 4)
  else .ok (BitVec.ofNat 64 (s.physRead pa 8))

/-- FORM of an entry (R365). -/
def entryForm (e : W64) : BitVec 2 := slice e 10 2

/-- OA of an entry, in place (R365). -/
def entryOA (e : W64) : Nat := (slice e 12 40).toNat * 4096

/-- log2 of the size a leaf maps at a level (R364). -/
def leafLog (level : Nat) (coarse : Bool) : Nat :=
  if level = 1 then 30 else if level = 2 then 21 else if coarse then 16 else 12

/-- A malformed entry of either stage at a level (R365). -/
def malformed (stage2 : Bool) (level : Nat) (coarse : Bool) (e : W64) : Bool :=
  let form := entryForm e
  if form = 1 ∨ form = 3 then
    (form = 1 && decide (3 ≤ level)) || (form = 3 && decide (level ≠ 2)) ||
      decide (slice e 0 10 ≠ 0) || (stage2 && decide (slice e 52 12 ≠ 0))
  else
    level = 0 || decide (entryOA e % 2 ^ leafLog level coarse ≠ 0) ||
      (if stage2 then decide (slice e 3 7 = 0) else decide (slice e 3 7 ≠ 0))

/-- Index of an address in a table (R364, R366). -/
def tableIndex (a level : Nat) (coarse : Bool) : Nat :=
  if coarse then (a / 2 ^ 16) % 32 else (a / 2 ^ (39 - 9 * level)) % 512

/-- Stage-2 permission for an access (R366). -/
def s2Allows (e : W64) (acc : Access) : Bool :=
  match acc with
  | .read => e.getLsbD 0
  | .write => e.getLsbD 1
  | .fetch => e.getLsbD 0
  | .rw => e.getLsbD 0 && e.getLsbD 1
  | .fill w => e.getLsbD 0 && (!w || e.getLsbD 1)
  | .back => e.getLsbD 1

/-- Stage-1 permission for an access (R366). -/
def s1Allows (e : W64) (acc : Access) : Bool :=
  match acc with
  | .read => e.getLsbD 0
  | .write => e.getLsbD 1
  | .fetch => e.getLsbD 2
  | .rw => e.getLsbD 0 && e.getLsbD 1
  | .fill w => e.getLsbD 0 && (!w || e.getLsbD 1)
  | .back => e.getLsbD 1

/-- log2 of the size that a table entry at a level translates (R364). -/
def entryLog (level : Nat) (coarse : Bool) : Nat := if coarse then 16 else 39 - 9 * level

/-- A table entry that a walk has met, as a walker's cache holds it, and the physical address it was read from; none where the cache
held it already (R370). -/
structure Seen where
  entry : WalkEntry
  read : Option Nat
  deriving DecidableEq, Repr

/-- What a walker works with (R370): its die's cache, and the slice and stage-1 root. -/
structure Walker where
  cache : List WalkEntry
  slice : Nat
  s1root : W64
  deriving DecidableEq, Repr

/-- The cached value of a table entry: of stage 2 by its physical address, of stage 1 by its slice address under a root (R370). -/
def Walker.find (w : Walker) (stage2 : Bool) (at_ : Nat) : Option W64 :=
  (w.cache.find? (fun x => decide (x.slice = w.slice) && decide (x.stage2 = stage2) && decide (x.addr = at_) &&
    (stage2 || decide (x.root = w.s1root)))).map (fun x => x.val)

/-- A table entry as a walker's cache keeps it: where it lies, its value, and the range of `a` that it translates at a level. -/
def Walker.seen (w : Walker) (stage2 : Bool) (at_ : Nat) (e : W64) (a level : Nat) (coarse : Bool) (read : Option Nat) : Seen :=
  { entry := { slice := w.slice, stage2 := stage2, root := if stage2 then 0 else w.s1root, addr := at_, val := e
               base := a / 2 ^ entryLog level coarse * 2 ^ entryLog level coarse, log := entryLog level coarse }
    read := read }

/-- What a stage-2 walk yields: the physical address, the leaf with its place, log2 of the size it maps, and the entries met. -/
structure S2 where
  pa : Nat
  leaf : W64
  leafPa : Nat
  log : Nat
  seen : List Seen
  deriving DecidableEq, Repr

/-- s2walk from a level on (R366); `none` is read as permission for every access. -/
def State.s2from (s : State) (w : Walker) (sa : Nat) (acc : Option Access) (table : Bool) :
    List Nat → Nat → Bool → Except MemErr S2
  | [], _, _ => .error (.miss true 2 3 sa table)
  | level :: rest, t, coarse =>
    let at_ := t + 8 * tableIndex sa level coarse
    let cached := w.find true at_
    match (cached.map Except.ok).getD (s.tableEntry at_ 0) with
    | .error x => .error x
    | .ok e =>
      let met := w.seen true at_ e sa level coarse (if cached.isSome then none else some at_)
      if entryForm e = 0 then .error (.miss true 1 level sa table)
      else if malformed true level coarse e then .error (.miss true 2 level sa table)
      else if entryForm e = 1 ∨ entryForm e = 3 then
        match State.s2from s w sa acc table rest (entryOA e) (entryForm e = 3) with
        | .error x => .error x
        | .ok p => .ok { p with seen := met :: p.seen }
      else if acc.any (fun a => !s2Allows e a) then
        .error (.trap 0x11 (permDetail (acc.getD .read) true))
      else
        .ok { pa := entryOA e + sa % 2 ^ leafLog level coarse, leaf := e, leafPa := at_, log := leafLog level coarse, seen := [met] }

/-- s2walk (R366). -/
def State.s2walk (s : State) (w : Walker) (root : W64) (sa : Nat) (acc : Option Access) (table : Bool) : Except MemErr S2 :=
  s.s2from w sa acc table [0, 1, 2, 3] root.toNat false

/-- A stage-1 table entry at a slice address (R366): from the walker's cache, or read through stage 2 under its leaf's key; with the
entries met. -/
def State.s1entry (s : State) (w : Walker) (s2root : W64) (at_ va level : Nat) (coarse : Bool) : Except MemErr (W64 × List Seen) :=
  match w.find false at_ with
  | some e => .ok (e, [w.seen false at_ e va level coarse none])
  | none =>
    match s.s2walk w s2root at_ (some .read) true with
    | .error x => .error x
    | .ok p =>
      match s.tableEntry p.pa (slice p.leaf 3 7) with
      | .error x => .error x
      | .ok e => .ok (e, p.seen ++ [w.seen false at_ e va level coarse (some p.pa)])

/-- What a stage-1 entry at a level is (R366): a miss, or it goes on. -/
def s1Miss (level : Nat) (coarse : Bool) (e : W64) : Option MemErr :=
  if entryForm e = 0 then some (.miss false 1 level 0 false)
  else if malformed false level coarse e then some (.miss false 2 level 0 false)
  else if slice e 48 4 ≠ 0#4 then some (.miss false 3 level 0 false)
  else none

/-- The slice address of an entry of a stage-1 table. -/
def s1At (t va level : Nat) (coarse : Bool) : Nat := (t + 8 * tableIndex va level coarse) % 2 ^ 48

/-- The stage-1 walk from a level on: the leaf, its level's log2 size, the slice addresses of the entries met, and these (R366). -/
def State.s1from (s : State) (w : Walker) (s2root : W64) (va : Nat) :
    List Nat → Nat → Bool → Except MemErr (W64 × Nat × List Nat × List Seen)
  | [], _, _ => .error (.miss false 2 3 0 false)
  | level :: rest, t, coarse =>
    let at_ := s1At t va level coarse
    match s.s1entry w s2root at_ va level coarse with
    | .error x => .error x
    | .ok (e, met) =>
      match s1Miss level coarse e with
      | some x => .error x
      | none =>
        if entryForm e = 1 ∨ entryForm e = 3 then
          match State.s1from s w s2root va rest (entryOA e) (entryForm e = 3) with
          | .error x => .error x
          | .ok (e, l, ps, seen) => .ok (e, l, at_ :: ps, met ++ seen)
        else .ok (e, leafLog level coarse, [at_], met)

/-- The slice addresses that a walk goes through until it ends or misses (R371): of stage-1 entries, and of the result. -/
def State.s1path (s : State) (w : Walker) (s2root : W64) (va : Nat) : List Nat → Nat → Bool → List Nat
  | [], _, _ => []
  | level :: rest, t, coarse =>
    let at_ := s1At t va level coarse
    match s.s1entry w s2root at_ va level coarse with
    | .error _ => [at_]
    | .ok (e, _) =>
      if (s1Miss level coarse e).isSome then [at_]
      else if entryForm e = 1 ∨ entryForm e = 3 then at_ :: State.s1path s w s2root va rest (entryOA e) (entryForm e = 3)
      else [at_, (entryOA e + va % 2 ^ leafLog level coarse) % 2 ^ 48]

/-- A translation: physical address, KEYID, meter region, the stage-2 leaf with its place and dirty state, and the slice
addresses it went through (R371). -/
structure Xlat where
  pa : Nat
  key : BitVec 7
  region : BitVec 12
  leafPa : Nat
  dirty : Bool
  path : List Nat
  seen : List Seen
  deriving DecidableEq, Repr

/-- translate (R366) by a walk, with the TLB entry it gives; a walker's cache serves the accesses of cores (R370). -/
def State.walk (s : State) (slice_ : Nat) (s1root s2root : W64) (va : Nat) (acc : Access) (cache : List WalkEntry := []) :
    Except MemErr (Xlat × TlbEntry) :=
  let w : Walker := { cache := cache, slice := slice_, s1root := s1root }
  match s.s1from w s2root va [0, 1, 2, 3] s1root.toNat false with
  | .error x => .error x
  | .ok (e, l1, ps, seen) =>
    if !s1Allows e acc then .error (.trap 0x11 (permDetail acc false))
    else
      let sa := (entryOA e + va % 2 ^ l1) % 2 ^ 48
      match s.s2walk w s2root sa (some acc) false with
      | .error x => .error x
      | .ok p =>
        let lg := min l1 p.log
        .ok ({ pa := p.pa, key := slice p.leaf 3 7, region := slice p.leaf 52 12, leafPa := p.leafPa,
               dirty := p.leaf.getLsbD 2, path := sa :: ps, seen := seen ++ p.seen },
             { slice := slice_, s1root := s1root, va := va / 2 ^ lg * 2 ^ lg, logsize := lg, pa := p.pa / 2 ^ lg * 2 ^ lg,
               r := e.getLsbD 0, w := e.getLsbD 1, x := e.getLsbD 2, r2 := p.leaf.getLsbD 0, w2 := p.leaf.getLsbD 1,
               key := slice p.leaf 3 7, region := slice p.leaf 52 12, dirty := p.leaf.getLsbD 2,
               path := sa / 2 ^ lg * 2 ^ lg :: ps })

/-- Permissions of a TLB entry as entry bits. -/
def TlbEntry.bits (t : TlbEntry) : W64 × W64 := (bit t.r 0 ||| bit t.w 1 ||| bit t.x 2, bit t.r2 0 ||| bit t.w2 1)

/-- Whether an access of a class writes. -/
def Access.writes : Access → Bool
  | .read => false
  | .write => true
  | .fetch => false
  | .rw => true
  | .fill _ => false
  | .back => true

/-- Sets D in a stage-2 leaf, an atomic update at its home that changes no other bit (R367), and in what the walkers hold of it; the
update of a slice's table is a request to the L2 (R169). -/
def State.markDirty (s : State) (sl leafPa : Nat) : State :=
  let s := s.l2request sl leafPa
  { s.physWrite leafPa 1 (s.physRead leafPa 1 ||| 4) 0 with
    walks := s.walks.map (fun (d : Nat × List WalkEntry) =>
      (d.1, d.2.map (fun x => if x.stage2 ∧ x.addr = leafPa then { x with val := x.val ||| 4 } else x))) }

/-- The address space of an instance. -/
def Inst.space (i : Inst) : Space := { slice := i.slice.toNat, s1root := i.s1root, s2root := i.s2root }

/-- The address space of the instance a core runs. -/
def State.space (s : State) (c : Nat) : Space := (s.instOf c).space

/-- A walker's cache after a walk (R370): the entries it met come first, of 256 (log 14). -/
def State.noteSeen (s : State) (die : Nat) (seen : List Seen) : State :=
  let new := (seen.map (fun x => x.entry)).eraseDups
  let at_ (x : WalkEntry) := (x.slice, x.stage2, x.root, x.addr)
  let old := (s.walks.get [] die).filter (fun x => !new.any (fun y => decide (at_ x = at_ y)))
  { s with walks := s.walks.set [] die ((new ++ old).take 256) }

/-- A walk's reads of table entries reach the L2s that hold them (R169). -/
def State.readTables (s : State) (sl : Nat) (seen : List Seen) : State :=
  (seen.filterMap (fun x => x.read)).foldl (fun s pa => s.l2request sl pa) s

/-- An entry of a die's miss-merge table (R370): a page request without its reply, which invalidation has not dropped. -/
def PageReq.merges (r : PageReq) (die : Nat) : Bool := decide (r.reply = none) && decide (r.die = die) && decide (r.page < 2 ^ 36)

/-- The entry that a miss on a die joins: of its slice, stage-1 root and page (R370). -/
def State.mergeEntry (s : State) (die slice_ : Nat) (s1root : W64) (va : Nat) : Option Nat :=
  (s.reqs.find? (fun (r : Nat × PageReq) => r.2.merges die && decide (r.2.slice = slice_) && decide (r.2.s1root = s1root) &&
    decide (r.2.page = va / 4096))).map (fun r => r.1)

/-- A die's miss-merge table is full (R370). -/
def State.mergeFull (s : State) (die : Nat) : Bool := decide (512 ≤ (s.reqs.filter (fun (r : Nat × PageReq) => r.2.merges die)).length)

/-- What a miss in the TLB meets before it walks (R370): the entry of its page, which it joins, or a full table. -/
def State.mergeStop (s : State) (die : Nat) (sp : Space) (va : Nat) (acc : Access) : Option MemErr :=
  if (s.mergeEntry die sp.slice sp.s1root va).isSome then some ((MemErr.miss false 0 0 0 false).of sp va acc [])
  else if s.mergeFull die then some .later
  else none

/-- Translates for a core through its TLB (R366, R367, R370): a miss on a page whose walk ended in a page request joins it; a first
write through an entry cached with D clear walks again; a write that will be performed (`mark`) sets D. -/
def State.translate (s : State) (c : Nat) (sp : Space) (va : Nat) (acc : Access) (mark : Bool) :
    Except MemErr (Xlat × State) :=
  let k := s.core c
  let hit := k.tlb.find? (fun t => decide (t.slice = sp.slice) && decide (t.s1root = sp.s1root) &&
    decide (t.va ≤ va) && decide (va < t.va + 2 ^ t.logsize) && (t.dirty || !mark))
  match hit with
  | some t =>
    if !s1Allows t.bits.1 acc then .error (.trapAt 0x11 (BitVec.ofNat 64 va) (permDetail acc false))
    else if !s2Allows t.bits.2 acc then .error (.trapAt 0x11 (BitVec.ofNat 64 va) (permDetail acc true))
    else .ok ({ pa := t.pa + (va - t.va), key := t.key, region := t.region, leafPa := 0, dirty := true,
                 path := (t.path.headD 0 + (va - t.va)) :: t.path.tail, seen := [] }, s)
  | none =>
    let die := c / 256
    match s.mergeStop die sp va acc with
    | some x => .error x
    | none =>
    let cache := s.walks.get [] die
    match s.walk sp.slice sp.s1root sp.s2root va acc cache with
    | .error x =>
      .error (x.of sp va acc
        (s.s1path { cache := cache, slice := sp.slice, s1root := sp.s1root } sp.s2root va [0, 1, 2, 3] sp.s1root.toNat false))
    | .ok (x, t) =>
      let s := (s.readTables sp.slice x.seen).noteSeen die x.seen
      let s := if mark && !x.dirty then s.markDirty sp.slice x.leafPa else s
      let t := { t with dirty := t.dirty || mark }
      let keep := (s.core c).tlb.filter (fun o =>
        !(decide (o.slice = t.slice) && decide (o.s1root = t.s1root) && decide (o.va = t.va)))
      .ok (x, s.modCore c (fun k => { k with tlb := (t :: keep).take 1024 }))

/-- Where a global access goes: its physical address, its meter region, and the stash row that holds its line. -/
structure Loc where
  pa : Nat
  key : BitVec 7
  region : BitVec 12
  held : Option (Nat × Nat)
  deriving DecidableEq, Repr

/-- Translates a global address, finds its line and brings it through the caches: the key is checked against the sector's tag or the row's (R163, R368),
and the region is the row's where a stash holds the line. -/
def State.locate (s : State) (c : Nat) (sp : Space) (va : Nat) (acc : Access) (mark : Bool) (via : Via := .l2) :
    Except MemErr (Loc × State) :=
  match s.translate c sp va acc mark with
  | .error x => .error x
  | .ok (x, s) =>
    if !physExists x.pa then .error (.gone x.pa)
    else
      let held := s.holder (x.pa / 256)
      let tag :=
        match held with
        | some (c', q) => (s.row c' q).key
        | none => s.keyAt (x.pa / 32)
      let region :=
        match held with
        | some (c', q) => (s.row c' q).region
        | none => x.region
      if tag ≠ x.key then .error (.trap 0x12 (x.key.setWidth 64 ||| field tag 8))
      else
        .ok ({ pa := x.pa, key := x.key, region := region, held := held },
          match held with
          | some (c', q) => s.useBanks c' q (bit true (x.pa / 32 % 8)) dirRank
          | none => s.bring via sp.slice x.pa)

/-- METER_READ's DETAIL: the region met and that of the accessing side (R363). -/
def meterDetail (met own : BitVec 12) : W64 := met.setWidth 64 ||| field own 16

/-! ## Stash rows -/

/-- A whole sector of a row is written to the home L2 of a line with its poison, under the directory that lets no L1 keep a copy of
a held line (R162, R163). -/
def State.putSector (s : State) (sl sec : Nat) (v : Sector) (poison : Bool) : State :=
  let s := (s.leaveL1s (sec / 8) (bit true (sec % 8)) 0).l2request sl (32 * sec)
  if (s.l2Line (sec / 8)).isNone then { s.setHbmSector sec v poison with dirty := s.dirty.set none sec none }
  else { s with dirty := s.dirty.set none sec (some { data := v, poison := poison, l1 := 0 }) }

/-- Writes back the dirty sectors of a row to a physical line for a slice (R162): each to the home L2, with its poison; the row
becomes clean. The write-back claims the banks of these sectors (R159). -/
def State.putBack (s : State) (c q : Nat) (sl line : Nat) : State :=
  let r := s.row c q
  let s := (List.range 8).foldl (fun s n =>
    if r.dirty.getLsbD n then s.putSector sl (8 * line + n) (slice r.data (256 * n) 256) (r.poison.getLsbD n) else s) s
  (s.setRow c q { r with dirty := 0 }).useBanks c q r.dirty backRank

/-- What stops the write-back of a row under a translation of its line (R368): the mapping's key is not that of the row's data, or
not that of the sectors written. -/
def State.backFault (s : State) (r : StashRow) (x : Xlat) : Option MemErr :=
  if !physExists x.pa then some (.gone x.pa)
  else
    ([r.key, s.keyAt (x.pa / 32)].find? (fun t => decide (t ≠ x.key))).map (fun t =>
      .trapAt 0x12 (BitVec.ofNat 64 (r.line.toNat * 256)) (x.key.setWidth 64 ||| field t 8))

/-- WRITE-BACK of a row (R162): the line is translated again with write permission, in the address space of the context that
holds the row; a clean row needs nothing. -/
def State.writeBack (s : State) (c q : Nat) : Except MemErr State :=
  let r := s.row c q
  if !r.bound || r.dirty = 0 then .ok s
  else
    let sp := (s.insts.get Inst.init r.owner).space
    match s.translate c sp (r.line.toNat * 256) .back true with
    | .error x => .error x
    | .ok (x, s) =>
      match s.backFault r x with
      | some e => .error e
      | none => .ok (s.putBack c q sp.slice (x.pa / 256))

/-- A context can still resume: its scratch rows are kept for it (R164, R400). -/
def InstState.resumes : InstState → Bool
  | .running => true
  | .stopping _ _ => true
  | .saved _ => true
  | .parkedOut _ => true
  | .moved _ _ => false
  | .ending _ => false
  | .ended => false

/-- CLAIM (R164): the first touch of a row held by another context writes back its dirty sectors, saves scratch contents for
the holder, and passes the row on unbound, zero-filled and untagged. -/
def State.claim (s : State) (c q : Nat) : Except MemErr State :=
  let r := s.row c q
  let me := (s.core c).inst
  if r.owner = me then .ok s
  else if r.owner = 0 then .ok (s.setRow c q { r with owner := me })
  else
    match s.writeBack c q with
    | .error x => .error x
    | .ok s =>
      let r := s.row c q
      let s :=
        if !r.bound && (s.insts.get Inst.init r.owner).status.resumes then
          let sv := s.saved.get Saved.init r.owner
          { s with saved := s.saved.set Saved.init r.owner { sv with rows := sv.rows ++ [(c, q, r)] } }
        else s
      .ok (s.setRow c q { StashRow.init with owner := me })

/-- FILL (R161) of a bound row that is not filled: from the home L2, another stash that holds the line writing back first;
or 256 zero bytes under the zero option, where such a stash does so too (log 29). -/
def State.fillRow (s : State) (c q : Nat) : Except MemErr State :=
  let r := s.row c q
  if !r.bound || r.filled then .ok s
  else
    match s.translate c (s.space c) (r.line.toNat * 256) (.fill (!r.ro)) false with
    | .error x => .error x
    | .ok (x, s) =>
      if !physExists x.pa then .error (.gone x.pa)
      else if x.key ≠ s.keyAt (x.pa / 32) then
        .error (.trapAt 0x12 (BitVec.ofNat 64 (r.line.toNat * 256)) (x.key.setWidth 64 ||| field (s.keyAt (x.pa / 32)) 8))
      else
        let line := x.pa / 256
        let moved : Except MemErr State :=
          match s.holder line with
          | none => .ok s
          | some (c', q') =>
            match s.writeBack c' q' with
            | .error x => .error x
            | .ok s => .ok (s.setRow c' q' { s.row c' q' with filled := false })
        match moved with
        | .error x => .error x
        | .ok s =>
          let r := s.row c q
          let s := (s.unshare line 0xFF).useBanks c q 0xFF fillRank
          if r.zero then
            if x.region ≠ 0 then .error (.trapAt 0x13 (BitVec.ofNat 64 (r.line.toNat * 256)) (meterDetail x.region 0))
            else
              .ok (s.setRow c q { r with data := 0, poison := 0, filled := true, dirty := 0, region := x.region, key := x.key,
                                         pa := line, path := x.path })
          else
            let s := s.l2request (s.space c).slice x.pa
            let sec (n : Nat) := s.sector (8 * line + n)
            let data : Row := (List.range 8).foldl (fun a n => a ||| (((sec n).1.setWidth 2048) <<< (256 * n))) 0
            let poison : BitVec 8 := (List.range 8).foldl (fun a n => a ||| bit (sec n).2.1 n) 0
            .ok (s.setRow c q { r with data := data, poison := poison, filled := true, dirty := 0, region := x.region,
                                       key := x.key, pa := line, path := x.path })

/-- The first access of any claimant to a row: claim, then fill (R161, R164). -/
def State.touch (s : State) (c q : Nat) : Except MemErr State :=
  match s.claim c q with
  | .error x => .error x
  | .ok s => s.fillRow c q

/-- Row of a stash address (R157). -/
def stashRow (a : W64) : Nat := (slice a 8 13).toNat

/-- The swizzled address (R174). -/
def swizzle (a : W64) : W64 := a ^^^ ((slice a 10 3).setWidth 64 <<< 5)

/-- A whole row with the swizzle: row byte j XOR (32 · q[4:2]) is register byte j (R174). -/
def swizzleRow (on : Bool) (q : Nat) (v : Row) : Row :=
  if !on then v
  else (List.range 8).foldl (fun a n =>
    a ||| (((slice v (256 * (n ^^^ (q / 4 % 8))) 256).setWidth 2048) <<< (256 * n))) 0

/-- A bound row that is read-only refuses a store (R171). -/
def roDenied (r : StashRow) (acc : Access) : Option MemErr :=
  if r.bound && r.ro && acc.writes then some (.trap 0x11 (permDetail acc false)) else none

/-- Touches a row for an SCU or VE access: a tagged row is METER_READ (R165), a read-only one refuses stores (R171). -/
def State.touchPlain (s : State) (c q : Nat) (acc : Access) : Except MemErr State :=
  match s.touch c q with
  | .error x => .error x
  | .ok s =>
    let r := s.row c q
    if r.region ≠ 0 then .error (.trap 0x13 (meterDetail r.region 0))
    else
      match roDenied r acc with
      | some x => .error x
      | none => .ok s

/-- A poisoned sector among those a mask of eight names (R376). -/
def poisonedIn (r : StashRow) (m : BitVec 8) : Bool := decide (r.poison &&& m ≠ 0)

/-- Sectors of a row in which a byte mask has a byte. -/
def sectorsOf (m : BMask) : BitVec 8 :=
  (List.range 8).foldl (fun a n => a ||| bit (decide (slice m (32 * n) 32 ≠ 0#32)) n) 0

/-- Reads `n` bytes (1, 2, 4, 8 or 16) at a stash address, address bits below the size ignored (R158). -/
def State.stashRead (s : State) (c : Nat) (a : W64) (n : Nat) : Except MemErr (Nat × State) :=
  let q := stashRow a
  let off := (slice a 0 8).toNat / n * n
  match s.touchPlain c q .read with
  | .error x => .error x
  | .ok s =>
    let r := s.row c q
    if r.poison.getLsbD (off / 32) then .error (.trap 0x14 3)
    else .ok (r.data.toNat / 2 ^ (8 * off) % 2 ^ (8 * n), s)

/-- Writes bytes of a row under a byte mask, every sector touched. -/
def StashRow.writeMask (r : StashRow) (v : Row) (m : BMask) : StashRow :=
  (List.range 8).foldl (fun r n =>
    if slice m (32 * n) 32 = 0#32 then r else r.write n (slice v (256 * n) 256) (slice m (32 * n) 32)) r

/-- A sector of a row that a byte mask writes in part while it is poisoned (R376). -/
def StashRow.mixes (r : StashRow) (m : BMask) : Option Nat :=
  (List.range 8).find? (fun n => r.poison.getLsbD n && decide (slice m (32 * n) 32 ≠ 0#32) &&
    decide (slice m (32 * n) 32 ≠ BitVec.allOnes 32))

/-- Writes bytes of a core's row under a byte mask: a part of a poisoned sector stays poisoned and is logged with its stash
address (R376). -/
def State.putRow (s : State) (c q : Nat) (v : Row) (m : BMask) : State :=
  let s := match (s.row c q).mixes m with
    | none => s
    | some n => s.tell (.poisoned (2 ^ 63 + 256 * q + 32 * n) (s.space c).slice)
  s.setRow c q ((s.row c q).writeMask v m)

/-- Writes `n` bytes at a stash address. -/
def State.stashWrite (s : State) (c : Nat) (a : W64) (n : Nat) (v : Nat) : Except MemErr State :=
  let q := stashRow a
  let off := (slice a 0 8).toNat / n * n
  match s.touchPlain c q .write with
  | .error x => .error x
  | .ok s =>
    .ok (s.putRow c q (BitVec.ofNat 2048 ((v % 2 ^ (8 * n)) * 2 ^ (8 * off))) (BitVec.ofNat 256 ((2 ^ n - 1) * 2 ^ off)))

/-- Checks of a global scalar address (R157, R158, R171): bits 62:48, then alignment. -/
def globalCheck (a : W64) (n : Nat) (acc : Access) : Option MemErr :=
  if slice a 48 15 ≠ 0#15 then some (.trap 0x11 (permDetail acc false))
  else if a.toNat % n ≠ 0 then some (.trap 0x10 (BitVec.ofNat 64 n.log2))
  else none

/-- Reads `n` aligned bytes at a global address, as the SCU or the VE (R157 to R171). -/
def State.globalRead (s : State) (c : Nat) (sp : Space) (a : W64) (n : Nat) (via : Via := .l1 c) : Except MemErr (Nat × State) :=
  match globalCheck a n .read with
  | some x => .error x
  | none =>
    match s.locate c sp (a.toNat % 2 ^ 48) .read false via with
    | .error x => .error x
    | .ok (l, t) =>
      let (_, poison, found) := s.sectorFor via.core (l.pa / 32)
      if l.region ≠ 0 then .error (.trap 0x13 (meterDetail l.region 0))
      else if poison then .error (.trap 0x14 (BitVec.ofNat 64 found))
      else .ok (t.physRead l.pa n, t)

/-- Locates a global store or atomic: a read-only row that holds the line refuses it, a tagged one is METER_READ. -/
def State.locateWrite (s : State) (c : Nat) (sp : Space) (a : W64) (n : Nat) (acc : Access) (via : Via) :
    Except MemErr (Loc × State) :=
  match globalCheck a n acc with
  | some x => .error x
  | none =>
    match s.locate c sp (a.toNat % 2 ^ 48) acc true via with
    | .error x => .error x
    | .ok (l, s) =>
      if l.region ≠ 0 then .error (.trap 0x13 (meterDetail l.region 0))
      else
        match l.held with
        | none => .ok (l, s)
        | some (c', q) =>
          match roDenied (s.row c' q) acc with
          | some x => .error x
          | none => .ok (l, s)

/-- Writes `n` aligned bytes at a global address through the core's L1. -/
def State.globalWrite (s : State) (c : Nat) (sp : Space) (a : W64) (n v : Nat) : Except MemErr State :=
  match s.locateWrite c sp a n .write (.l1 c) with
  | .error x => .error x
  | .ok (l, s) => .ok (s.store sp.slice l.pa n v (c + 1))

/-- A stash address (R157). -/
def isStash (a : W64) : Bool := a.getLsbD 63

/-- Reads `n` bytes at an address of either class (R157). -/
def State.read (s : State) (c : Nat) (a : W64) (n : Nat) (via : Via := .l1 c) : Except MemErr (Nat × State) :=
  if isStash a then s.stashRead c a n else s.globalRead c (s.space c) a n via

/-- Writes `n` bytes at an address of either class. -/
def State.write (s : State) (c : Nat) (a : W64) (n v : Nat) : Except MemErr State :=
  if isStash a then s.stashWrite c a n v else s.globalWrite c (s.space c) a n v

/-- A read-modify-write of `n` bytes at an address of either class (R180): the old value, and the new one given by `f`
where it gives one. A poisoned sector traps POISON and nothing is written (R376). -/
def State.readWrite (s : State) (c : Nat) (a : W64) (n : Nat) (f : Nat → Option Nat) : Except MemErr (Nat × State) :=
  if isStash a then
    match s.touchPlain c (stashRow a) .rw with
    | .error x => .error x
    | .ok s =>
      match s.stashRead c a n with
      | .error x => .error x
      | .ok (old, s) =>
        match f old with
        | none => .ok (old, s)
        | some v =>
          match s.stashWrite c a n v with
          | .error x => .error x
          | .ok s => .ok (old, s)
  else
    match s.locateWrite c (s.space c) a n .rw .l2 with
    | .error x => .error x
    | .ok (l, t) =>
      let (_, poison, found) := s.sector (l.pa / 32)
      if poison then .error (.trap 0x14 (BitVec.ofNat 64 found))
      else
        let t := if l.held.isSome then t else t.unshare (l.pa / 256) (bit true (l.pa / 32 % 8))
        let old := t.physRead l.pa n
        match f old with
        | none => .ok (old, t)
        | some v => .ok (old, t.physWrite l.pa n v 0)

/-! ## Stash banks (R159) -/

/-- A core's stash bank is free in a cycle. -/
def Core.bankFree (k : Core) (b now : Nat) : Bool := decide (k.banks.get 0 b ≤ now)

/-- A bank is taken for one cycle more, from `now` or from where it becomes free. -/
def Core.takeBank (k : Core) (b now : Nat) : Core := { k with banks := k.banks.set 0 b (max now (k.banks.get 0 b) + 1) }

/-- The banks that the step under way claims are all free. -/
def State.banksFree (s : State) : Bool := s.claims.all (fun b => (s.core b.1).bankFree b.2.1 s.cycle)

/-- The step under way takes the banks it claims. -/
def State.takeBanks (s : State) : State :=
  { s.claims.foldl (fun (s : State) b => s.modCore b.1 (fun k => k.takeBank b.2.1 s.cycle)) s with claims := [] }

/-- Place of an engine among claimants of equal age (R159). -/
def claimRank : Engine → Nat
  | .scu => 0
  | .ve => 1
  | .mx => 2
  | .ce => ceRank

/-- Place of a claimant's own access among those of equal age. -/
def Claimant.rank : Claimant → Nat
  | .op e _ => claimRank e
  | .chan _ => ceRank
  | .fetch _ => dirRank
  | .far _ _ => dirRank

/-- The place of a step among claimants of equal age: the last of the claims that it makes. -/
def rankOf (own : Nat) (claims : List (Nat × Nat × Nat)) : Nat := (claims.map (fun x => x.2.2)).foldl max own

/-- A claimant has been served or turned away in this cycle: its claim stands since a cycle. -/
def Core.noteClaim (k : Core) (w : Claimant) (since now : Nat) (claims : List (Nat × Nat × Nat) := []) : Core :=
  let old := (k.bankWaits.find? (fun x => decide (x.who = w))).map (fun x => x.since)
  { k with bankWaits := k.bankWaits.filter (fun x => decide (x.who ≠ w)) ++
      [{ who := w, rank := rankOf w.rank claims, fills := claims.any (fun x => decide (x.2.2 = fillRank ∨ x.2.2 = backRank))
         since := old.getD since, tried := now }] }

/-- A claimant has been turned away in this cycle. -/
def State.turnedAway (s : State) (c : Nat) (w : Claimant) : Bool :=
  (s.core c).bankWaits.any (fun x => decide (x.who = w) && decide (x.tried = s.cycle))

/-- What a step leads to that claims stash banks: `t` where they are free, and else nothing but that its claimant waits (R159). -/
def State.settle (s t : State) (c : Nat) (w : Claimant) : State :=
  if t.banksFree then t.takeBanks else s.modCore c (fun k => k.noteClaim w s.cycle s.cycle t.claims)

/-- The same of an answer. -/
def State.served (s : State) (c : Nat) (w : Claimant) (o : Host.Outcome State Fault Refusal) : Host.Outcome State Fault Refusal :=
  match o with
  | .next t => .next (s.settle t c w)
  | .fault f => .fault f
  | .refused r => .refused r

/-! ## Page requests -/

/-- The record of a page request (R372). -/
def State.pageRecord (s : State) (w : Who) (m : Miss) (seq : BitVec 32) : BitVec 256 :=
  field (BitVec.ofNat 48 m.va) 208 ||| field (BitVec.ofNat 48 (if m.stage2 then m.saddr else 0)) 160 ||| field seq 128 |||
    field (BitVec.ofNat 8 m.cause) 104 ||| field (BitVec.ofNat 2 m.level) 102 ||| bit m.stage2 101 ||| bit m.table 100 |||
    field m.acc.code 97 ||| field (BitVec.ofNat 11 w.core) 86 ||| field w.eng.code 84 ||| bit w.chan.isSome 83 |||
    field (w.chan.getD 0) 80 ||| field (BitVec.ofNat 5 m.slice) 64 ||| field s.gtime 0

/-- PAGE REQUEST (R370, R372 to R374): an access that missed joins an outstanding request of its die for the same page, or
makes a record, which waits in the device until its ring has room. Answers the request's number. -/
def State.pageRequest (s : State) (w : Who) (m : Miss) : State × Nat :=
  let die := w.core / 256
  match s.mergeEntry die m.slice m.s1root m.va with
  | some r => (s, r)
  | none =>
    let vf := (s.slices.get Slice.init m.slice).vf
    let b := s.prq.get PrqBlock.init vf.toNat
    let req : PageReq :=
      { vf := vf, seq := b.next, rec_ := s.pageRecord w m b.next, written := false, reply := none,
        die := die, slice := m.slice, s1root := m.s1root, page := m.va / 4096, path := m.path }
    ({ s with
        prq := s.prq.set PrqBlock.init vf.toNat { b with next := b.next + 1 }
        reqs := s.reqs.set PageReq.init s.nextReq req
        nextReq := s.nextReq + 1 }, s.nextReq)

end Sys2Proof.Machine
end

