-- ==== Sys2Proof/Machine/Operands.lean ====
section
/-!
DEFINITION. Operand forms: what each form needs in order to issue (R36 to R41, R96), effective addresses of Forms D and M
(R38, R174), and the two result shapes of the SCU (R84).
-/

namespace Sys2Proof

/-- The queue an index register of the SCU pops or peeks (R38). -/
def MemOpnd.qref (m : MemOpnd) : Option (Bool × BitVec 3) :=
  match m.mode with
  | .idx => (GField.ofCode m.field).qref
  | .idxShift => (GField.ofCode m.field).qref
  | .off => none
  | .swz => none

end Sys2Proof

namespace Sys2Proof.Machine

/-! ## Needs -/

/-- Needs of `OP gd, gs1, gs2` under a guard (R34, R101). -/
def Core.needs2 (k : Core) (d a b : GField) (g : Guard) (lat : Nat) : Needs :=
  { srcs := [a.qref, b.qref], dst := d.push, act := k.guardP g, lat := lat, file := d.file }

/-- Needs of an unguarded instruction with one source and a result of latency 1. -/
def needs1 (d a : GField) : Needs := { srcs := [a.qref], dst := d.push, lat := 1, file := d.file }

/-- Needs of a variable-latency instruction of the SCU with two sources (R37). -/
def needsTok (d a b : GField) (w : BitVec 3) : Needs := { srcs := [a.qref, b.qref], dst := d.push, tok := some w }

/-- Needs of a vector instruction of fixed latency (R123 to R126). -/
def needsV (d : VField) (srcs : List (Option (Bool × BitVec 3))) (lat : Nat) : Needs :=
  { srcs := srcs, dst := d.push, lat := lat, file := d.file }

/-! ## Effective addresses -/

/-- Term of the immediate modes: a signed field in units of the access size (R38). -/
def offsetTerm (field : BitVec 6) (size : Nat) : W64 := sextTimes field size

/-- Mode 0b11 of a scalar access: a stash address is swizzled, a global one never is (R174). -/
def swizzleAt (a : W64) : W64 := if isStash a then swizzle a else a

/-- Effective address of a Form D operand on the SCU, and the core after any pop of its index (R38, R174). -/
def Core.eaScu (k : Core) (m : MemOpnd) (size : Nat) : W64 × Core :=
  let base := k.scu.ar m.base
  match m.mode with
  | .off => (base + offsetTerm m.field size, k)
  | .idx => let (i, k) := k.readG (GField.ofCode m.field); (base + i, k)
  | .idxShift => let (i, k) := k.readG (GField.ofCode m.field); (base + i * BitVec.ofNat 64 size, k)
  | .swz => (swizzleAt (base + offsetTerm m.field size), k)

/-- The same on an engine that indexes with its own address registers; the swizzle of a row access is applied to the row
(R174), not to the address. -/
def Ctx.ea (x : Ctx) (m : MemOpnd) (size : Nat) : W64 :=
  let base := x.ar m.base
  match m.mode with
  | .off => base + offsetTerm m.field size
  | .idx => base + x.ar (m.field.setWidth 4)
  | .idxShift => base + x.ar (m.field.setWidth 4) * BitVec.ofNat 64 size
  | .swz => base + offsetTerm m.field size

/-! ## Result shapes -/

/-- Reads s1 and then s2, and sends `f s1 s2` to a g-field with a latency. -/
def State.result2 (s : State) (d a b : GField) (lat : Nat) (f : W64 → W64 → W64) : State :=
  let (x, k) := s.cur.readG a
  let (y, k) := k.readG b
  (s.setCore s.focus k).toG d lat (f x y)

/-- Reads s1 and sends `f s1` to a g-field with a latency. -/
def State.result1 (s : State) (d a : GField) (lat : Nat) (f : W64 → W64) : State :=
  let (x, k) := s.cur.readG a
  (s.setCore s.focus k).toG d lat (f x)

/-- An address register of the SCU written with latency 1 (R110). -/
def State.toA (s : State) (d : BitVec 4) (v : W64) : State := s.land 1 (.a d v)

/-- The same, in a queue's place: reserves the entry that a variable-latency push destination fills at completion (R96);
answers the entry's number. -/
def State.reserveG (s : State) (d : GField) : State × Nat :=
  match d with
  | .r _ => (s, 0)
  | .pop q => (s.modCur (fun k => k.reserve q), s.cur.qserial)
  | .peek _ => (s, 0)

/-- The same for the register operand of a common major. -/
def State.reserveRF (s : State) (d : RF) : State × Nat :=
  match d with
  | .g f => s.reserveG f
  | .a _ => (s, 0)

/-- The same for a vector destination. -/
def State.reserveV (s : State) (d : VField) : State × Nat :=
  match d with
  | .r _ => (s, 0)
  | .pop q => (s.modCur (fun k => k.reserve q), s.cur.qserial)
  | .peek _ => (s, 0)

end Sys2Proof.Machine
end

