-- ==== Sys2Proof/Machine/Flags.lean ====
section
/-!
DEFINITION. Conditions and flags: compares of the SCU and the VE (R36, R107, R139), the amount of FSET and FWAIT (R118), and
the readings of the special registers that show flags, tokens and queues (R93, R95).
-/

namespace Sys2Proof

/-- The outcome of an integer compare condition (R107, R139). -/
def Cond.holds {w : Nat} (c : Cond) (a b : BitVec w) : Bool :=
  match c with
  | .eq => a == b
  | .ne => a != b
  | .lt => a.slt b
  | .le => a.sle b
  | .ltn => a.ult b
  | .len => a.ule b

/-- The outcome of a floating-point compare with the flags it raises (R139): lt and le with a NaN operand set NV. -/
def FCond.holds (c : FCond) (a b : Machine.Num) : Bool × W64 :=
  let un := decide (a = .nan ∨ b = .nan)
  let nv : W64 := if un then Machine.fNV else 0
  match c with
  | .eq => (a.eqv b, 0)
  | .ne => (!a.eqv b, 0)
  | .lt => (a.lt b, nv)
  | .le => (a.lt b || a.eqv b, nv)
  | .un => (un, 0)
  | .ord => (!un, 0)

end Sys2Proof

namespace Sys2Proof.Machine

/-- The amount of FSET and FWAIT: min(imm10 + g[s1][15:0], 65535) (R118). -/
def flagAmount (v : W64) (i : BitVec 10) : BitVec 16 :=
  BitVec.ofNat 16 (min (i.toNat + (v.toNat % 65536)) 65535)

/-- TOKST (R93): the counts of w0 to w7. -/
def Ctx.tokst (x : Ctx) : W64 :=
  (List.range 8).foldl (fun acc k => acc ||| field (BitVec.ofNat 6 (x.token (BitVec.ofNat 3 k))) (6 * k)) 0

/-- FLAGRn (R93). -/
def Core.flagr (k : Core) (n : BitVec 2) : W64 :=
  (List.range 4).foldl (fun acc j => acc ||| field (k.flag (BitVec.ofNat 4 (4 * n.toNat + j))) (16 * j)) 0

/-- An engine waits on a queue (QCFG.WAIT, R95). -/
def Ctx.waitsOn (x : Ctx) (q : BitVec 3) : Bool :=
  x.wait.any (fun w => decide (.pop q ∈ w.causes ∨ .push q ∈ w.causes))

/-- The QCFGn image (R95). -/
def Core.qcfg (k : Core) (n : BitVec 3) : W64 :=
  let q := k.queue n
  bit (k.scu.waitsOn n || k.ve.waitsOn n || k.ce.waitsOn n || k.mx.waitsOn n) 16 ||| field (BitVec.ofNat 4 q.count) 12 |||
    bit q.closed 11 ||| bit q.row 10 ||| bit q.en 9 ||| field q.prod.code 4 ||| field q.cons.code 0

/-- LCNTk (R93). -/
def Core.lcnt (k : Core) (n : BitVec 2) : W64 :=
  let l := k.loops.get Loop.init n.toNat
  if l.active then l.rem else 0

end Sys2Proof.Machine
end

