-- ==== Sys2Proof/Machine/Lines.lean ====
section
/-!
DEFINITION. Code lines: the link word (R26), groups within a line (R29, R30), what follows a group (R27), the checks of a
point that a transfer names (R28, R30, R111), the instruction cache (R49) and the loop buffer (R52).
-/

namespace Sys2Proof.Machine

/-- A 64-byte code line (R25). -/
abbrev Line := BitVec 512

/-- Word k of a line: the link word is word 0 (R25). -/
def Line.word (l : Line) (k : Nat) : Syl := slice l (32 * k) 32

/-- The link word (R26). -/
def Line.link (l : Line) : Syl := Line.word l 0

/-- The owning engine (R26). -/
def Line.engine (l : Line) : Engine := .ofCode (slice (Line.link l) 30 2)

/-- END (R26). -/
def Line.ends (l : Line) : Bool := (Line.link l).getLsbD 29

/-- LB (R26). -/
def Line.loopBody (l : Line) : Bool := (Line.link l).getLsbD 28

/-- count (R26). -/
def Line.count (l : Line) : Nat := (slice (Line.link l) 24 4).toNat

/-- next, in bytes (R26, R27). -/
def Line.next (l : Line) : W64 := ((slice (Line.link l) 0 24).signExtend 64) * 64

/-- The syllables at which instructions start, from `y` to `count`; a 64-bit instruction takes two (R29). -/
def Line.starts (l : Line) : Nat → Nat → List Nat
  | 0, _ => []
  | fuel + 1, y =>
    if Line.count l < y then []
    else y :: Line.starts l fuel (if sylIsWide (Line.word l y) then y + 2 else y + 1)

/-- The instructions of a line. -/
def Line.instrs (l : Line) : List Nat := Line.starts l 15 1

/-- The last syllable of the instruction that starts at `y`. -/
def Line.lastOf (l : Line) (y : Nat) : Nat := if sylIsWide (Line.word l y) then y + 1 else y

/-- The members of the group that starts at `y`: up to and including the first whose stop bit is set (R30). -/
def Line.groupFrom (l : Line) : Nat → Nat → List Nat
  | 0, _ => []
  | fuel + 1, y =>
    if Line.count l < y then []
    else if sylStop (Line.word l y) then [y]
    else y :: Line.groupFrom l fuel (Line.lastOf l y + 1)

/-- The members of the group at syllable `y`. -/
def Line.group (l : Line) (y : Nat) : List Nat := Line.groupFrom l 15 y

/-- The last syllable of the group at `y` (R114). -/
def Line.groupEnd (l : Line) (y : Nat) : Nat :=
  match (Line.group l y).getLast? with
  | none => y
  | some m => Line.lastOf l m

/-- The fault of a syllable index that R30 does not admit as the start of a group: ILL_LINE (4) or ILL_GROUP (3). -/
def Line.startFault (l : Line) (y : Nat) : Option (BitVec 8) :=
  if y = 0 ∨ Line.count l < y ∨ y ∉ Line.instrs l then some 4
  else if y = 1 then none
  else
    match ((Line.instrs l).filter (fun m => m < y)).getLast? with
    | none => none
    | some m => if sylStop (Line.word l m) then none else some 3

/-- The group at a syllable breaks R28: the line has no syllable there, or the group does not end in the line, or its last
instruction is a 64-bit one of which the line holds the first syllable alone. -/
def Line.brokenAt (l : Line) (y : Nat) : Bool :=
  match (Line.group l y).getLast? with
  | none => true
  | some m => !sylStop (Line.word l m) || decide (Line.count l < Line.lastOf l m)

/-- The syllable that ILL_LINE names for a group that does not end in its line (R28, R35): the line's last. -/
def Line.badSyl (l : Line) : BitVec 4 := BitVec.ofNat 4 (Line.count l)

/-- What follows the group at a point of a line: the next group, or none where the stream ends (R27). -/
def Line.follow (l : Line) (p : W64) : Option W64 :=
  let z := Line.groupEnd l (ptSyl p).toNat + 1
  if z ≤ Line.count l then some (mkPt p (BitVec.ofNat 4 z))
  else if Line.ends l then none
  else some (mkPt (ptLine p + Line.next l) 1)

/-! ## The instruction cache -/

/-- Tag of a line in the instruction cache: slice and virtual address (R382). -/
def lineKey (slice_ : Nat) (line : W64) : Nat := 2 ^ 64 * slice_ + line.toNat

/-- A line held by a core's instruction cache. -/
def State.cached (s : State) (c : Nat) (line : W64) : Option Line :=
  (s.core c).icache.get none (lineKey (s.space c).slice (ptLine line))

/-- Lines that an instruction cache of 64 KiB holds (R49). -/
def icacheLines : Nat := 1024

/-- Brings a line into an instruction cache; where it is full, the line that came first leaves it (R49; log 29). -/
def Core.cacheLine (k : Core) (key : Nat) (l : Line) : Core :=
  let old := k.icorder.filter (fun x => decide (x ≠ key))
  let out := old.take (old.length + 1 - icacheLines)
  { k with
    icache := (out.foldl (fun (t : Tbl (Option Line)) x => t.set none x none) k.icache).set none key (some l)
    icorder := old.drop (old.length + 1 - icacheLines) ++ [key] }

/-- Keeps a line in the instruction cache. -/
def State.cache (s : State) (c : Nat) (line : W64) (l : Line) : State :=
  s.modCore c (fun k => k.cacheLine (lineKey (s.space c).slice (ptLine line)) l)

/-- The loop buffer after an engine reaches a line: it keeps a line with LB = 1, at most 16 of a body; at an LB = 1 line not
held that follows a line with LB = 0, or that a transfer reaches, a body begins anew (R52). -/
def Ctx.keepLine (x : Ctx) (addr : W64) (l : Line) : Ctx :=
  if !Line.loopBody l then { x with fresh := true }
  else if addr ∈ x.lbuf then { x with fresh := false }
  else if x.fresh then { x with lbuf := [addr], fresh := false }
  else if x.lbuf.length < 16 then { x with lbuf := x.lbuf ++ [addr] }
  else x

/-- A taken transfer (R52): no bubble to a line that the loop buffer holds, else two. -/
def Ctx.transferTo (x : Ctx) (p : W64) : Ctx :=
  if ptLine p ∈ x.lbuf then { x with pt := p, bubble := 0, target := none }
  else { x with pt := p, bubble := 2, target := none, fresh := true }

/-! ## Transfers -/

/-- DETAIL of ILL_LINE and ILL_LINK: the link word and the syllable index (R363). -/
def linkDetail (l : Line) (y : BitVec 4) : W64 := (Line.link l).setWidth 64 ||| field y 32

/-- The fault of a target that is no point (R111, R363). -/
def noPointFault (p : W64) : BitVec 8 × W64 × W64 := (4, p, field (ptSyl p) 32)

/-- What a taken transfer of engine `e` to a point meets (R35, R111): a fault with its address and DETAIL, or nothing. `none`
stands for a target line that is not in the instruction cache. -/
def State.pointFault (s : State) (c : Nat) (e : Engine) (p : W64) : Option (Option (BitVec 8 × W64 × W64)) :=
  match s.cached c p with
  | none => none
  | some l =>
    if Line.engine l ≠ e then some (some (5, ptLine p, linkDetail l (ptSyl p)))
    else if !isPoint p then some (some (noPointFault p))
    else
      match Line.startFault l (ptSyl p).toNat with
      | none => some none
      | some code =>
        some (some (code, ptLine p,
          if code = 3 then (Line.word l (ptSyl p).toNat).setWidth 64 ||| field (ptSyl p) 32 else linkDetail l (ptSyl p)))

/-- The line of a point cannot be fetched. -/
def Reach.bars (x : Reach) (p : W64) : Bool :=
  match x with
  | .barred q _ => decide (q = ptLine p)
  | .idle | .asked => false

/-- The group is held until the line of its transfer's target is fetched (log 25). -/
def State.askLine (s : State) (p : W64) : State :=
  (s.modCtx (fun x => { x with target := some p, reach := .asked })).noteWait [.hold]

/-- The group is held until a line that it needs for something else than a transfer is fetched (R114, R381). -/
def State.needLine (s : State) (p : W64) : State :=
  (s.modCtx (fun x => { x with target := some p, reach := .idle })).noteWait [.hold]

/-- A group trap with a fault's code, address and DETAIL. -/
def State.faultTrap (s : State) (f : BitVec 8 × W64 × W64) : State := s.groupTrap f.1 f.2.1 f.2.2

/-- What a taken transfer to a point meets once its line is in the instruction cache or cannot be fetched: a line that cannot be
fetched faults at the target, unless the target is no point (log 25). `none` stands for a line that must be fetched first. -/
def State.targetFault (s : State) (p : W64) : Option (Option (BitVec 8 × W64 × W64)) :=
  match s.pointFault s.focus s.eng p with
  | none => if s.ctx.reach.bars p then some (if isPoint p then none else some (noPointFault p)) else none
  | some f => some f

/-- Takes a transfer of the engine whose instruction runs: a faulty target traps at the transfer's own group (R111); a target
line that is not in the instruction cache is fetched first. -/
def State.transfer (s : State) (p : W64) : State :=
  match s.targetFault p with
  | none => s.askLine p
  | some (some f) => s.faultTrap f
  | some none => s.modCtx (fun x => { x with target := some p })

/-- The transfer is taken without fault: the condition of the completion statements. -/
def State.reaches (s : State) (p : W64) : Bool := decide (s.pointFault s.focus s.eng p = some none)

/-- The point a label names: this line plus 64·sext(ldisp), and the syllable (R111). -/
def State.labelPt (s : State) (l : BitVec 16) (y : BitVec 4) : W64 :=
  mkPt (ptLine s.ctx.pt + (l.signExtend 64) * 64) y

end Sys2Proof.Machine
end

