-- ==== Sys2Proof/Machine/Common.lean ====
section
/-!
DEFINITION. The majors every engine has, but for ordering and traps: sequencing (R88, R89, R120), special registers (R93,
R94, R119) and waits on and clearing of counting flags (R99, R118); FSET stands with the ordering class.
-/

namespace Sys2Proof.Machine

/-! ## Special registers -/

/-- A cluster. -/
def State.cluster (s : State) (cl : Nat) : Cluster := s.clusters.get Cluster.init cl

/-- A fill or a write-back of a stash row. -/
def Access.ofRow : Access → Bool
  | .fill _ | .back => true
  | .read | .write | .fetch | .rw => false

/-- An operation is parked on a fill or write-back: its own, or that of a gather lane at a stash address (R166, R177). -/
def PendOp.fills (o : PendOp) : Bool :=
  (match o.status with
    | .paging _ _ acc => acc.ofRow
    | .queued | .trapped | .departed | .busy _ | .returning => false) ||
    (match o.instr with
      | .vgath _ _ sh _ _ _ => (List.range 64).any (fun j =>
        let n : BitVec 32 := slice o.val2 (32 * j) 32
        decide (n ≠ 0) && decide (n ≠ 0xFFFFFFFF) &&
          isStash (o.addr + ((slice o.val (32 * j) 32 : BitVec 32).setWidth 64) * (if sh then 4 else 1)))
      | _ => false)

/-- A channel is parked on a fill or write-back. -/
def Channel.fills (x : Channel) : Bool :=
  match x.park with
  | .paging _ _ acc => acc.ofRow
  | .none_ | .trapped => false

/-- An engine's descriptor waits on a page request of a fill or write-back (R283). -/
def Ctx.fills (x : Ctx) : Bool :=
  match x.run with
  | .fetchParked _ _ acc => acc.ofRow
  | .halted | .halting | .running => false

/-- A core's fill or write-back is outstanding: one that waits on a page request, in an operation, a channel or a descriptor's read, or
that waits for stash banks (R166); others are one step. -/
def Core.fills (k : Core) : Bool :=
  engines.any (fun e => (k.ctx e).fills || (k.ctx e).ops.any PendOp.fills) || k.chans.any (fun x => x.2.fills) ||
    k.bankWaits.any (fun x => x.fills)

/-- STASHST (R166). -/
def State.stashst (s : State) (c : Nat) : W64 :=
  let k := s.core c
  let mine := k.rows.filter (fun r => decide (r.2.owner = k.inst) && r.2.bound)
  bit k.fills 63 |||
    field (BitVec.ofNat 14 (mine.filter (fun r => decide (r.2.dirty ≠ 0))).length) 32 |||
    field (BitVec.ofNat 14 (mine.filter (fun r => r.2.filled)).length) 16 ||| field (BitVec.ofNat 14 mine.length) 0

/-- A core has a request for its cluster's lease, standing or implicit (R223). -/
def State.requests (s : State) (c : Nat) : Bool := decide ((s.core c).mxs.standing ≠ 0) || (s.core c).mxs.implicit

/-- LEASEST (R224). -/
def State.leasest (s : State) (c : Nat) : W64 :=
  let cl := s.cluster (clusterOf c)
  let held := decide (cl.holder = some (BitVec.ofNat 2 (posOf c)))
  let m := (s.core c).mxs
  field (BitVec.ofNat 9 (if held then cl.rem else 0)) 32 ||| field (BitVec.ofNat 9 m.standing) 23 ||| bit m.implicit 16 |||
    (List.range 4).foldl (fun a p => a ||| bit (s.requests (coreAt (clusterOf c) p)) (12 + p)) 0 |||
    bit cl.holder.isSome 7 ||| field (cl.holder.getD 0) 4 ||| bit held 1

/-- The value of a special register as engine `e` of a core reads it (R93). -/
def State.sreg (s : State) (c : Nat) (e : Engine) (r : SReg) : W64 :=
  let k := s.core c
  match r with
  | .gtime => s.gtime
  | .ptime => s.gtime - (s.instOf c).freeze
  | .stallc => k.stallc
  | .mpc => (k.ctx e).mpc
  | .slackv => (k.ctx e).slack.setWidth 64
  | .tokst => (k.ctx e).tokst
  | .fovf => k.fovf.setWidth 64
  | .trapv => k.trapv
  | .faultinfo => k.faultinfo
  | .stashst => s.stashst c
  | .vflags => k.vflags
  | .qcfg n => k.qcfg n
  | .flagr n => k.flagr n
  | .lcnt n => k.lcnt n
  | .unfd => k.mxs.unfd
  | .seeds => k.mxs.seeds
  | .seedm => k.mxs.seedm
  | .leasest => s.leasest c

/-- A special register as an engine sees it that stood so before the cycle (R94, R117): as latched at its beginning where the engine's
group reads it, since engines that issue earlier in the cycle may change what it shows. -/
def State.sregBefore (s : State) (c : Nat) (e : Engine) (r : SReg) : W64 :=
  match (s.core c).latched.find? (fun p => decide (p.1 = e) && decide (p.2.1 = r)) with
  | some p => p.2.2
  | none => s.sreg c e r

/-- Needs of MFS (R94, R119). -/
def State.needsMfs (s : State) (d : RF) (g : Guard) : Needs :=
  { dst := d.push, act := s.cur.guardOn s.eng g, lat := 1, file := d.file s.eng }

/-- Effect of MFS: the register as it stood before the cycle goes to the destination with latency 1 (R94, R119). -/
def mfsEffect (d : RF) (r : SReg) (s : State) : State := s.toRF d 1 (s.sregBefore s.focus s.eng r)

/-- MFS (R119). -/
def execMfs (d : RF) (r : SReg) (g : Guard) (s : State) : Host.Outcome State Fault Refusal :=
  s.issue (s.needsMfs d g) (mfsEffect d r)

/-- Needs of MTS (R94, R119). -/
def State.needsMts (s : State) (a : RF) (g : Guard) : Needs := { srcs := [a.qref], act := s.cur.guardOn s.eng g }

/-- Effect of MTS: it acts for groups that issue in later cycles (R94). -/
def mtsEffect (r : SReg) (a : RF) (s : State) : State :=
  let (v, k) := s.cur.readRF s.eng a
  (s.setCore s.focus k).later s.focus (.mts s.eng r v)

/-- MTS (R119). -/
def execMts (r : SReg) (a : RF) (g : Guard) (s : State) : Host.Outcome State Fault Refusal :=
  s.issue (s.needsMts a g) (mtsEffect r a)

/-! ## Sequencing -/

/-- NOP has no effect (R120). -/
def execNop (s : State) : Host.Outcome State Fault Refusal := .next s

/-- Effect of HALT: the engine stops issuing (R120 step 1). -/
def haltEffect (s : State) : State := s.modCtx (fun x => { x with run := .halting })

/-- HALT (R120). -/
def execHalt (s : State) : Host.Outcome State Fault Refusal := s.issue {} haltEffect

/-- A masked token that is not yet zero (R88). -/
def Ctx.blocked (x : Ctx) (mask : BitVec 8) : Bool :=
  (List.range 8).any (fun k => mask.getLsbD k && decide (x.token (BitVec.ofNat 3 k) ≠ 0))

/-- Needs of WAITK: it holds its group until every token of its mask reads zero (R88). -/
def State.needsWaitk (s : State) (mask : BitVec 8) : Needs :=
  { cond := if s.ctx.blocked mask then some .token else none }

/-- WAITK (R88). -/
def execWaitk (mask : BitVec 8) (s : State) : Host.Outcome State Fault Refusal := s.issue (s.needsWaitk mask) id

/-- Effect of SLACK: the engine's slack becomes n (R89). -/
def slackEffect (n : BitVec 22) (s : State) : State := s.modCtx (fun x => { x with slack := n })

/-- SLACK (R89). -/
def execSlack (n : BitVec 22) (s : State) : Host.Outcome State Fault Refusal := s.issue {} (slackEffect n)

/-! ## Flags -/

/-- The group's FWAIT is held by the stall wire (R91 step 4). -/
def State.heldFwait (s : State) : Bool :=
  s.asserted s.focus &&
    (match s.ctx.wait with
      | none => true
      | some w => onlyHeld w.causes || w.held)

/-- Needs of FWAIT: the flag must reach n, unless n is 0 (R99, R118). -/
def State.needsFwait (s : State) (f : BitVec 4) (a : GField) (i : BitVec 10) : Needs :=
  let n := flagAmount (s.cur.readG a).1 i
  { srcs := [a.qref]
    cond := if n ≠ 0 ∧ (s.heldFwait ∨ s.cur.flagLeft f < n.toNat) then some .flag else none }

/-- Effect of a satisfied FWAIT: n is subtracted at the end of the cycle (R99). -/
def fwaitEffect (f : BitVec 4) (a : GField) (i : BitVec 10) (s : State) : State :=
  let (v, k) := s.cur.readG a
  (s.setCore s.focus k).later s.focus (.fsub f (flagAmount v i))

/-- FWAIT (R118). -/
def execFwait (f : BitVec 4) (a : GField) (i : BitVec 10) (s : State) : Host.Outcome State Fault Refusal :=
  s.issue (s.needsFwait f a i) (fwaitEffect f a i)

/-- FCLR (R118): the flag is cleared at the end of the cycle (R100). -/
def execFclr (f : BitVec 4) (s : State) : Host.Outcome State Fault Refusal :=
  s.issue {} (fun s => s.later s.focus (.fclr f))

end Sys2Proof.Machine
end

