-- ==== Sys2Proof/Machine/Scu.lean ====
section
/-!
DEFINITION. The SCU's own instructions but for memory: arithmetic (R101 to R109), address instructions (R110), transfers,
calls and loops (R111 to R116) and queue control (R117).
-/

namespace Sys2Proof.Machine

/-! ## Arithmetic -/

/-- A guarded two-source instruction of the SCU (R101, R105, R109). -/
def State.alu2 (s : State) (d a b : GField) (g : Guard) (lat : Nat) (f : W64 → W64 → W64) :
    Host.Outcome State Fault Refusal :=
  s.issue (s.cur.needs2 d a b g lat) (fun s => s.result2 d a b lat f)

/-- A guarded unary instruction (R102). -/
def State.alu1 (s : State) (d a : GField) (g : Guard) (f : W64 → W64) : Host.Outcome State Fault Refusal :=
  s.issue { needs1 d a with act := s.cur.guardP g } (fun s => s.result1 d a 1 f)

/-- An instruction with an immediate (R104). -/
def State.aluI (s : State) (d a : GField) (f : W64 → W64) : Host.Outcome State Fault Refusal :=
  s.issue (needs1 d a) (fun s => s.result1 d a 1 f)

/-- The shift amount of a register (R101): bits 5:0. -/
def shiftAmt (b : W64) : Nat := b.toNat % 64

/-- ADD (R101). -/
def execAdd (d a b : GField) (g : Guard) (s : State) : Host.Outcome State Fault Refusal :=
  s.alu2 d a b g 1 (fun a b => a + b)

/-- SUB (R101). -/
def execSub (d a b : GField) (g : Guard) (s : State) : Host.Outcome State Fault Refusal :=
  s.alu2 d a b g 1 (fun a b => a - b)

/-- AND (R101). -/
def execAnd (d a b : GField) (g : Guard) (s : State) : Host.Outcome State Fault Refusal :=
  s.alu2 d a b g 1 (fun a b => a &&& b)

/-- OR (R101). -/
def execOr (d a b : GField) (g : Guard) (s : State) : Host.Outcome State Fault Refusal :=
  s.alu2 d a b g 1 (fun a b => a ||| b)

/-- XOR (R101). -/
def execXor (d a b : GField) (g : Guard) (s : State) : Host.Outcome State Fault Refusal :=
  s.alu2 d a b g 1 (fun a b => a ^^^ b)

/-- ANDN (R101). -/
def execAndn (d a b : GField) (g : Guard) (s : State) : Host.Outcome State Fault Refusal :=
  s.alu2 d a b g 1 (fun a b => a &&& ~~~b)

/-- SHL (R101). -/
def execShl (d a b : GField) (g : Guard) (s : State) : Host.Outcome State Fault Refusal :=
  s.alu2 d a b g 1 (fun a b => a <<< shiftAmt b)

/-- SHR (R101). -/
def execShr (d a b : GField) (g : Guard) (s : State) : Host.Outcome State Fault Refusal :=
  s.alu2 d a b g 1 (fun a b => a >>> shiftAmt b)

/-- SRA (R101). -/
def execSra (d a b : GField) (g : Guard) (s : State) : Host.Outcome State Fault Refusal :=
  s.alu2 d a b g 1 (fun a b => a.sshiftRight (shiftAmt b))

/-- ROTL (R101). -/
def execRotl (d a b : GField) (g : Guard) (s : State) : Host.Outcome State Fault Refusal :=
  s.alu2 d a b g 1 (fun a b => a.rotateLeft (shiftAmt b))

/-- MIN (R101). -/
def execMin (d a b : GField) (g : Guard) (s : State) : Host.Outcome State Fault Refusal :=
  s.alu2 d a b g 1 (fun a b => if a.slt b then a else b)

/-- MAX (R101). -/
def execMax (d a b : GField) (g : Guard) (s : State) : Host.Outcome State Fault Refusal :=
  s.alu2 d a b g 1 (fun a b => if a.slt b then b else a)

/-- MINN (R101). -/
def execMinn (d a b : GField) (g : Guard) (s : State) : Host.Outcome State Fault Refusal :=
  s.alu2 d a b g 1 (fun a b => if a.ult b then a else b)

/-- MAXN (R101). -/
def execMaxn (d a b : GField) (g : Guard) (s : State) : Host.Outcome State Fault Refusal :=
  s.alu2 d a b g 1 (fun a b => if a.ult b then b else a)

/-- SEL (R103): not guarded; the predicate selects, and both sources are read. -/
def execSel (d a b : GField) (g : Guard) (s : State) : Host.Outcome State Fault Refusal :=
  s.alu2 d a b { p := 0, neg := false } 1 (fun a b => if s.cur.guardP g then a else b)

/-- Leading zeros of a word (R102): 64 for 0. -/
def clz64 (a : W64) : Nat := if a = 0 then 64 else 63 - a.toNat.log2

/-- Trailing zeros of a word (R102): 64 for 0. -/
def ctz64 (a : W64) : Nat := ((List.range 64).find? (fun k => a.getLsbD k)).getD 64

/-- One bits of a word (R102). -/
def popc64 (a : W64) : Nat := ((List.range 64).filter (fun k => a.getLsbD k)).length

/-- CLZ (R102). -/
def execClz (d a : GField) (g : Guard) (s : State) : Host.Outcome State Fault Refusal :=
  s.alu1 d a g (fun a => BitVec.ofNat 64 (clz64 a))

/-- CTZ (R102). -/
def execCtz (d a : GField) (g : Guard) (s : State) : Host.Outcome State Fault Refusal :=
  s.alu1 d a g (fun a => BitVec.ofNat 64 (ctz64 a))

/-- POPC (R102). -/
def execPopc (d a : GField) (g : Guard) (s : State) : Host.Outcome State Fault Refusal :=
  s.alu1 d a g (fun a => BitVec.ofNat 64 (popc64 a))

/-- ADDI (R104). -/
def execAddi (d a : GField) (i : BitVec 10) (s : State) : Host.Outcome State Fault Refusal :=
  s.aluI d a (fun a => a + i.signExtend 64)

/-- ANDI (R104). -/
def execAndi (d a : GField) (i : BitVec 10) (s : State) : Host.Outcome State Fault Refusal :=
  s.aluI d a (fun a => a &&& i.signExtend 64)

/-- ORI (R104). -/
def execOri (d a : GField) (i : BitVec 10) (s : State) : Host.Outcome State Fault Refusal :=
  s.aluI d a (fun a => a ||| i.signExtend 64)

/-- XORI (R104). -/
def execXori (d a : GField) (i : BitVec 10) (s : State) : Host.Outcome State Fault Refusal :=
  s.aluI d a (fun a => a ^^^ i.signExtend 64)

/-- SHLI (R104). -/
def execShli (d a : GField) (n : BitVec 6) (s : State) : Host.Outcome State Fault Refusal :=
  s.aluI d a (fun a => a <<< n.toNat)

/-- SHRI (R104). -/
def execShri (d a : GField) (n : BitVec 6) (s : State) : Host.Outcome State Fault Refusal :=
  s.aluI d a (fun a => a >>> n.toNat)

/-- SRAI (R104). -/
def execSrai (d a : GField) (n : BitVec 6) (s : State) : Host.Outcome State Fault Refusal :=
  s.aluI d a (fun a => a.sshiftRight n.toNat)

/-- MUL (R105). -/
def execMul (d a b : GField) (g : Guard) (s : State) : Host.Outcome State Fault Refusal :=
  s.alu2 d a b g 3 (fun a b => a * b)

/-- MULH (R105). -/
def execMulh (d a b : GField) (g : Guard) (s : State) : Host.Outcome State Fault Refusal :=
  s.alu2 d a b g 3 (fun a b => BitVec.ofInt 64 (a.toInt * b.toInt / 2 ^ 64))

/-- MULHN (R105). -/
def execMulhn (d a b : GField) (g : Guard) (s : State) : Host.Outcome State Fault Refusal :=
  s.alu2 d a b g 3 (fun a b => BitVec.ofNat 64 (a.toNat * b.toNat / 2 ^ 64))

/-! ## Division -/

/-- The quotient of DIV (R106). -/
def divW (a b : W64) : W64 :=
  if b = 0 then BitVec.allOnes 64 else BitVec.ofInt 64 (a.toInt.tdiv b.toInt)

/-- The quotient of DIVN (R106). -/
def divnW (a b : W64) : W64 := if b = 0 then BitVec.allOnes 64 else a / b

/-- The remainder of REM (R106): it takes the sign of the dividend. -/
def remW (a b : W64) : W64 := if b = 0 then a else BitVec.ofInt 64 (a.toInt.tmod b.toInt)

/-- The remainder of REMN (R106). -/
def remnW (a b : W64) : W64 := if b = 0 then a else a % b

/-- Effect of a division: the sources are read and the result is held for the completion (R84, R106). -/
def divideEffect (i : Instr) (d a b : GField) (w : BitVec 3) (f : W64 → W64 → W64) (s : State) : State :=
  let (x, k) := s.cur.readG a
  let (y, k) := k.readG b
  let (s, qid) := (s.setCore s.focus k).reserveG d
  s.enterOp { PendOp.of i (some w) with val := (f x y).setWidth 2048, qid := qid }

/-- DIV (R106). -/
def execDiv (d a b : GField) (w : BitVec 3) (s : State) : Host.Outcome State Fault Refusal :=
  s.issue (needsTok d a b w) (divideEffect (.div d a b w) d a b w divW)

/-- DIVN (R106). -/
def execDivn (d a b : GField) (w : BitVec 3) (s : State) : Host.Outcome State Fault Refusal :=
  s.issue (needsTok d a b w) (divideEffect (.divn d a b w) d a b w divnW)

/-- REM (R106). -/
def execRem (d a b : GField) (w : BitVec 3) (s : State) : Host.Outcome State Fault Refusal :=
  s.issue (needsTok d a b w) (divideEffect (.rem d a b w) d a b w remW)

/-- REMN (R106). -/
def execRemn (d a b : GField) (w : BitVec 3) (s : State) : Host.Outcome State Fault Refusal :=
  s.issue (needsTok d a b w) (divideEffect (.remn d a b w) d a b w remnW)

end Sys2Proof.Machine

namespace Sys2Proof

/-- The destination of a division; none for any other instruction (R106). -/
def Instr.divideDst (i : Instr) : Option GField :=
  match i with
  | .div d _ _ _ => some d
  | .divn d _ _ _ => some d
  | .rem d _ _ _ => some d
  | .remn d _ _ _ => some d
  | _ => none

end Sys2Proof

namespace Sys2Proof.Machine

/-- Fewest cycles from the issue of a division to its completion (R83; log 10). -/
def divideCycles : Nat := 8

/-- The division of a core that completes next: its oldest, once it has run (R83). -/
def State.divideDue (s : State) (c : Nat) : Option PendOp :=
  (s.core c).scu.ops.find? (fun o => o.instr.divideDst.isSome && decide (o.status = .queued) && decide (o.issued + divideCycles ≤ s.cycle + 1))

/-- Effect of the completion of a division: its result lands at the end of the cycle, and its token is released then (R84,
R106). -/
def divideCompleteEffect (core : Nat) (o : PendOp) (s : State) : State :=
  s.send core .scu o.num (GField.eff (o.instr.divideDst.getD (.r 0)) o.qid (o.val.setWidth 64))

/-- DIVIDE_COMPLETE (R106). -/
def execDivideComplete (core : Nat) (s : State) : Host.Outcome State Fault Refusal :=
  match s.divideDue core with
  | none => .next s
  | some o => .next (divideCompleteEffect core o s)

/-! ## Compares, moves and bit fields -/

/-- Effect of a compare: the predicate lands in the next cycle (R107). -/
def compareEffect (p : BitVec 3) (c : Cond) (a b : GField) (s : State) : State :=
  let (x, k) := s.cur.readG a
  let (y, k) := k.readG b
  (s.setCore s.focus k).land 1 (.p p (c.holds x y))

/-- CMP (R107). -/
def execCmp (p : BitVec 3) (c : Cond) (a b : GField) (g : Guard) (s : State) : Host.Outcome State Fault Refusal :=
  s.issue { srcs := [a.qref, b.qref], act := s.cur.guardP g, lat := 1, file := .gpa } (compareEffect p c a b)

/-- Effect of a compare with an immediate (R107). -/
def compareIEffect (p : BitVec 3) (c : Cond) (a : GField) (i : BitVec 10) (s : State) : State :=
  let (x, k) := s.cur.readG a
  (s.setCore s.focus k).land 1 (.p p (c.holds x (i.signExtend 64)))

/-- CMPI (R107). -/
def execCmpi (p : BitVec 3) (c : Cond) (a : GField) (i : BitVec 10) (s : State) : Host.Outcome State Fault Refusal :=
  s.issue { srcs := [a.qref], lat := 1, file := .gpa } (compareIEffect p c a i)

/-- MOVI (R108). -/
def execMovi (d : GField) (i : BitVec 16) (s : State) : Host.Outcome State Fault Refusal :=
  s.issue (needs1 d (.r 0)) (fun s => s.toG d 1 (i.signExtend 64))

/-- MOVK's value: halfword h replaced (R108). -/
def insertHalf (v : W64) (i : BitVec 16) (h : BitVec 2) : W64 :=
  (v &&& ~~~(field (0xFFFF#16) (16 * h.toNat))) ||| field i (16 * h.toNat)

/-- MOVK (R108). -/
def execMovk (d : GField) (i : BitVec 16) (h : BitVec 2) (s : State) : Host.Outcome State Fault Refusal :=
  s.issue (needs1 d (.r 0)) (fun s => s.result1 d d 1 (fun v => insertHalf v i h))

/-- LDI (R108). -/
def execLdi (d : GField) (i : BitVec 32) (s : State) : Host.Outcome State Fault Refusal :=
  s.issue (needs1 d (.r 0)) (fun s => s.toG d 1 (i.signExtend 64))

/-- Position and length of BEXT and BINS (R109). -/
def bitRange (b : W64) : Nat × Nat := (b.toNat % 64, min (slice b 8 7).toNat 64)

/-- BEXT's value (R109). -/
def extractBits (a b : W64) : W64 :=
  let (pos, len) := bitRange b
  BitVec.ofNat 64 (a.toNat / 2 ^ pos % 2 ^ len)

/-- BINS's value (R109): insertion beyond bit 63 is dropped. -/
def insertBits (old a b : W64) : W64 :=
  let (pos, len) := bitRange b
  let m : W64 := BitVec.ofNat 64 (2 ^ len - 1)
  (old &&& ~~~(m <<< pos)) ||| ((a &&& m) <<< pos)

/-- BEXT (R109). -/
def execBext (d a b : GField) (g : Guard) (s : State) : Host.Outcome State Fault Refusal :=
  s.alu2 d a b g 1 extractBits

/-- BINS (R109): it reads its destination as it stands at issue. -/
def execBins (d a b : GField) (g : Guard) (s : State) : Host.Outcome State Fault Refusal :=
  s.alu2 d a b g 1 (insertBits (s.cur.readG d).1)

/-! ## Address instructions -/

/-- AADD (R110). -/
def execAadd (d a : BitVec 4) (g : GField) (s : State) : Host.Outcome State Fault Refusal :=
  s.issue { srcs := [g.qref], lat := 1, file := .gpa }
    (fun s => let (v, k) := s.cur.readG g; (s.setCore s.focus k).toA d (k.scu.ar a + v))

/-- AADDI (R110). -/
def execAaddi (d a : BitVec 4) (i : BitVec 10) (s : State) : Host.Outcome State Fault Refusal :=
  s.issue { lat := 1, file := .gpa } (fun s => s.toA d (s.cur.scu.ar a + i.signExtend 64))

/-- AMOV (R110). -/
def execAmov (d : BitVec 4) (a : GField) (s : State) : Host.Outcome State Fault Refusal :=
  s.issue { srcs := [a.qref], lat := 1, file := .gpa }
    (fun s => let (v, k) := s.cur.readG a; (s.setCore s.focus k).toA d v)

/-- AGET (R110). -/
def execAget (d : GField) (a : BitVec 4) (s : State) : Host.Outcome State Fault Refusal :=
  s.issue (needs1 d (.r 0)) (fun s => s.toG d 1 (s.cur.scu.ar a))

/-- Panel width in cores: 2^LW (R17). -/
def Inst.width (i : Inst) : Nat := 2 ^ i.lw.toNat

/-- Panel height in cores. -/
def Inst.height (i : Inst) : Nat := 2 ^ i.lh.toNat

/-- A coordinate that AMESH names (R110). -/
def State.meshValue (s : State) (c : Nat) (sel : MeshSel) : W64 :=
  let i := s.instOf c
  let x := c % 16
  let y := c % 256 / 16
  let die := c / 256
  let px := x - i.ox.toNat
  let py := y - i.oy.toNat
  match sel with
  | .x => BitVec.ofNat 64 x
  | .y => BitVec.ofNat 64 y
  | .die => BitVec.ofNat 64 die
  | .px => BitVec.ofNat 64 px
  | .py => BitVec.ofNat 64 py
  | .pw => BitVec.ofNat 64 i.width
  | .ph => BitVec.ofNat 64 i.height
  | .pos => BitVec.ofNat 64 (posOf c)
  | .index => BitVec.ofNat 64 c
  | .packed =>
    field (BitVec.ofNat 4 x) 0 ||| field (BitVec.ofNat 4 y) 4 ||| field (BitVec.ofNat 3 die) 8 |||
      field (BitVec.ofNat 4 px) 12 ||| field (BitVec.ofNat 4 py) 16 ||| field (BitVec.ofNat 5 i.width) 20 |||
      field (BitVec.ofNat 5 i.height) 25
  | .dmask => i.dmask.setWidth 64

/-- AMESH (R110). -/
def execAmesh (d : GField) (sel : MeshSel) (s : State) : Host.Outcome State Fault Refusal :=
  s.issue (needs1 d (.r 0)) (fun s => s.toG d 1 (s.meshValue s.focus sel))

/-! ## Transfers and calls -/

/-- BR (R112): taken when its guard holds. -/
def execBr (l : BitVec 16) (y : BitVec 4) (g : Guard) (s : State) : Host.Outcome State Fault Refusal :=
  s.issue { act := s.cur.guardP g } (fun s => s.transfer (s.labelPt l y))

/-- JMP (R112). -/
def execJmp (l : BitVec 16) (y : BitVec 4) (s : State) : Host.Outcome State Fault Refusal :=
  s.issue {} (fun s => s.transfer (s.labelPt l y))

/-- The levels from 3 down to 0 after a group that ends at `p` completes without a taken transfer (R114): the start it goes
back to, and the loops. -/
def loopBack (loops : Tbl Loop) (p : W64) : List Nat → Option W64 × Tbl Loop
  | [] => (none, loops)
  | n :: r =>
    let l := loops.get Loop.init n
    if l.active ∧ l.stop = p then
      let l' := { l with rem := l.rem - 1 }
      if l.rem - 1 ≠ 0 then (some l.start, loops.set Loop.init n l')
      else loopBack (loops.set Loop.init n { l' with active := false }) p r
    else loopBack loops p r

/-- The point at which the group at a point of a line ends: its last syllable (R114). -/
def Line.stopPt (l : Line) (p : W64) : W64 := mkPt p (BitVec.ofNat 4 (Line.groupEnd l (ptSyl p).toNat))

/-- The group that runs next when the group at `p` takes no transfer (R27, R114), and the loops. -/
def Core.following (k : Core) (l : Line) (p : W64) : Option W64 × Tbl Loop :=
  match loopBack k.loops (Line.stopPt l p) [3, 2, 1, 0] with
  | (some start, loops) => (some start, loops)
  | (none, loops) => (Line.follow l p, loops)

/-- The syllable index of the instruction that runs. -/
def State.syllable (s : State) : BitVec 4 := s.idx

/-- The fault of a CALL itself (R113): it stands in the last group of a line with END = 1. -/
def State.callFault (s : State) (line : Line) (y : BitVec 4) : Option (BitVec 8 × W64 × W64) :=
  if (Line.follow line s.ctx.pt).isNone then some (4, ptLine s.ctx.pt, linkDetail line y) else none

/-- The fault of a transfer and its target together, an ILL_LINK of the target before an ILL_LINE of the transfer itself, and this
before any other (R35, R111, R113). -/
def firstLink (own target : Option (BitVec 8 × W64 × W64)) : Option (BitVec 8 × W64 × W64) :=
  match target with
  | some f => if f.1 = 5 then some f else own.orElse (fun _ => some f)
  | none => own

/-- Effect of a CALL whose group lies in the line `line` (R113): a15 takes the return point, and the transfer is taken; in the
last group of a line with END = 1 it is ILL_LINE. -/
def callEffect (l : BitVec 16) (y : BitVec 4) (line : Line) (s : State) : State :=
  let p := s.labelPt l y
  match s.targetFault p with
  | none => s.askLine p
  | some f =>
    match firstLink (s.callFault line s.syllable) f with
    | some f => s.faultTrap f
    | none => (s.toA 15 ((s.cur.following line s.ctx.pt).1.getD 0)).transfer p

/-- CALL (R113). -/
def execCall (l : BitVec 16) (y : BitVec 4) (g : Guard) (s : State) : Host.Outcome State Fault Refusal :=
  s.issue { act := s.cur.guardP g, lat := 1, file := .gpa }
    (callEffect l y ((s.cached s.focus s.ctx.pt).getD 0))

/-- JMPR (R113). -/
def execJmpr (a : GField) (g : Guard) (s : State) : Host.Outcome State Fault Refusal :=
  s.issue { srcs := [a.qref], act := s.cur.guardP g }
    (fun s => let (p, k) := s.cur.readG a; (s.setCore s.focus k).transfer p)

/-- RET (R113). -/
def execRet (g : Guard) (s : State) : Host.Outcome State Fault Refusal :=
  s.issue { act := s.cur.guardP g } (fun s => s.transfer (s.cur.scu.ar 15))

/-! ## Loops -/

/-- The line address that lies `n` lines further along the chain (R114); `.error p` where the line of `p` must be fetched
first, `.ok none` where the stream ends before. -/
def State.chain (s : State) (p : W64) : Nat → Except W64 (Option W64)
  | 0 => .ok (some (ptLine p))
  | n + 1 =>
    match s.cached s.focus p with
    | none => .error (ptLine p)
    | some l => if Line.ends l then .ok none else State.chain s (ptLine p + Line.next l) n

/-- The end point of a LOOP (R114): a point of syllable 0 matches no group. -/
def endPoint (line : Option W64) (esyl : BitVec 4) : W64 :=
  match line with
  | none => 0
  | some a => mkPt a esyl

/-- Goes on as after a group that ends at `p` without a taken transfer (R114, count 0): no bubble passes but where an outer level
goes back to its start (R52). An end point off the chain, or in the middle of a group, is taken as it stands (log 29). -/
def State.skipLoop (s : State) (p : W64) : State :=
  match s.cached s.focus p with
  | none => s.needLine p
  | some line =>
    match loopBack s.cur.loops p [3, 2, 1, 0] with
    | (some start, loops) => (s.modCur (fun k => { k with loops := loops })).modCtx (fun x => { x with target := some start })
    | (none, loops) =>
      let s := s.modCur (fun k => { k with loops := loops })
      let z := (ptSyl p).toNat + 1
      if z ≤ Line.count line then s.modCtx (fun x => { x with target := some (mkPt p (BitVec.ofNat 4 z)), falls := true })
      else if Line.ends line then s.modCtx (fun x => { x with run := .halting })
      else s.modCtx (fun x => { x with target := some (mkPt (ptLine p + Line.next line) 1), falls := true })

/-- Effect of LOOP with its count (R114). -/
def loopEffect (lvl : BitVec 2) (count : Nat) (eline esyl : BitVec 4) (s : State) : State :=
  match s.chain s.ctx.pt eline.toNat with
  | .error p => s.needLine p
  | .ok stop =>
    if count = 0 then
      (s.modCur (fun k => { k with loops := k.loops.set Loop.init lvl.toNat Loop.init })).skipLoop (endPoint stop esyl)
    else
      let start := (Line.follow ((s.cached s.focus s.ctx.pt).getD 0) s.ctx.pt).getD 0
      let l : Loop := { active := true, start := start, stop := endPoint stop esyl, rem := BitVec.ofNat 64 count }
      s.modCur (fun k => { k with loops := k.loops.set Loop.init lvl.toNat l })

/-- LOOP with an immediate count (R114). -/
def execLoopImmediate (lvl : BitVec 2) (n : BitVec 9) (eline esyl : BitVec 4) (s : State) :
    Host.Outcome State Fault Refusal :=
  s.issue {} (loopEffect lvl n.toNat eline esyl)

/-- LOOP with a count register: g[31:0], unsigned (R114). -/
def execLoopRegister (lvl : BitVec 2) (a : GField) (eline esyl : BitVec 4) (s : State) :
    Host.Outcome State Fault Refusal :=
  s.issue { srcs := [a.qref] }
    (fun s => let (v, k) := s.cur.readG a; loopEffect lvl (v.toNat % 2 ^ 32) eline esyl (s.setCore s.focus k))

/-! ## FORK and JOIN -/

/-- An engine counts as halted (R115, R120). -/
def Ctx.isHalted (x : Ctx) : Bool := decide (x.run = .halted)

/-- Needs of FORK: it waits until the target has halted (R115). -/
def State.needsFork (s : State) (e : Engine) (g : Guard) : Needs :=
  { act := s.cur.guardP g, cond := if (s.cur.ctx e).isHalted then none else some .fork }

/-- An engine started at a point (R115): its registers as it left them, its tokens at zero, its loop buffer empty (log 29). -/
def Ctx.start (x : Ctx) (p : W64) : Ctx :=
  { x with pt := p, run := .running, tok := [], bubble := 0, wait := none, lbuf := [], fresh := false, frozen := false }

/-- The group has waited for the halt of a FORK's target, which came at the end of the cycle before (R100, R115). -/
def State.forkWaited (s : State) : Bool :=
  s.ctx.wait.any (fun w => decide (w.last + 1 = s.cycle) && decide (.fork ∈ w.causes))

/-- Effect of FORK (R115): the target starts in the next cycle; where the FORK has waited for its halt, in the cycle after that
halt, which is this one (R100). -/
def forkEffect (e : Engine) (p : W64) (s : State) : State :=
  let t := s.modCur (fun k => k.modCtx e (fun x => { x.start p with starting := true }))
  if s.forkWaited then { t with turn := t.turn ++ [{ core := s.focus, eng := e, again := false, late := false }] } else t

/-- FORK (R115). -/
def execFork (e : Engine) (l : BitVec 16) (y : BitVec 4) (g : Guard) (s : State) : Host.Outcome State Fault Refusal :=
  s.issue (s.needsFork e g) (forkEffect e (s.labelPt l y))

/-- Needs of JOIN: it waits until every named engine has halted (R116). -/
def State.needsJoin (s : State) (ve ce mx : Bool) (g : Guard) : Needs :=
  { act := s.cur.guardP g
    cond := if (!ve || s.cur.ve.isHalted) && (!ce || s.cur.ce.isHalted) && (!mx || s.cur.mx.isHalted) then none
      else some .join }

/-- JOIN (R116). Every access of the engines it names has performed when it issues, which is what its acquire asks (log 5). -/
def execJoin (ve ce mx : Bool) (g : Guard) (s : State) : Host.Outcome State Fault Refusal :=
  s.issue (s.needsJoin ve ce mx g) id

/-! ## Queue control -/

/-- Needs of QCLOSE: a queue with EN = 0 is ILL_FIELD (R117). -/
def State.needsQclose (s : State) (q : BitVec 3) (g : Guard) : Needs :=
  { bad := !(s.cur.queue q).en, act := s.cur.guardP g }

/-- Effect of QCLOSE (R97, R117): the queue is closed for later cycles (R100). -/
def qcloseEffect (q : BitVec 3) (s : State) : State := s.later s.focus (.qclose q)

/-- QCLOSE (R117). -/
def execQclose (q : BitVec 3) (g : Guard) (s : State) : Host.Outcome State Fault Refusal :=
  s.issue (s.needsQclose q g) (qcloseEffect q)

/-- QSTAT (R117). -/
def execQstat (d : GField) (q : BitVec 3) (g : Guard) (s : State) : Host.Outcome State Fault Refusal :=
  s.issue { dst := d.push, act := s.cur.guardP g, lat := 1, file := d.file } (fun s => s.toG d 1 (s.sregBefore s.focus .scu (.qcfg q)))

end Sys2Proof.Machine
end

