-- ==== Sys2Proof/Machine/Ve.lean ====
section
/-!
DEFINITION. The vector engine's compute instructions (R121 to R156): element-wise arithmetic, logic, compares, conversions,
permutes, scans, exact accumulation and keys.
-/

namespace Sys2Proof.Machine

/-! ## Elements -/

/-- Element `k` of width `w` bits (R122). -/
def elem (w : Nat) (v : Row) (k : Nat) : BitVec w := slice v (w * k) w

/-- A row put together from its elements. -/
def rowOf (w n : Nat) (f : Nat → BitVec w) : Row :=
  (List.range n).foldl (fun acc k => acc ||| (((f k).setWidth 2048) <<< (w * k))) 0

/-- The bytes of enabled elements: an element of `b` bytes and index k is enabled by bit b·k of the guard (R123). -/
def elemMask (b : Nat) (m : BMask) : BMask :=
  if b = 1 then m
  else if m = BitVec.allOnes 256 then m
  else (List.range (256 / b)).foldl (fun acc k =>
    if m.getLsbD (b * k) then acc ||| ((BitVec.ofNat 256 (2 ^ b - 1)) <<< (b * k)) else acc) 0

/-- Enabled elements computed one by one with the flags they raise (R71, R123). -/
def perElem (b : Nat) (m : BMask) (f : Nat → BitVec (8 * b) × W64) : Row × W64 :=
  (List.range (256 / b)).foldl (fun acc k =>
    if m.getLsbD (b * k) then
      let (v, fl) := f k
      (acc.1 ||| ((v.setWidth 2048) <<< (8 * b * k)), acc.2 ||| fl)
    else acc) (0, 0)

/-- Effect of a two-source vector instruction of fixed latency: `f` gives each element of `b` bytes with its VFLAGS bits from
the rows and the element's index; elements disabled by vp[g] stay, and raise nothing (R123, R124). -/
def vec2Effect (d a c : VField) (g : BitVec 3) (b lat : Nat) (f : Row → Row → Nat → BitVec (8 * b) × W64) (s : State) : State :=
  let (x, k) := s.cur.readV a
  let (y, k) := k.readV c
  let m := k.vpr g
  let (v, fl) := perElem b m (f x y)
  (s.setCore s.focus k).toV d lat v (elemMask b m) fl

/-- The same with one source. -/
def vec1Effect (d a : VField) (g : BitVec 3) (b lat : Nat) (f : Row → Nat → BitVec (8 * b) × W64) (s : State) : State :=
  let (x, k) := s.cur.readV a
  let m := k.vpr g
  let (v, fl) := perElem b m (f x)
  (s.setCore s.focus k).toV d lat v (elemMask b m) fl

/-- A two-source vector instruction of fixed latency. -/
def State.vec2 (s : State) (d a c : VField) (g : BitVec 3) (b lat : Nat)
    (f : Row → Row → Nat → BitVec (8 * b) × W64) : Host.Outcome State Fault Refusal :=
  s.issue (needsV d [a.qref, c.qref] lat) (vec2Effect d a c g b lat f)

/-- The same with one source. -/
def State.vec1 (s : State) (d a : VField) (g : BitVec 3) (b lat : Nat) (f : Row → Nat → BitVec (8 * b) × W64) :
    Host.Outcome State Fault Refusal :=
  s.issue (needsV d [a.qref] lat) (vec1Effect d a g b lat f)

/-! ## Floating point -/

end Sys2Proof.Machine

namespace Sys2Proof

/-- The layout of a type (R58, R130). -/
def FTy.spec : FTy → Machine.FSpec
  | .f32 => Machine.fF32
  | .f16 => Machine.fF16
  | .bf16 => Machine.fBF16

/-- Bytes of a type's element. -/
def FTy.bytes : FTy → Nat
  | .f32 => 4
  | .f16 => 2
  | .bf16 => 2

/-- Bytes of an integer element (R130). -/
def ITy.bytes : ITy → Nat
  | .i32 => 4
  | .i16 => 2
  | .i8 => 1
  | .n32 => 4

/-- Whether VIMULH, VIMIN, VIMAX and VCLAMP read the elements as unsigned (R130). -/
def ITy.unsigned : ITy → Bool
  | .n32 => true
  | .i32 => false
  | .i16 => false
  | .i8 => false

/-- Bytes of an element width (R130). -/
def WTy.bytes : WTy → Nat
  | .b32 => 4
  | .b16 => 2
  | .b8 => 1

end Sys2Proof

namespace Sys2Proof.Machine

/-- The exact value of element `k` under a floating-point type. -/
def felem (t : FTy) (v : Row) (k : Nat) : Num := t.spec.decode (elem (8 * t.bytes) v k).toNat

/-- An operation's result rounded into a type, with the flags of both (R67, R131). -/
def roundTo (t : FTy) (mode : RMode) (r : Num × W64) : BitVec (8 * t.bytes) × W64 :=
  let (c, f) := t.spec.round r.1 mode
  (BitVec.ofNat _ c, r.2 ||| f)

/-- An unguarded choice of one operand's encoding: NaN becomes canonical, no flag (R131, R132). -/
def canonical (t : FTy) (code : BitVec (8 * t.bytes)) : BitVec (8 * t.bytes) :=
  if t.spec.decode code.toNat = .nan then BitVec.ofNat _ (t.spec.nan.getD 0) else code

/-- A guarded floating-point instruction of latency 4 whose result is one rounding (R131). -/
def State.farith (s : State) (t : FTy) (d a b : VField) (g : BitVec 3) (op : RMode → Num → Num → Num × W64) :
    Host.Outcome State Fault Refusal :=
  let mode := s.cur.rmode
  s.vec2 d a b g t.bytes 4 (fun x y k => roundTo t mode (op mode (felem t x k) (felem t y k)))

/-- VADD (R131). -/
def execVadd (t : FTy) (d a b : VField) (g : BitVec 3) (s : State) : Host.Outcome State Fault Refusal :=
  s.farith t d a b g (fun mode x y => x.add mode y)

/-- VSUB (R131). -/
def execVsub (t : FTy) (d a b : VField) (g : BitVec 3) (s : State) : Host.Outcome State Fault Refusal :=
  s.farith t d a b g (fun mode x y => x.add mode y.neg)

/-- VMUL (R131). -/
def execVmul (t : FTy) (d a b : VField) (g : BitVec 3) (s : State) : Host.Outcome State Fault Refusal :=
  s.farith t d a b g (fun _ x y => x.mul y)

/-- minimumNumber and maximumNumber of two encodings (R131). -/
def pickNumber (t : FTy) (least : Bool) (x y : BitVec (8 * t.bytes)) : BitVec (8 * t.bytes) :=
  let a := t.spec.decode x.toNat
  let b := t.spec.decode y.toNat
  if a = .nan then canonical t y
  else if b = .nan then x
  else if a.minFirst b = least then x else y

/-- VMIN (R131). -/
def execVmin (t : FTy) (d a b : VField) (g : BitVec 3) (s : State) : Host.Outcome State Fault Refusal :=
  s.vec2 d a b g t.bytes 4 (fun x y k => (pickNumber t true (elem _ x k) (elem _ y k), 0))

/-- VMAX (R131). -/
def execVmax (t : FTy) (d a b : VField) (g : BitVec 3) (s : State) : Host.Outcome State Fault Refusal :=
  s.vec2 d a b g t.bytes 4 (fun x y k => (pickNumber t false (elem _ x k) (elem _ y k), 0))

/-- VFMA (R131). -/
def execVfma (t : FTy) (d a b : VField) (g : BitVec 3) (s : State) : Host.Outcome State Fault Refusal :=
  let mode := s.cur.rmode
  let c := (s.cur.readV d).1
  s.vec2 d a b g t.bytes 4 (fun x y k => roundTo t mode (Num.fma mode (felem t x k) (felem t y k) (felem t c k)))

/-- VFMS (R131). -/
def execVfms (t : FTy) (d a b : VField) (g : BitVec 3) (s : State) : Host.Outcome State Fault Refusal :=
  let mode := s.cur.rmode
  let c := (s.cur.readV d).1
  s.vec2 d a b g t.bytes 4 (fun x y k => roundTo t mode (Num.fma mode (felem t x k) (felem t y k) (felem t c k).neg))

/-- VFNMA (R131). -/
def execVfnma (t : FTy) (d a b : VField) (g : BitVec 3) (s : State) : Host.Outcome State Fault Refusal :=
  let mode := s.cur.rmode
  let c := (s.cur.readV d).1
  s.vec2 d a b g t.bytes 4 (fun x y k => roundTo t mode (Num.fma mode (felem t x k).neg (felem t y k) (felem t c k)))

/-- Sign bit of an encoding. -/
def signBit (t : FTy) : BitVec (8 * t.bytes) := BitVec.ofNat _ (2 ^ (8 * t.bytes - 1))

/-- VABS (R132). -/
def execVabs (t : FTy) (d a : VField) (g : BitVec 3) (s : State) : Host.Outcome State Fault Refusal :=
  s.vec1 d a g t.bytes 2 (fun x k => (canonical t (elem _ x k &&& ~~~(signBit t)), 0))

/-- VNEG (R132). -/
def execVneg (t : FTy) (d a : VField) (g : BitVec 3) (s : State) : Host.Outcome State Fault Refusal :=
  s.vec1 d a g t.bytes 2 (fun x k => (canonical t (elem _ x k ^^^ signBit t), 0))

/-! ## The unit of division and transcendental functions (R129) -/

/-- Needs of an instruction of the unit. -/
def needsUnit (d : VField) (srcs : List (Option (Bool × BitVec 3))) (w : BitVec 3) : Needs :=
  { srcs := srcs, dst := d.push, tok := some w }

/-- Enters an operation of the unit: every element is computed, and the result with its flags is held for the completion. -/
def State.unitOp (s : State) (i : Instr) (d : VField) (w : BitVec 3) (r : Row × W64) : State :=
  let (s, qid) := s.reserveV d
  s.enterOp { PendOp.of i (some w) with val := r.1, addr := r.2, qid := qid }

/-- Effect of VDIV at issue. -/
def vdivEffect (t : FTy) (d a b : VField) (w : BitVec 3) (s : State) : State :=
  let mode := s.cur.rmode
  let (x, k) := s.cur.readV a
  let (y, k) := k.readV b
  (s.setCore s.focus k).unitOp (.vdiv t d a b w) d w
    (perElem t.bytes (BitVec.allOnes 256) (fun k => roundTo t mode ((felem t x k).div (felem t y k))))

/-- VDIV (R129, R131). -/
def execVdiv (t : FTy) (d a b : VField) (w : BitVec 3) (s : State) : Host.Outcome State Fault Refusal :=
  s.issue (needsUnit d [a.qref, b.qref] w) (vdivEffect t d a b w)

/-- Effect of a unary operation of the unit at issue. -/
def unitEffect (i : Instr) (t : FTy) (d a : VField) (w : BitVec 3)
    (f : RMode → BitVec (8 * t.bytes) → BitVec (8 * t.bytes) × W64) (s : State) : State :=
  let mode := s.cur.rmode
  let (x, k) := s.cur.readV a
  (s.setCore s.focus k).unitOp i d w (perElem t.bytes (BitVec.allOnes 256) (fun k => f mode (elem _ x k)))

/-- VSQRT (R132). -/
def execVsqrt (t : FTy) (d a : VField) (w : BitVec 3) (s : State) : Host.Outcome State Fault Refusal :=
  s.issue (needsUnit d [a.qref] w)
    (unitEffect (.vsqrt t d a w) t d a w (fun mode x => roundTo t mode (t.spec.decode x.toNat).sqrt))

/-- VRCP (R132). -/
def execVrcp (t : FTy) (d a : VField) (w : BitVec 3) (s : State) : Host.Outcome State Fault Refusal :=
  s.issue (needsUnit d [a.qref] w)
    (unitEffect (.vrcp t d a w) t d a w (fun mode x => roundTo t mode (t.spec.decode x.toNat).rcp))

/-- VRSQ (R132). -/
def execVrsq (t : FTy) (d a : VField) (w : BitVec 3) (s : State) : Host.Outcome State Fault Refusal :=
  s.issue (needsUnit d [a.qref] w)
    (unitEffect (.vrsq t d a w) t d a w (fun mode x => roundTo t mode (t.spec.decode x.toNat).rsqrt))

/-- VEXP2 (R132). -/
def execVexp2 (t : FTy) (d a : VField) (w : BitVec 3) (s : State) : Host.Outcome State Fault Refusal :=
  s.issue (needsUnit d [a.qref] w)
    (unitEffect (.vexp2 t d a w) t d a w (fun mode x => let (c, f) := t.spec.exp2 x.toNat mode; (BitVec.ofNat _ c, f)))

/-- VLOG2 (R132). -/
def execVlog2 (t : FTy) (d a : VField) (w : BitVec 3) (s : State) : Host.Outcome State Fault Refusal :=
  s.issue (needsUnit d [a.qref] w)
    (unitEffect (.vlog2 t d a w) t d a w (fun mode x => let (c, f) := t.spec.log2 x.toNat mode; (BitVec.ofNat _ c, f)))

end Sys2Proof.Machine

namespace Sys2Proof

/-- The destination of an operation of the unit; none for any other instruction (R129). -/
def Instr.unitDst (i : Instr) : Option VField :=
  match i with
  | .vdiv _ d _ _ _ => some d
  | .vsqrt _ d _ _ => some d
  | .vrcp _ d _ _ => some d
  | .vrsq _ d _ _ => some d
  | .vexp2 _ d _ _ => some d
  | .vlog2 _ d _ _ => some d
  | _ => none

end Sys2Proof

namespace Sys2Proof.Machine

/-- The operation of the unit that completes next: they complete in issue order (R129; log 10). -/
def State.unitDue (s : State) (c : Nat) : Option PendOp :=
  match (s.core c).ve.ops.find? (fun o => o.instr.unitDst.isSome) with
  | none => none
  | some o => if o.issued < s.cycle ∧ o.status = .queued then some o else none

/-- Effect of a completion of the unit: the result lands at the end of the cycle with its flags, and the token is released
then (R71, R126). -/
def unitCompleteEffect (core : Nat) (o : PendOp) (s : State) : State :=
  s.landV core o.num (o.instr.unitDst.getD (.r 0)) o.qid o.val (BitVec.allOnes 256) o.addr

/-- VE_UNIT_COMPLETE (R129). -/
def execVeUnitComplete (core : Nat) (s : State) : Host.Outcome State Fault Refusal :=
  match s.unitDue core with
  | none => .next s
  | some o => .next (unitCompleteEffect core o s)

/-! ## Integers and logic -/

/-- A guarded element-wise integer instruction without flags. -/
def State.iarith (s : State) (b lat : Nat) (d x y : VField) (g : BitVec 3)
    (f : BitVec (8 * b) → BitVec (8 * b) → BitVec (8 * b)) : Host.Outcome State Fault Refusal :=
  s.vec2 d x y g b lat (fun x y k => (f (elem _ x k) (elem _ y k), 0))

/-- VIADD (R133). -/
def execViadd (t : ITy) (d a b : VField) (g : BitVec 3) (s : State) : Host.Outcome State Fault Refusal :=
  s.iarith t.bytes 2 d a b g (fun x y => x + y)

/-- VISUB (R133). -/
def execVisub (t : ITy) (d a b : VField) (g : BitVec 3) (s : State) : Host.Outcome State Fault Refusal :=
  s.iarith t.bytes 2 d a b g (fun x y => x - y)

/-- VIMUL (R133). -/
def execVimul (t : ITy) (d a b : VField) (g : BitVec 3) (s : State) : Host.Outcome State Fault Refusal :=
  s.iarith t.bytes 3 d a b g (fun x y => x * y)

/-- The high half of a product (R133). -/
def mulHigh {w : Nat} (u : Bool) (x y : BitVec w) : BitVec w :=
  if u then BitVec.ofNat w (x.toNat * y.toNat / 2 ^ w) else BitVec.ofInt w (x.toInt * y.toInt / 2 ^ w)

/-- VIMULH (R133). -/
def execVimulh (t : ITy) (d a b : VField) (g : BitVec 3) (s : State) : Host.Outcome State Fault Refusal :=
  s.iarith t.bytes 3 d a b g (mulHigh t.unsigned)

/-- Less-than of two elements, signed or unsigned. -/
def lessE {w : Nat} (u : Bool) (x y : BitVec w) : Bool := if u then x.ult y else x.slt y

/-- VIMIN (R133). -/
def execVimin (t : ITy) (d a b : VField) (g : BitVec 3) (s : State) : Host.Outcome State Fault Refusal :=
  s.iarith t.bytes 2 d a b g (fun x y => if lessE t.unsigned x y then x else y)

/-- VIMAX (R133). -/
def execVimax (t : ITy) (d a b : VField) (g : BitVec 3) (s : State) : Host.Outcome State Fault Refusal :=
  s.iarith t.bytes 2 d a b g (fun x y => if lessE t.unsigned x y then y else x)

/-- The lesser of b and the greater of c and a (R133). -/
def clampE {w : Nat} (u : Bool) (c a b : BitVec w) : BitVec w :=
  let m := if lessE u c a then a else c
  if lessE u b m then b else m

/-- VCLAMP (R133). -/
def execVclamp (t : ITy) (d a b : VField) (g : BitVec 3) (s : State) : Host.Outcome State Fault Refusal :=
  let c := (s.cur.readV d).1
  s.vec2 d a b g t.bytes 2 (fun x y k => (clampE t.unsigned (elem _ c k) (elem _ x k) (elem _ y k), 0))

/-- VWADD (R134): elements named by the wide type; only the low half of s2 is read. -/
def execVwadd (t : WaddTy) (d a b : VField) (g : BitVec 3) (s : State) : Host.Outcome State Fault Refusal :=
  match t with
  | .i16 => s.vec2 d a b g 4 2 (fun x y k => (elem 32 x k + (elem 16 y k).signExtend 32, 0))
  | .i8 => s.vec2 d a b g 2 2 (fun x y k => (elem 16 x k + (elem 8 y k).signExtend 16, 0))
  | .n16 => s.vec2 d a b g 4 2 (fun x y k => (elem 32 x k + (elem 16 y k).setWidth 32, 0))

/-- VAND (R135). -/
def execVand (t : WTy) (d a b : VField) (g : BitVec 3) (s : State) : Host.Outcome State Fault Refusal :=
  s.iarith t.bytes 2 d a b g (fun x y => x &&& y)

/-- VOR (R135). -/
def execVor (t : WTy) (d a b : VField) (g : BitVec 3) (s : State) : Host.Outcome State Fault Refusal :=
  s.iarith t.bytes 2 d a b g (fun x y => x ||| y)

/-- VXOR (R135). -/
def execVxor (t : WTy) (d a b : VField) (g : BitVec 3) (s : State) : Host.Outcome State Fault Refusal :=
  s.iarith t.bytes 2 d a b g (fun x y => x ^^^ y)

/-- VNOT (R135). -/
def execVnot (t : WTy) (d a : VField) (g : BitVec 3) (s : State) : Host.Outcome State Fault Refusal :=
  s.vec1 d a g t.bytes 2 (fun x k => (~~~(elem _ x k), 0))

/-- VSHL (R135): the amount is taken modulo the width. -/
def execVshl (t : WTy) (d a b : VField) (g : BitVec 3) (s : State) : Host.Outcome State Fault Refusal :=
  s.iarith t.bytes 2 d a b g (fun x y => x <<< (y.toNat % (8 * t.bytes)))

/-- VSHR (R135). -/
def execVshr (t : WTy) (d a b : VField) (g : BitVec 3) (s : State) : Host.Outcome State Fault Refusal :=
  s.iarith t.bytes 2 d a b g (fun x y => x >>> (y.toNat % (8 * t.bytes)))

/-- VSRA (R135). -/
def execVsra (t : WTy) (d a b : VField) (g : BitVec 3) (s : State) : Host.Outcome State Fault Refusal :=
  s.iarith t.bytes 2 d a b g (fun x y => x.sshiftRight (y.toNat % (8 * t.bytes)))

/-- A rounding shift right (R135): the floor of the exact sum. -/
def roundShift {w : Nat} (x : BitVec w) (n : Nat) : BitVec w :=
  if n = 0 then x else BitVec.ofInt w ((x.toInt + 2 ^ (n - 1)) / 2 ^ n)

/-- VRSHR (R135). -/
def execVrshr (t : WTy) (d a b : VField) (g : BitVec 3) (s : State) : Host.Outcome State Fault Refusal :=
  s.iarith t.bytes 2 d a b g (fun x y => roundShift x (y.toNat % (8 * t.bytes)))

/-- VMACB (R136): the addend is read at issue. -/
def execVmacb (q : BitVec 2) (d a b : VField) (g : BitVec 3) (s : State) : Host.Outcome State Fault Refusal :=
  let c := (s.cur.readV d).1
  s.vec2 d a b g 4 3 (fun x y k =>
    (elem 32 c k + (elem 8 x (64 * q.toNat + k)).signExtend 32 * (elem 8 y (64 * q.toNat + k)).signExtend 32, 0))

/-- The rounding, doubling high product (R137); OF when it saturates. -/
def mulRound {w : Nat} (x y : BitVec w) : BitVec w × W64 :=
  let r := (x.toInt * y.toInt + 2 ^ (w - 2)) / 2 ^ (w - 1)
  if 2 ^ (w - 1) - 1 < r then (BitVec.ofInt w (2 ^ (w - 1) - 1), fOF) else (BitVec.ofInt w r, 0)

/-- VIMULR (R137). -/
def execVimulr (half : Bool) (d a b : VField) (g : BitVec 3) (s : State) : Host.Outcome State Fault Refusal :=
  if half then s.vec2 d a b g 2 3 (fun x y k => mulRound (elem 16 x k) (elem 16 y k))
  else s.vec2 d a b g 4 3 (fun x y k => mulRound (elem 32 x k) (elem 32 y k))

/-- An i32 saturated to a byte (R138); OF when it saturates. -/
def narrowByte (x : BitVec 32) : BitVec 8 × W64 :=
  if x.slt (-128#32) then (0x80, fOF) else if (127#32).slt x then (0x7F, fOF) else (x.setWidth 8, 0)

/-- A vector result of which the spec gives only the bits of a mask goes to a queue: the others are free (log 19). -/
def State.pushPart (s : State) (d : VField) (lat : Nat) (r given : Row) (flags : W64) : State :=
  ({ s with free := s.free + 1 } : State).toV d lat ((r &&& given) ||| (Config.freeValue 2048 s.free &&& ~~~given))
    (BitVec.allOnes 256) flags

/-- Effect of VNARB (R138): quarter q of the destination, for the enabled 32-bit lanes of the source; in a queue entry the
quarter's disabled bytes are zero (R123) and the other quarters are free (log 19). -/
def vnarbEffect (q : BitVec 2) (d a : VField) (g : BitVec 3) (s : State) : State :=
  let (x, k) := s.cur.readV a
  let m := k.vpr g
  let at_ := 64 * q.toNat
  let r : Row × BMask × W64 := (lanesOf m).foldl (fun acc j =>
    let (b, f) := narrowByte (elem 32 x j)
    (acc.1 ||| ((b.setWidth 2048) <<< (8 * (at_ + j))), acc.2.1 ||| bit true (at_ + j), acc.2.2 ||| f)) (0, 0, 0)
  let s := s.setCore s.focus k
  match d with
  | .r _ => s.toV d 3 r.1 r.2.1 r.2.2
  | .pop _ => s.pushPart d 3 r.1 ((BitVec.ofNat 2048 (2 ^ 512 - 1)) <<< (512 * q.toNat)) r.2.2
  | .peek _ => s

/-- VNARB (R138). -/
def execVnarb (q : BitVec 2) (d a : VField) (g : BitVec 3) (s : State) : Host.Outcome State Fault Refusal :=
  s.issue (needsV d [a.qref] 3) (vnarbEffect q d a g)

/-! ## Compares, predicates and selection -/

/-- Needs of an instruction that writes a vector predicate (R125, R126). -/
def needsVp (srcs : List (Option (Bool × BitVec 3))) : Needs := { srcs := srcs, lat := 2, file := .vp }

/-- Effect of a vector compare: every byte of an enabled element takes the outcome (R139). -/
def vcompareEffect (b : Nat) (p : BitVec 3) (x y : VField) (g : BitVec 3) (f : Row → Row → Nat → Bool × W64) (s : State) :
    State :=
  let (x, k) := s.cur.readV x
  let (y, k) := k.readV y
  let m := k.vpr g
  let r : BMask × W64 := (List.range (256 / b)).foldl (fun acc j =>
    if m.getLsbD (b * j) then
      let (o, fl) := f x y j
      (if o then acc.1 ||| ((BitVec.ofNat 256 (2 ^ b - 1)) <<< (b * j)) else acc.1, acc.2 ||| fl)
    else acc) (0, 0)
  (s.setCore s.focus k).land 2 (.vp p r.1 (elemMask b m)) r.2

/-- VCMP (R139). -/
def execVcmp (c : Cond) (t : WTy) (p : BitVec 3) (a b : VField) (g : BitVec 3) (s : State) :
    Host.Outcome State Fault Refusal :=
  s.issue (needsVp [a.qref, b.qref])
    (vcompareEffect t.bytes p a b g (fun x y k => (c.holds (elem (8 * t.bytes) x k) (elem (8 * t.bytes) y k), 0)))

/-- VFCMP (R139). -/
def execVfcmp (c : FCond) (t : FTy) (p : BitVec 3) (a b : VField) (g : BitVec 3) (s : State) :
    Host.Outcome State Fault Refusal :=
  s.issue (needsVp [a.qref, b.qref]) (vcompareEffect t.bytes p a b g (fun x y k => c.holds (felem t x k) (felem t y k)))

/-- VPAND (R140). -/
def execVpand (p a b g : BitVec 3) (s : State) : Host.Outcome State Fault Refusal :=
  s.issue (needsVp []) (fun s => s.land 2 (.vp p (s.cur.vpr a &&& s.cur.vpr b) (s.cur.vpr g)))

/-- VPOR (R140). -/
def execVpor (p a b g : BitVec 3) (s : State) : Host.Outcome State Fault Refusal :=
  s.issue (needsVp []) (fun s => s.land 2 (.vp p (s.cur.vpr a ||| s.cur.vpr b) (s.cur.vpr g)))

/-- VPNOT (R140). -/
def execVpnot (p a g : BitVec 3) (s : State) : Host.Outcome State Fault Refusal :=
  s.issue (needsVp []) (fun s => s.land 2 (.vp p (~~~(s.cur.vpr a)) (s.cur.vpr g)))

/-- Effect of VSEL (R141): unguarded; both sources are read. -/
def vselEffect (t : WTy) (d a b : VField) (g : BitVec 3) (s : State) : State :=
  let (x, k) := s.cur.readV a
  let (y, k) := k.readV b
  (s.setCore s.focus k).toV d 2 (mergeBytes y x (elemMask t.bytes (k.vpr g))) (BitVec.allOnes 256) 0

/-- VSEL (R141). -/
def execVsel (t : WTy) (d a b : VField) (g : BitVec 3) (s : State) : Host.Outcome State Fault Refusal :=
  s.issue (needsV d [a.qref, b.qref] 2) (vselEffect t d a b g)

/-! ## Conversion -/

end Sys2Proof.Machine

namespace Sys2Proof

/-- Bits of an element of a format (R142). -/
def Fmt.width : Fmt → Nat
  | .f32 => 32
  | .f16 => 16
  | .bf16 => 16
  | .e5m2 => 8
  | .e4m3 => 8
  | .e3m2 => 6
  | .e2m3 => 6
  | .e2m1 => 4
  | .i32 => 32
  | .i16 => 16
  | .i8 => 8
  | .n8 => 8
  | .t2 => 2
  | .e8m0 => 8

/-- The format of a VQNT destination (R144). -/
def QFmt.fmt : QFmt → Fmt
  | .e4m3 => .e4m3
  | .e5m2 => .e5m2
  | .e2m1 => .e2m1
  | .i8 => .i8

end Sys2Proof

namespace Sys2Proof.Machine

/-- An exact integer. -/
def Num.ofInt (i : Int) : Num := .fin (decide (i < 0)) i.natAbs 1

/-- The exact value of an element, with TINV for the reserved T2 code (R62, R63, R143). -/
def Fmt.value (f : Fmt) (c : Nat) : Num × W64 :=
  match f with
  | .f32 => (fF32.decode c, 0)
  | .f16 => (fF16.decode c, 0)
  | .bf16 => (fBF16.decode c, 0)
  | .e5m2 => (fE5M2.decode c, 0)
  | .e4m3 => (fE4M3.decode c, 0)
  | .e3m2 => (fE3M2.decode c, 0)
  | .e2m3 => (fE2M3.decode c, 0)
  | .e2m1 => (fE2M1.decode c, 0)
  | .i32 => (.ofInt (BitVec.ofNat 32 c).toInt, 0)
  | .i16 => (.ofInt (BitVec.ofNat 16 c).toInt, 0)
  | .i8 => (.ofInt (BitVec.ofNat 8 c).toInt, 0)
  | .n8 => (.ofInt c, 0)
  | .t2 => if c = 2 then (.ofInt 0, fTINV) else (.ofInt (BitVec.ofNat 2 c).toInt, 0)
  | .e8m0 => (if c = 0xFF then .nan else scaled false 1 ((c : Int) - 127), 0)

/-- An integer as the bits of an element. -/
def intBits (w : Nat) (r : Int × W64) : Nat × W64 := ((BitVec.ofInt w r.1).toNat, r.2)

/-- round(dst, v, mode) as the bits of an element (R63, R67, R143). -/
def Fmt.enc (f : Fmt) (v : Num) (mode : RMode) : Nat × W64 :=
  match f with
  | .f32 => fF32.round v mode
  | .f16 => fF16.round v mode
  | .bf16 => fBF16.round v mode
  | .e5m2 => fE5M2.round v mode
  | .e4m3 => fE4M3.round v mode
  | .e3m2 => fE3M2.round v mode
  | .e2m3 => fE2M3.round v mode
  | .e2m1 => fE2M1.round v mode
  | .i32 => intBits 32 (roundInt (-(2 ^ 31)) (2 ^ 31 - 1) v mode)
  | .i16 => intBits 16 (roundInt (-32768) 32767 v mode)
  | .i8 => intBits 8 (roundInt (-128) 127 v mode)
  | .n8 => intBits 8 (roundInt 0 255 v mode)
  | .t2 => intBits 2 (roundInt (-1) 1 v mode)
  | .e8m0 => roundE8M0 v mode

/-- Index of the k-th element of a conversion on one side (R143). -/
def segIndex (w seg k : Nat) : Nat := if w = 32 then k else 64 * seg + k

/-- Places elements k = 0 to 63 of a conversion: value, mask of the bits written, flags; a k beyond either side's count is
skipped (R143). -/
def convert (dw sw seg : Nat) (f : Nat → Nat × W64) : Row × Row × W64 :=
  (List.range 64).foldl (fun acc k =>
    let i := segIndex dw seg k
    if i < 2048 / dw ∧ segIndex sw seg k < 2048 / sw then
      let (v, fl) := f (segIndex sw seg k)
      (acc.1 ||| ((BitVec.ofNat 2048 (v % 2 ^ dw)) <<< (dw * i)),
       acc.2.1 ||| ((BitVec.ofNat 2048 (2 ^ dw - 1)) <<< (dw * i)), acc.2.2 ||| fl)
    else acc) (0, 0, 0)

/-- A vector result that writes only some bits of a register; to a queue, the other bits are free (log 19). -/
def State.toVBits (s : State) (d : VField) (lat : Nat) (r : Row × Row × W64) : State :=
  match d with
  | .r n => s.land lat (.vbits n r.1 r.2.1) r.2.2
  | .pop _ => s.pushPart d lat r.1 r.2.1 r.2.2
  | .peek _ => s

/-- Effect of VCVT (R143). -/
def vcvtEffect (dst src : Fmt) (d a : VField) (seg : Nat) (s : State) : State :=
  let mode := s.cur.rmode
  let (x, k) := s.cur.readV a
  let one (i : Nat) : Nat × W64 :=
    let (v, f) := Fmt.value src (elem src.width x i).toNat
    let (c, fl) := Fmt.enc dst v mode
    (c, f ||| fl)
  (s.setCore s.focus k).toVBits d 3 (convert dst.width src.width seg one)

/-- VCVT of segments 0 to 7 (R143). -/
def execVcvtLow (dst src : Fmt) (d a : VField) (seg : BitVec 3) (s : State) : Host.Outcome State Fault Refusal :=
  s.issue (needsV d [a.qref] 3) (vcvtEffect dst src d a seg.toNat)

/-- VCVT of segments 8 to 15 (R143). -/
def execVcvtHigh (dst src : Fmt) (d a : VField) (seg : BitVec 3) (s : State) : Host.Outcome State Fault Refusal :=
  s.issue (needsV d [a.qref] 3) (vcvtEffect dst src d a (8 + seg.toNat))

/-- Effect of VQNT (R144): an exact product, one rounding. -/
def vqntEffect (dst : QFmt) (d a b : VField) (seg : BitVec 3) (s : State) : State :=
  let mode := s.cur.rmode
  let (x, k) := s.cur.readV a
  let (y, k) := k.readV b
  let one (i : Nat) : Nat × W64 :=
    let (p, f) := (rowF32 x i).mul (rowF32 y i)
    let (c, fl) := Fmt.enc dst.fmt p mode
    (c, f ||| fl)
  (s.setCore s.focus k).toVBits d 4 (convert dst.fmt.width 32 seg.toNat one)

/-- VQNT (R144). -/
def execVqnt (dst : QFmt) (d a b : VField) (seg : BitVec 3) (s : State) : Host.Outcome State Fault Refusal :=
  s.issue (needsV d [a.qref, b.qref] 4) (vqntEffect dst d a b seg)

/-! ## Permutes, broadcasts and scans -/

/-- VPERM (R145). -/
def execVperm (t : WTy) (d a b : VField) (g : BitVec 3) (s : State) : Host.Outcome State Fault Refusal :=
  s.vec2 d a b g t.bytes 3 (fun x y k => (elem _ x ((elem (8 * t.bytes) y k).toNat % (256 / t.bytes)), 0))

/-- The source element of VSHUF's element k among n (R145). -/
def shufIndex (p : ShufPat) (n k : Nat) : Nat :=
  match p with
  | .unzip => if k < n / 2 then 2 * k else 2 * (k - n / 2) + 1
  | .zip => if k % 2 = 0 then k / 2 else n / 2 + k / 2
  | .reverse => n - 1 - k
  | .swap => k ^^^ 1

/-- VSHUF (R145). -/
def execVshuf (t : WTy) (p : ShufPat) (d a : VField) (g : BitVec 3) (s : State) : Host.Outcome State Fault Refusal :=
  s.vec1 d a g t.bytes 3 (fun x k => (elem _ x (shufIndex p (256 / t.bytes) k), 0))

/-- Bytes of a row from byte `n` on, wrapping (R146). -/
def rotBytes (v : Row) (n : Nat) : Row := v.rotateRight (8 * n)

/-- Effect of a byte-guarded move (R146). -/
def byteMoveEffect (d a : VField) (g : BitVec 3) (f : Row → Row) (s : State) : State :=
  let (x, k) := s.cur.readV a
  (s.setCore s.focus k).toV d 3 (f x) (k.vpr g) 0

/-- VROT (R146). -/
def execVrot (o : BitVec 8) (d a : VField) (g : BitVec 3) (s : State) : Host.Outcome State Fault Refusal :=
  s.issue (needsV d [a.qref] 3) (byteMoveEffect d a g (fun x => rotBytes x o.toNat))

/-- The 256 bytes that start at byte `o` of `x` followed by `y` (R146). -/
def joinBytes (x y : Row) (o : Nat) : Row := (x >>> (8 * o)) ||| (y <<< (8 * (256 - o)))

/-- VRMRG (R146): it reads its destination at issue. -/
def execVrmrg (o : BitVec 8) (d a : VField) (g : BitVec 3) (s : State) : Host.Outcome State Fault Refusal :=
  let x := (s.cur.readV d).1
  s.issue (needsV d [a.qref] 3) (byteMoveEffect d a g (fun y => joinBytes x y o.toNat))

/-- A guarded move on 32-bit lanes (R147). -/
def laneMoveEffect (d a : VField) (g : BitVec 3) (f : Row → Row) (s : State) : State :=
  let (x, k) := s.cur.readV a
  (s.setCore s.focus k).toV d 3 (f x) (elemMask 4 (k.vpr g)) 0

/-- A block of `b` bytes all over a row (R147). -/
def spread (b idx : Nat) (x : Row) : Row :=
  let e := (x >>> (8 * b * idx)) &&& BitVec.ofNat 2048 (2 ^ (8 * b) - 1)
  (List.range (256 / b)).foldl (fun acc k => acc ||| (e <<< (8 * b * k))) 0

/-- VBCAST (R147). -/
def execVbcast (blk : BitVec 2) (i : BitVec 6) (d a : VField) (g : BitVec 3) (s : State) :
    Host.Outcome State Fault Refusal :=
  s.issue (needsV d [a.qref] 3) (laneMoveEffect d a g (spread (bcastBytes blk) i.toNat))

/-- One element in the low bytes, zero elsewhere (R147). -/
def extractElem (b idx : Nat) (x : Row) : Row := (x >>> (8 * b * idx)) &&& BitVec.ofNat 2048 (2 ^ (8 * b) - 1)

/-- VEXTR (R147). -/
def execVextr (wide : Bool) (i : BitVec 6) (d a : VField) (g : BitVec 3) (s : State) : Host.Outcome State Fault Refusal :=
  s.issue (needsV d [a.qref] 3) (laneMoveEffect d a g (extractElem (if wide then 8 else 4) i.toNat))

/-- VIOTA (R148). -/
def execViota (t : WTy) (start : BitVec 6) (d : VField) (g : BitVec 3) (s : State) : Host.Outcome State Fault Refusal :=
  s.issue (needsV d [] 3) (fun s =>
    let m := s.cur.vpr g
    let (v, fl) := perElem t.bytes m (fun k => (BitVec.ofNat _ (start.toNat + k), 0))
    s.toV d 3 v (elemMask t.bytes m) fl)

/-- A scan over the enabled elements in ascending order (R149): `first` of the first one, then `op`. -/
def scanElems (b : Nat) (m : BMask) (x : Row) (first : BitVec (8 * b) → BitVec (8 * b))
    (op : BitVec (8 * b) → BitVec (8 * b) → BitVec (8 * b) × W64) : Row × W64 :=
  let r : Option (BitVec (8 * b)) × Row × W64 := (List.range (256 / b)).foldl (fun acc k =>
    if m.getLsbD (b * k) then
      let e : BitVec (8 * b) := elem (8 * b) x k
      let (v, fl) :=
        match acc.1 with
        | none => (first e, 0)
        | some v => op v e
      (some v, acc.2.1 ||| ((v.setWidth 2048) <<< (8 * b * k)), acc.2.2 ||| fl)
    else acc) (none, 0, 0)
  r.2

/-- Effect of VSCAN (R149). -/
def vscanEffect (op : ScanOp) (d a : VField) (g : BitVec 3) (s : State) : State :=
  let mode := s.cur.rmode
  let (x, k) := s.cur.readV a
  let m := k.vpr g
  let s := s.setCore s.focus k
  match op with
  | .add t =>
    let (v, fl) := scanElems t.bytes m x id (fun p e => (p + e, 0))
    s.toV d 4 v (elemMask t.bytes m) fl
  | .max t =>
    let (v, fl) := scanElems t.bytes m x id (fun p e => (if p.slt e then e else p, 0))
    s.toV d 4 v (elemMask t.bytes m) fl
  | .min t =>
    let (v, fl) := scanElems t.bytes m x id (fun p e => (if e.slt p then e else p, 0))
    s.toV d 4 v (elemMask t.bytes m) fl
  | .fadd t =>
    let (v, fl) := scanElems t.bytes m x (canonical t)
      (fun p e => roundTo t mode ((t.spec.decode p.toNat).add mode (t.spec.decode e.toNat)))
    s.toV d 8 v (elemMask t.bytes m) fl

/-- Latency of VSCAN (R125). -/
def scanLat : ScanOp → Nat
  | .add _ => 4
  | .max _ => 4
  | .min _ => 4
  | .fadd _ => 8

/-- VSCAN (R149). -/
def execVscan (op : ScanOp) (d a : VField) (g : BitVec 3) (s : State) : Host.Outcome State Fault Refusal :=
  s.issue (needsV d [a.qref] (scanLat op)) (vscanEffect op d a g)

/-! ## Exact accumulation -/

/-- Needs of an instruction that writes an x register (R126). -/
def needsX (srcs : List (Option (Bool × BitVec 3))) (lat : Nat) : Needs := { srcs := srcs, lat := lat, file := .x }

/-- XCLR (R150). -/
def execXclr (x : BitVec 2) (g : BitVec 3) (s : State) : Host.Outcome State Fault Refusal :=
  s.issue (needsX [] 2) (fun s => s.land 2 (.xclr x (s.cur.vpr g)))

/-- Effect of XACC: the sum is formed at landing (R128, R150). -/
def xaccEffect (x : BitVec 2) (a : VField) (g : BitVec 3) (s : State) : State :=
  let (v, k) := s.cur.readV a
  (s.setCore s.focus k).land 2 (.xacc x v (k.vpr g))

/-- XACC (R150). -/
def execXacc (x : BitVec 2) (a : VField) (g : BitVec 3) (s : State) : Host.Outcome State Fault Refusal :=
  s.issue (needsX [a.qref] 2) (xaccEffect x a g)

/-- Effect of XSCA (R128, R151). -/
def xscaEffect (e8m0 : Bool) (x : BitVec 2) (a b : VField) (g : BitVec 3) (s : State) : State :=
  let (v, k) := s.cur.readV a
  let (sc, k) := k.readV b
  (s.setCore s.focus k).land 4 (.xsca e8m0 x v sc (k.vpr g))

/-- XSCA (R151). -/
def execXsca (e8m0 : Bool) (x : BitVec 2) (a b : VField) (g : BitVec 3) (s : State) : Host.Outcome State Fault Refusal :=
  s.issue (needsX [a.qref, b.qref] 4) (xscaEffect e8m0 x a b g)

/-- Group size of XRED (R130). -/
def redGroup (grp : BitVec 2) : Nat := if grp = 0 then 64 else if grp = 1 then 16 else if grp = 2 then 4 else 2

/-- The sum of lanes `j` to `j + n - 1` of an x register, formed exactly and saturated once (R152). -/
def Core.sumLanes (k : Core) (r : BitVec 2) (j n : Nat) : XLane × W64 :=
  let ls := (List.range n).map (fun i => k.xlane r (j + i))
  let (l, f) := XLane.init.sum (ls.foldl (fun t l => t + l.int) 0)
  ({ l with n := ls.any (fun l => l.n), pi := ls.any (fun l => l.pi), ni := ls.any (fun l => l.ni)
            xsat := l.xsat || ls.any (fun l => l.xsat) }, f)

/-- Effect of XRED (R152). -/
def xredEffect (grp : BitVec 2) (x a : BitVec 2) (g : BitVec 3) (s : State) : State :=
  let n := redGroup grp
  let js := (lanesOf (s.cur.vpr g)).filter (fun j => j % n = 0)
  let r := js.map (fun j => (j, s.cur.sumLanes a j n))
  s.land 4 (.xset x (r.map (fun p => (p.1, p.2.1.image)))) (r.foldl (fun f p => f ||| p.2.2) 0)

/-- XRED (R152). -/
def execXred (grp : BitVec 2) (x a : BitVec 2) (g : BitVec 3) (s : State) : Host.Outcome State Fault Refusal :=
  s.issue (needsX [] 4) (xredEffect grp x a g)

/-- Effect of XRND (R153): F32 elements, or BF16 elements in bytes 0 to 127. -/
def xrndEffect (bf16 : Bool) (d : VField) (a : BitVec 2) (g : BitVec 3) (s : State) : State :=
  let f := if bf16 then fBF16 else fF32
  let b := if bf16 then 2 else 4
  let r : Row × BMask × W64 := (lanesOf (s.cur.vpr g)).foldl (fun acc j =>
    let (c, fl) := (s.cur.xlane a j).readout f s.cur.rmode
    (acc.1 ||| ((BitVec.ofNat 2048 c) <<< (8 * b * j)),
     acc.2.1 ||| ((BitVec.ofNat 256 (2 ^ b - 1)) <<< (b * j)), acc.2.2 ||| fl)) (0, 0, 0)
  s.toV d 6 r.1 r.2.1 r.2.2

/-- XRND (R153). -/
def execXrnd (bf16 : Bool) (d : VField) (a : BitVec 2) (g : BitVec 3) (s : State) : Host.Outcome State Fault Refusal :=
  s.issue (needsV d [] 6) (xrndEffect bf16 d a g)

/-! ## Space-filling keys -/

/-- Interleaves words: bit i of the c-th word at bit `n`·i + c (R155). -/
def interleave (n bits_ : Nat) (ws : List Nat) : Nat :=
  (List.range bits_).foldl (fun acc i =>
    (ws.zipIdx).foldl (fun acc p => acc + (if p.1.testBit i then 2 ^ (n * i + p.2) else 0)) acc) 0

/-- hilbert2 from level `b` down (R155). -/
def hilbert : Nat → Nat → Nat → Nat
  | 0, _, _ => 0
  | b + 1, x, y =>
    let s := 2 ^ b
    let rx := if x.testBit b then 1 else 0
    let ry := if y.testBit b then 1 else 0
    let x' := if ry = 0 ∧ rx = 1 then 2 ^ 32 - 1 - x else x
    let y' := if ry = 0 ∧ rx = 1 then 2 ^ 32 - 1 - y else y
    s * s * ((3 * rx) ^^^ ry) + (if ry = 0 then hilbert b y' x' else hilbert b x' y')

/-- The key of three coordinates (R155). -/
def keyOf (t : KeyTy) (x y z : Nat) : Nat :=
  match t with
  | .m3 => interleave 3 21 [x, y, z]
  | .m2 => interleave 2 32 [x, y]
  | .h2 => hilbert 32 x y

/-- VKEY (R155): guarded on 64-bit elements. -/
def execVkey (t : KeyTy) (d a b : VField) (g : BitVec 3) (s : State) : Host.Outcome State Fault Refusal :=
  s.vec2 d a b g 8 4 (fun x y j =>
    (BitVec.ofNat 64 (keyOf t (elem 32 x (2 * j)).toNat (elem 32 x (2 * j + 1)).toNat (elem 32 y (2 * j)).toNat), 0))

end Sys2Proof.Machine
end

