-- ==== Sys2Proof/Machine/Order.lean ====
section
/-!
DEFINITION. The order in which an engine's outstanding operations perform (R189 to R198, R212, R213, R216), and what stops
an operation where it performs (R171).
-/

namespace Sys2Proof.Machine

/-- How an operation stands in its engine's queues (R189, R197, R198). -/
inductive OrdKind where
  /-- takes no queue entry -/
  | none_
  | load
  /-- LDA: a load that is also an acquire (R178, R200) -/
  | loadAcq
  | store
  /-- a both-queue entry of the default ordering (R197) -/
  | both
  | fence (k : FenceKind) (m : SMask)
  | tlsig
  /-- TLWAIT and BWAIT: wait for no earlier entry, hold every later one (R213, R216) -/
  | hold
  /-- BARR: a release at panel scope over S and G (R216) -/
  | barr
  /-- a copy, peer put or collective: entries in its channel's queues (R189) -/
  | copy
  /-- CWPRD.acq: no entry; holds the later entries of the channels' queues (R294) -/
  | holdCopies
  /-- FSET whose addition waits for the accesses it releases (R200) -/
  | fset
  deriving DecidableEq, Repr

end Sys2Proof.Machine

namespace Sys2Proof

open Machine

/-- The kind of an instruction's queue entries (R189). -/
def Instr.ord (i : Instr) : OrdKind :=
  match i with
  | .ld _ _ _ _ | .ldn _ _ _ _ | .vld _ _ _ | .vldq _ _ _ _ | .vldt _ _ _ _ | .vgath _ _ _ _ _ _ | .vpref _ _ _ _ _ => .load
  | .xld _ _ _ | .mlda _ _ _ _ | .mldu _ _ _ | .mldb _ _ _ _ | .mldbt _ _ _ _ | .mldp _ _ _ _ _ | .rld _ _ _ _ => .load
  | .lda _ _ _ _ => .loadAcq
  | .st _ _ _ _ | .vst _ _ _ | .vstm _ _ _ _ | .vscat _ _ _ _ _ _ | .xst _ _ _ | .mrd _ _ _ | .meps _ _ _ _ _ => .store
  | .rst _ _ _ _ => .store
  | .atm _ _ _ _ _ _ | .acas _ _ _ _ _ | .acas2 _ _ _ _ | .ratm _ _ _ _ _ | .rcas _ _ _ _ _ => .both
  | .casn _ _ _ _ | .enq _ _ _ _ | .deq _ _ _ _ | .chase _ _ _ _ | .fadd _ _ _ _ | .fminloc _ _ _ _ => .both
  | .stbind _ _ _ | .stunbd _ _ | .stflsh _ _ | .stdrop _ _ | .sttch _ _ | .cflsh _ _ _ | .cinv _ _ _ | .cdisc _ _ _ => .both
  | .mark _ | .binit _ _ _ _ | .btry _ _ _ _ | .binv _ _ _ _ => .both
  | .fence k _ m _ => .fence k m
  | .tlsig _ _ => .tlsig
  | .tlwait _ _ _ | .bwait _ _ _ _ => .hold
  | .barr _ _ _ _ => .barr
  | .cpy _ _ _ | .cpyt _ _ _ | .cpym _ _ _ _ | .pput _ _ _ _ => .copy
  | .car _ _ _ | .crs _ _ _ | .cag _ _ _ | .ca2a _ _ _ | .cbc _ _ _ | .repart _ _ _ => .copy
  | .fset _ _ _ => .fset
  | .cwprd _ true _ _ => .holdCopies
  | _ => .none_

/-- The storage that an instruction accesses whatever its address is (R192): of remote windows, and of what acts on stash rows and the
global lines under them. -/
def Instr.spread (i : Instr) : Option SMask :=
  match i with
  | .rld _ _ _ _ | .rst _ _ _ _ | .ratm _ _ _ _ _ | .rcas _ _ _ _ _ => some { s := false, g := false, f := true }
  | .casn _ _ _ _ | .enq _ _ _ _ | .deq _ _ _ _ | .chase _ _ _ _ | .fadd _ _ _ _ | .fminloc _ _ _ _ =>
    some { s := false, g := false, f := true }
  | .mark _ => some { s := true, g := true, f := true }
  | .stbind _ _ _ | .stunbd _ _ | .stflsh _ _ | .stdrop _ _ | .sttch _ _ => some { s := true, g := true, f := false }
  | _ => none

/-- Whether the index of a gather, scatter or prefetch counts in words (R177). -/
def Instr.lanes (i : Instr) : Option Bool :=
  match i with
  | .vgath _ _ sh _ _ _ => some sh
  | .vscat _ _ sh _ _ _ => some sh
  | .vpref _ sh _ _ _ => some sh
  | _ => none

/-- An instruction that acts in steps, which MPC counts (R154, R177, R183, R186). -/
def Instr.progresses (i : Instr) : Bool :=
  match i with
  | .xld _ _ _ | .xst _ _ _ | .vgath _ _ _ _ _ _ | .vscat _ _ _ _ _ _ | .vpref _ _ _ _ _ => true
  | .stbind _ _ _ | .stunbd _ _ | .stflsh _ _ | .stdrop _ _ | .sttch _ _ | .cflsh _ _ _ | .cinv _ _ _ | .cdisc _ _ _ => true
  | _ => false

end Sys2Proof

namespace Sys2Proof.Machine

/-- Address of a lane of a gather, scatter or prefetch (R177). -/
def laneAddr (o : PendOp) (sh : Bool) (j : Nat) : W64 :=
  o.addr + (elem 32 o.val j).setWidth 64 * (if sh then 4 else 1)

/-- The storage of an address of a core's own memory (R192): its stash, or global memory. A barrier object counts by its address,
also where its home is another core (log 29). -/
def addrStorage (a : W64) : SMask :=
  if isStash a then { s := true, g := false, f := false } else { s := false, g := true, f := false }

/-- No storage. -/
def SMask.none_ : SMask := { s := false, g := false, f := false }

/-- What either of two masks covers. -/
def SMask.join (a b : SMask) : SMask := { s := a.s || b.s, g := a.g || b.g, f := a.f || b.f }

/-- A mask as three bits of an operation's data: S, G and F in bits 2, 1 and 0 (R192). -/
def SMask.bits (m : SMask) : Row := bit m.s 2 ||| bit m.g 1 ||| bit m.f 0

/-- The mask that an operation's data notes. -/
def SMask.ofBits (v : Row) : SMask := { s := v.getLsbD 2, g := v.getLsbD 1, f := v.getLsbD 0 }

/-- The storage that a copy, put or collective reads, and what it writes (R192). -/
structure Ends where
  rd : SMask
  wr : SMask
  deriving DecidableEq, Repr

/-- The ends as an operation's data note them. -/
def Ends.bits (x : Ends) : Row := (SMask.bits x.rd <<< 3) ||| SMask.bits x.wr

/-- The ends that an operation's data note. -/
def Ends.ofBits (v : Row) : Ends := { rd := SMask.ofBits (v >>> 3), wr := SMask.ofBits v }

/-- The storage that an operation's accesses still to come lie in (R192): of a gather, scatter or prefetch those of its lanes that
have not performed. -/
def PendOp.storage (o : PendOp) : SMask :=
  match o.instr.spread, o.instr.lanes with
  | some m, _ => m
  | none, some sh =>
    ((List.range 64).filter (fun j => o.mpc.getLsbD j)).foldl (fun m j => SMask.join m (addrStorage (laneAddr o sh j))) SMask.none_
  | none, none => addrStorage o.addr

/-- Two storage masks meet. -/
def SMask.meets (a b : SMask) : Bool := (a.s && b.s) || (a.g && b.g) || (a.f && b.f)

/-- The storage of a barrier arrival's release (R200). -/
def maskSG : SMask := { s := true, g := true, f := false }

/-- Reads storage: a load, or an entry of both queues. -/
def OrdKind.loads : OrdKind → Bool
  | .load | .loadAcq | .both | .barr | .copy => true
  | .none_ | .store | .fence _ _ | .tlsig | .hold | .fset | .holdCopies => false

/-- Writes storage. -/
def OrdKind.stores : OrdKind → Bool
  | .store | .both | .barr | .copy => true
  | .none_ | .load | .loadAcq | .fence _ _ | .tlsig | .hold | .fset | .holdCopies => false

/-- The storage that an operation reads (R192, R198): of a copy, put or collective that of its source, which its issue has noted. -/
def PendOp.reads (o : PendOp) : SMask :=
  if !o.instr.ord.loads then SMask.none_ else if o.instr.ord = .copy then (Ends.ofBits o.val).rd else o.storage

/-- The storage that an operation writes; of a copy, put or collective that of its destination. -/
def PendOp.writes (o : PendOp) : SMask :=
  if !o.instr.ord.stores then SMask.none_ else if o.instr.ord = .copy then (Ends.ofBits o.val).wr else o.storage

/-- An operation's loads or stores touch a storage. -/
def PendOp.touches (o : PendOp) (m : SMask) : Bool := SMask.meets o.reads m || SMask.meets o.writes m

/-- A later operation `o` waits for an earlier one `p` by its own rule (R197, R198, R212, R216). -/
def waitsFor (p o : PendOp) : Bool :=
  let kp := p.instr.ord
  match o.instr.ord with
  | .none_ => false
  | .copy => false
  | .hold => false
  | .holdCopies => false
  | .load => decide (kp = .load ∨ kp = .loadAcq)
  | .loadAcq => decide (kp = .load ∨ kp = .loadAcq)
  | .store => decide (kp = .store)
  | .both => decide (kp ≠ .none_ ∧ kp ≠ .fset ∧ kp ≠ .holdCopies)
  | .tlsig => kp.loads || kp.stores
  | .fence .acq m => SMask.meets p.reads m
  | .fence .rel m => p.touches m
  | .fence .full m => p.touches m
  | .barr => p.touches maskSG
  | .fset => kp = .fset || p.touches maskSG

/-- An earlier operation `p` holds a later one `o` by its own rule (R197, R198, R200, R213, R216). -/
def holds (p o : PendOp) : Bool :=
  let ko := o.instr.ord
  let any := decide (ko ≠ .none_ ∧ ko ≠ .fset ∧ ko ≠ .holdCopies)
  match p.instr.ord with
  | .none_ | .load | .store | .tlsig | .copy | .fset => false
  | .both => any
  | .hold => any
  | .holdCopies => decide (ko = .copy)
  | .loadAcq => o.touches maskSG
  | .fence .acq m => o.touches m || decide (ko = .hold)
  | .fence .full m => o.touches m || decide (ko = .hold)
  | .fence .rel m => SMask.meets o.writes m || decide (ko = .hold)
  | .barr => SMask.meets o.writes maskSG

/-- An operation has performed already (a command or unit operation that only completes later); the store entry of an MRD or
MEPS performs when the command completes (R248). -/
def PendOp.performed (o : PendOp) : Bool :=
  match o.status with
  | .busy _ => decide (o.instr.ord ≠ .store)
  | .returning => true
  | .queued | .paging _ _ _ | .trapped | .departed => false

/-- For the order of queue entries a remote access has its turn when it departs (R316); fences and signals wait for it to
perform. -/
def departureCounts (p o : PendOp) : Bool :=
  decide (p.status = .departed) &&
    (match o.instr.ord with
      | .load | .loadAcq | .store | .both => true
      | .none_ | .fence _ _ | .tlsig | .hold | .barr | .copy | .fset | .holdCopies => false)

/-- A timed copy in the caddy has no queue entries yet (R288): its operation's guard is nonzero. -/
def PendOp.inCaddy (o : PendOp) : Bool := decide (o.instr.ord = .copy) && decide (o.mask ≠ 0)

/-- No earlier operation keeps the operation of a number from performing. -/
def Ctx.unblocked (x : Ctx) (num : Nat) : Bool :=
  match x.op? num with
  | none => false
  | some o =>
    x.ops.all (fun p =>
      decide (num ≤ p.num) || p.performed || p.inCaddy || !((waitsFor p o && !departureCounts p o) || holds p o))

/-! ## What stops an operation (R171) -/

/-- Sets an operation's progress, which its engine's MPC shows (R93, R177, R183; log 24). -/
def State.setMpc (s : State) (c : Nat) (e : Engine) (num : Nat) (v : W64) : State :=
  s.modCore c (fun k => k.modCtx e (fun x => { x.modOp num (fun o => { o with mpc := v }) with mpc := v }))

/-- The engine's MPC shows an operation's progress where it stops (R154, R177, R183). -/
def State.showMpc (s : State) (c : Nat) (e : Engine) (num : Nat) : State :=
  s.modCore c (fun k => k.modCtx e (fun x =>
    match x.op? num with
    | none => x
    | some o => if o.instr.progresses then { x with mpc := o.mpc } else x))

/-- An access that cannot perform (R171): it parks on a page request or traps, or ends outside the package's memory. `a` is
the access's address. -/
def State.failOp (s : State) (c : Nat) (e : Engine) (num : Nat) (a : W64) (acc : Access) (x : MemErr) :
    Host.Outcome State Fault Refusal :=
  let s := s.showMpc c e num
  match x.of (s.space c) a.toNat acc [] with
  | .gone pa => .fault (.noMemory pa)
  | .missAt m =>
    let (s, r) := s.pageRequest { core := c, eng := e, chan := none } m
    .next (s.modOp c e num (fun o => { o with status := .paging r (BitVec.ofNat 64 m.va) m.acc }))
  | .later => .next (s.modCore c (fun k => k.noteClaim (.op e num) s.cycle s.cycle))
  | .miss _ _ _ _ _ => .next s
  | .trapAt code addr d => .next (s.opTrap c e num code addr d)
  | .trap code d => .next (s.opTrap c e num code a d)

/-- Raises PERM at the address of an operation where it performs (R171, R217). -/
def State.permOp (s : State) (c : Nat) (e : Engine) (num : Nat) (a : W64) (acc : Access) : State :=
  (s.showMpc c e num).opTrap c e num 0x11 a (permDetail acc false)

end Sys2Proof.Machine
end

