-- ==== Sys2Proof/Machine/ScuMem.lean ====
section
/-!
DEFINITION. The SCU's memory instructions (R178 to R187): what they enter at issue, and what they do where they perform.
-/

namespace Sys2Proof

/-- Bytes of a load type (R178). -/
def LdTy.bytes : LdTy → Nat
  | .n8 => 1
  | .n16 => 2
  | .n32 => 4
  | .n64 => 8
  | .i8 => 1
  | .i16 => 2
  | .i32 => 4

/-- A loaded value extended to 64 bits (R178). -/
def LdTy.ext (t : LdTy) (v : Nat) : W64 :=
  match t with
  | .n8 => BitVec.ofNat 64 v
  | .n16 => BitVec.ofNat 64 v
  | .n32 => BitVec.ofNat 64 v
  | .n64 => BitVec.ofNat 64 v
  | .i8 => (BitVec.ofNat 8 v).signExtend 64
  | .i16 => (BitVec.ofNat 16 v).signExtend 64
  | .i32 => (BitVec.ofNat 32 v).signExtend 64

/-- Bytes of a store width (R179). -/
def StTy.bytes : StTy → Nat
  | .n8 => 1
  | .n16 => 2
  | .n32 => 4
  | .n64 => 8

/-- The new value of an atomic of `w` bits (R181). -/
def AtOp.apply (op : AtOp) (w : Nat) (old x : BitVec w) : BitVec w :=
  match op with
  | .add => old + x
  | .and => old &&& x
  | .or => old ||| x
  | .xor => old ^^^ x
  | .min => if old.slt x then old else x
  | .max => if old.slt x then x else old
  | .minn => if old.ult x then old else x
  | .maxn => if old.ult x then x else old
  | .xchg => x

end Sys2Proof

namespace Sys2Proof.Machine

/-! ## Loads and stores -/

/-- Needs of a load of the SCU (R178, R189). -/
def needsLd (d : GField) (m : MemOpnd) (w : BitVec 3) : Needs :=
  { srcs := [m.qref], dst := d.push, tok := some w, ld := true }

/-- Enters a load: its address is formed at issue, and a push destination reserved. -/
def loadEffect (i : Instr) (t : LdTy) (d : GField) (m : MemOpnd) (w : BitVec 3) (s : State) : State :=
  let (a, k) := s.cur.eaScu m t.bytes
  let (s, qid) := (s.setCore s.focus k).reserveG d
  s.enterOp { PendOp.of i (some w) with ld := true, addr := a, qid := qid }

/-- LD (R178). -/
def execLd (t : LdTy) (d : GField) (m : MemOpnd) (w : BitVec 3) (s : State) : Host.Outcome State Fault Refusal :=
  s.issue (needsLd d m w) (loadEffect (.ld t d m w) t d m w)

/-- LDN (R178): as LD, but for allocation in the caches. -/
def execLdn (t : LdTy) (d : GField) (m : MemOpnd) (w : BitVec 3) (s : State) : Host.Outcome State Fault Refusal :=
  s.issue (needsLd d m w) (loadEffect (.ldn t d m w) t d m w)

/-- LDA (R178): a load that is also an acquire (R200). -/
def execLda (t : LdTy) (d : GField) (m : MemOpnd) (w : BitVec 3) (s : State) : Host.Outcome State Fault Refusal :=
  s.issue (needsLd d m w) (loadEffect (.lda t d m w) t d m w)

/-- Needs of ST: the data field is read before the index (R96; log 25). -/
def needsSt (x : GField) (m : MemOpnd) (w : BitVec 3) : Needs :=
  { srcs := [x.qref, m.qref], tok := some w, st := true }

/-- Enters a store with its data. -/
def storeEffect (t : StTy) (x : GField) (m : MemOpnd) (w : BitVec 3) (s : State) : State :=
  let (v, k) := s.cur.readG x
  let (a, k) := k.eaScu m t.bytes
  (s.setCore s.focus k).enterOp { PendOp.of (.st t x m w) (some w) with st := true, addr := a, val := v.setWidth 2048 }

/-- ST (R179). -/
def execSt (t : StTy) (x : GField) (m : MemOpnd) (w : BitVec 3) (s : State) : Host.Outcome State Fault Refusal :=
  s.issue (needsSt x m w) (storeEffect t x m w)

/-- Cycles from performing to the end of an access of the SCU or the VE: six from issue to completion on a stash row, and one more
for each further sector of a bank (R159, R170). -/
def PendOp.wait (o : PendOp) (a : W64) : Nat := if isStash a then 5 + o.part else 0

/-- A store has performed: it gives up its queue entry, and completes as a stash access does, or at once (R170). -/
def State.stored (s : State) (c : Nat) (e : Engine) (o : PendOp) (a : W64) : State :=
  if isStash a then s.send c e o.num [] 0 (o.wait a) else s.finish c e o.num

/-- A scalar load performs (R158, R171, R178). -/
def performLd (c : Nat) (t : LdTy) (d : GField) (via : Via) (o : PendOp) (s : State) : Host.Outcome State Fault Refusal :=
  match s.read c o.addr t.bytes via with
  | .error x => s.failOp c .scu o.num o.addr .read x
  | .ok (v, s) => .next (s.landG c o.num d o.qid (t.ext v) (o.wait o.addr))

/-- A scalar store performs (R158, R171, R179). -/
def performSt (c : Nat) (t : StTy) (o : PendOp) (s : State) : Host.Outcome State Fault Refusal :=
  match s.write c o.addr t.bytes (o.val.toNat % 2 ^ 64) with
  | .error x => s.failOp c .scu o.num o.addr .write x
  | .ok s => .next (s.stored c .scu o o.addr)

/-! ## Atomics -/

/-- Needs of an atomic (R180, R189). -/
def needsAtomic (d x : GField) (w : BitVec 3) : Needs :=
  { srcs := [x.qref], dst := d.push, tok := some w, ld := true, st := true }

/-- Enters ATM. -/
def atmEffect (op : AtOp) (wide : Bool) (d : GField) (b : BitVec 4) (x : GField) (w : BitVec 3) (s : State) : State :=
  let (v, k) := s.cur.readG x
  let (s, qid) := (s.setCore s.focus k).reserveG d
  s.enterOp { PendOp.of (.atm op wide d b x w) (some w) with
    ld := true, st := true, addr := s.cur.scu.ar b, val := v.setWidth 2048, qid := qid }

/-- ATM (R181). -/
def execAtm (op : AtOp) (wide : Bool) (d : GField) (b : BitVec 4) (x : GField) (w : BitVec 3) (s : State) :
    Host.Outcome State Fault Refusal :=
  s.issue (needsAtomic d x w) (atmEffect op wide d b x w)

/-- Enters ACAS: g[d] supplies the expected value (R182). -/
def acasEffect (wide : Bool) (d : GField) (b : BitVec 4) (x : GField) (w : BitVec 3) (s : State) : State :=
  let (v, k) := s.cur.readG x
  let e := (s.cur.readG d).1
  let s := s.setCore s.focus k
  s.enterOp { PendOp.of (.acas wide d b x w) (some w) with
    ld := true, st := true, addr := s.cur.scu.ar b, val := v.setWidth 2048, val2 := e.setWidth 2048 }

/-- ACAS (R182). -/
def execAcas (wide : Bool) (d : GField) (b : BitVec 4) (x : GField) (w : BitVec 3) (s : State) :
    Host.Outcome State Fault Refusal :=
  s.issue (needsAtomic d x w) (acasEffect wide d b x w)

/-- The two words of a register pair, low half first (R182). -/
def Core.pair (k : Core) (f : GField) : BitVec 128 :=
  match f with
  | .r n => k.gr (n + 1) ++ k.gr n
  | .pop _ => 0
  | .peek _ => 0

/-- What the result of a pair writes. -/
def pairEff (f : GField) (v : BitVec 128) : List Effect :=
  match f with
  | .r n => [.g n (slice v 0 64), .g (n + 1) (slice v 64 64)]
  | .pop _ => []
  | .peek _ => []

/-- Enters ACAS2 (R182). -/
def acas2Effect (d : GField) (b : BitVec 4) (x : GField) (w : BitVec 3) (s : State) : State :=
  let k := s.cur
  s.enterOp { PendOp.of (.acas2 d b x w) (some w) with
    ld := true, st := true, addr := k.scu.ar b, val := (k.pair x).setWidth 2048, val2 := (k.pair d).setWidth 2048 }

/-- ACAS2 (R182). -/
def execAcas2 (d : GField) (b : BitVec 4) (x : GField) (w : BitVec 3) (s : State) : Host.Outcome State Fault Refusal :=
  s.issue (needsAtomic d x w) (acas2Effect d b x w)

/-- ATM performs (R180, R181). -/
def performAtm (c : Nat) (op : AtOp) (wide : Bool) (d : GField) (o : PendOp) (s : State) :
    Host.Outcome State Fault Refusal :=
  let n := if wide then 8 else 4
  match s.readWrite c o.addr n (fun old =>
      some (op.apply (8 * n) (BitVec.ofNat _ old) (o.val.setWidth (8 * n))).toNat) with
  | .error x => s.failOp c .scu o.num o.addr .rw x
  | .ok (old, s) => .next (s.landG c o.num d o.qid (BitVec.ofNat 64 old) (o.wait o.addr))

/-- The new value of a compare and swap, where it swaps (R182). -/
def casNew (n : Nat) (o : PendOp) (old : Nat) : Option Nat :=
  if old = o.val2.toNat % 2 ^ (8 * n) then some (o.val.toNat % 2 ^ (8 * n)) else none

/-- ACAS performs (R180, R182). -/
def performAcas (c : Nat) (wide : Bool) (d : GField) (o : PendOp) (s : State) : Host.Outcome State Fault Refusal :=
  let n := if wide then 8 else 4
  match s.readWrite c o.addr n (casNew n o) with
  | .error x => s.failOp c .scu o.num o.addr .rw x
  | .ok (old, s) => .next (s.landG c o.num d o.qid (BitVec.ofNat 64 old) (o.wait o.addr))

/-- ACAS2 performs (R180, R182). -/
def performAcas2 (c : Nat) (d : GField) (o : PendOp) (s : State) : Host.Outcome State Fault Refusal :=
  match s.readWrite c o.addr 16 (casNew 16 o) with
  | .error x => s.failOp c .scu o.num o.addr .rw x
  | .ok (old, s) => .next (s.send c .scu o.num (pairEff d (BitVec.ofNat 128 old)) 0 (o.wait o.addr))

/-! ## Stash and cache management -/

/-- FIRST and COUNT of a row range (R183). -/
def rowRange (v : W64) : Nat × Nat := ((slice v 0 13).toNat, min (slice v 16 14).toNat 8192)

/-- Needs of an instruction of major 19 (R183). -/
def needsMgmt (r : GField) (w : BitVec 3) : Needs := { srcs := [r.qref], tok := some w, ld := true, st := true }

/-- Enters an instruction of major 19: MPC starts at its first row, or at its first sector's offset. -/
def mgmtEffect (i : Instr) (r : GField) (addr : State → W64) (rows : Bool) (w : BitVec 3) (s : State) : State :=
  let (v, k) := s.cur.readG r
  let s := s.setCore s.focus k
  s.enterOp { PendOp.of i (some w) with
    ld := true, st := true, addr := addr s, val := v.setWidth 2048
    mpc := if rows then BitVec.ofNat 64 (rowRange v).1 else 0 }

/-- STBIND (R184). -/
def execStbind (r : GField) (b : BitVec 4) (w : BitVec 3) (s : State) : Host.Outcome State Fault Refusal :=
  s.issue (needsMgmt r w) (mgmtEffect (.stbind r b w) r (fun s => s.cur.scu.ar b) true w)

/-- STUNBD (R185). -/
def execStunbd (r : GField) (w : BitVec 3) (s : State) : Host.Outcome State Fault Refusal :=
  s.issue (needsMgmt r w) (mgmtEffect (.stunbd r w) r (fun _ => 0) true w)

/-- STFLSH (R185). -/
def execStflsh (r : GField) (w : BitVec 3) (s : State) : Host.Outcome State Fault Refusal :=
  s.issue (needsMgmt r w) (mgmtEffect (.stflsh r w) r (fun _ => 0) true w)

/-- STDROP (R185). -/
def execStdrop (r : GField) (w : BitVec 3) (s : State) : Host.Outcome State Fault Refusal :=
  s.issue (needsMgmt r w) (mgmtEffect (.stdrop r w) r (fun _ => 0) true w)

/-- STTCH (R185). -/
def execSttch (r : GField) (w : BitVec 3) (s : State) : Host.Outcome State Fault Refusal :=
  s.issue (needsMgmt r w) (mgmtEffect (.sttch r w) r (fun _ => 0) true w)

/-- CFLSH (R186). -/
def execCflsh (n : GField) (b : BitVec 4) (w : BitVec 3) (s : State) : Host.Outcome State Fault Refusal :=
  s.issue (needsMgmt n w) (mgmtEffect (.cflsh n b w) n (fun s => s.cur.scu.ar b) false w)

/-- CINV (R186). -/
def execCinv (n : GField) (b : BitVec 4) (w : BitVec 3) (s : State) : Host.Outcome State Fault Refusal :=
  s.issue (needsMgmt n w) (mgmtEffect (.cinv n b w) n (fun s => s.cur.scu.ar b) false w)

/-- CDISC (R186). -/
def execCdisc (n : GField) (b : BitVec 4) (w : BitVec 3) (s : State) : Host.Outcome State Fault Refusal :=
  s.issue (needsMgmt n w) (mgmtEffect (.cdisc n b w) n (fun s => s.cur.scu.ar b) false w)

/-- Rows of the range already done (R183). -/
def rowsDone (o : PendOp) : Nat := (o.mpc.toNat + 8192 - (rowRange (o.val.setWidth 64)).1) % 8192

/-- The next row of a range is done: MPC advances, or the instruction completes (R183). -/
def State.nextRow (s : State) (c : Nat) (o : PendOp) : State :=
  let (first, count) := rowRange (o.val.setWidth 64)
  let k := rowsDone o + 1
  if count ≤ k then s.finish c .scu o.num else s.setMpc c .scu o.num (BitVec.ofNat 64 ((first + k) % 8192))

/-- A step of a row-range instruction: `f` acts on one row; with COUNT = 0 the instruction completes at once. -/
def performRow (c : Nat) (o : PendOp) (f : Nat → State → Except MemErr State) (s : State) :
    Host.Outcome State Fault Refusal :=
  if (rowRange (o.val.setWidth 64)).2 = 0 then .next (s.finish c .scu o.num)
  else
    match f (o.mpc.toNat % 8192) s with
    | .error x => s.failOp c .scu o.num o.addr .write x
    | .ok s => .next (s.nextRow c o)

/-- A row of a bound line of the same context outside the range (R184). -/
def State.lineTaken (s : State) (c : Nat) (line : BitVec 40) (first count : Nat) : Bool :=
  (s.core c).rows.any (fun r => decide (r.2.owner = (s.core c).inst) && r.2.bound && decide (r.2.line = line) &&
    !decide ((r.1 + 8192 - first) % 8192 < count))

/-- The line that row FIRST + k of an STBIND is bound to (R184): its number wraps at 2^40 (log 29). -/
def bindLine (a : W64) (k : Nat) : BitVec 40 := slice (a + BitVec.ofNat 64 (256 * k)) 8 40

/-- STBIND is denied: its address is no global address, or a line of the range is bound elsewhere (R171, R184). -/
def State.bindDenied (s : State) (c : Nat) (a : W64) (first count : Nat) : Bool :=
  decide (slice a 48 16 ≠ 0#16) || (List.range count).any (fun k => s.lineTaken c (bindLine a k) first count)

/-- Binds one row (R184); a tagged row's bytes are zeroed, so that none comes to show untagged (R165; log 13). -/
def State.bindRow (s : State) (c q : Nat) (line : BitVec 40) (ro zero : Bool) : Except MemErr State :=
  match s.claim c q with
  | .error x => .error x
  | .ok s =>
    match s.writeBack c q with
    | .error x => .error x
    | .ok s =>
      let r := s.row c q
      .ok (s.setRow c q { r with data := if r.region ≠ 0 then 0 else r.data, bound := true, line := line, ro := ro, zero := zero
                                 filled := false, dirty := 0, region := 0, poison := 0, key := 0, pa := 0, path := [] })

/-- STBIND performs on its next row. -/
def performStbind (c : Nat) (o : PendOp) (s : State) : Host.Outcome State Fault Refusal :=
  let (first, count) := rowRange (o.val.setWidth 64)
  if count ≠ 0 ∧ rowsDone o = 0 ∧ s.bindDenied c o.addr first count then .next (s.permOp c .scu o.num o.addr .write)
  else
    performRow c o (fun q s => s.bindRow c q (bindLine o.addr (rowsDone o)) (o.val.getLsbD 31) (o.val.getLsbD 30)) s

/-- STUNBD of a row: written back, then scratch with its bytes kept, but zeroed where it was tagged (R165, R185). -/
def State.unbindRow (s : State) (c q : Nat) : Except MemErr State :=
  match s.claim c q with
  | .error x => .error x
  | .ok s =>
    if !(s.row c q).bound then .ok s
    else
      match s.writeBack c q with
      | .error x => .error x
      | .ok s =>
        let r := s.row c q
        .ok (s.setRow c q { StashRow.init with
          owner := r.owner, data := if r.region ≠ 0 then 0 else r.data, poison := if r.region ≠ 0 then 0 else r.poison })

/-- STFLSH of a row (R162, R185). -/
def State.flushRow (s : State) (c q : Nat) : Except MemErr State :=
  match s.claim c q with
  | .error x => .error x
  | .ok s => s.writeBack c q

/-- STDROP of a row: dirty sectors are discarded (R185, R187). -/
def State.dropRow (s : State) (c q : Nat) : Except MemErr State :=
  match s.claim c q with
  | .error x => .error x
  | .ok s => if (s.row c q).bound then .ok (s.setRow c q { s.row c q with filled := false, dirty := 0 }) else .ok s

/-- STTCH of a row: a fill that would fault is dropped, as is one whose translation misses (R185; log 29). -/
def State.touchRow (s : State) (c q : Nat) : Except MemErr State :=
  match s.claim c q with
  | .error x => .error x
  | .ok s =>
    match s.fillRow c q with
    | .error .later => .error .later
    | .error _ => .ok s
    | .ok s => .ok s

/-- STUNBD performs on its next row. -/
def performStunbd (c : Nat) (o : PendOp) (s : State) : Host.Outcome State Fault Refusal :=
  performRow c o (fun q s => s.unbindRow c q) s

/-- STFLSH performs on its next row. -/
def performStflsh (c : Nat) (o : PendOp) (s : State) : Host.Outcome State Fault Refusal :=
  performRow c o (fun q s => s.flushRow c q) s

/-- STDROP performs on its next row. -/
def performStdrop (c : Nat) (o : PendOp) (s : State) : Host.Outcome State Fault Refusal :=
  performRow c o (fun q s => s.dropRow c q) s

/-- STTCH performs on its next row. -/
def performSttch (c : Nat) (o : PendOp) (s : State) : Host.Outcome State Fault Refusal :=
  performRow c o (fun q s => s.touchRow c q) s

/-- Writes a sector's dirty copy in the home L2 or in core `c`'s L1 to HBM (R186). -/
def State.flushSector (s : State) (c sec : Nat) : State :=
  if (s.dirty.get none sec).any (fun d => decide (d.l1 = 0 ∨ d.l1 = c + 1)) then s.flushDirty sec else s

/-- A dirty sector of a holding row is written back, under a translation of its line with write permission that marks the leaf, and
goes on to HBM; so does a dirty copy in the caches under a clean one (R162, R186, R367, R368). -/
def State.flushHeld (s : State) (c c' q n : Nat) : Except MemErr State :=
  let r := s.row c' q
  if !r.dirty.getLsbD n then .ok (s.flushSector c (8 * r.pa + n))
  else
    let sp := (s.insts.get Inst.init r.owner).space
    match s.translate c sp (r.line.toNat * 256) .back true with
    | .error x => .error x
    | .ok (x, s) =>
      match s.backFault r x with
      | some e => .error e
      | none =>
        let s := s.putSector sp.slice (8 * (x.pa / 256) + n) (slice r.data (256 * n) 256) (r.poison.getLsbD n)
        let s := s.flushDirty (8 * (x.pa / 256) + n)
        .ok ((s.setRow c' q { s.row c' q with dirty := r.dirty &&& ~~~(bit true n) }).useBanks c' q (bit true n) backRank)

/-- The sector of a range that CFLSH, CINV and CDISC act on: translated as a store's, marking nothing (R186). -/
def State.mgmtSector (s : State) (c : Nat) (va : Nat) : Except MemErr (Nat × State) :=
  if 2 ^ 48 ≤ va then .error (.trap 0x11 (permDetail .write false))
  else
    match s.translate c (s.space c) va .write false with
    | .error x => .error x
    | .ok (x, s) =>
      if !physExists x.pa then .error (.gone x.pa)
      else
        match s.holder (x.pa / 256) with
        | some (c', q) =>
          if (s.row c' q).key ≠ x.key then .error (.trap 0x12 (x.key.setWidth 64 ||| field (s.row c' q).key 8))
          else if (s.row c' q).ro then .error (.trap 0x11 (permDetail .write false))
          else .ok (x.pa / 32, s)
        | none =>
          if s.keyAt (x.pa / 32) ≠ x.key then .error (.trap 0x12 (x.key.setWidth 64 ||| field (s.keyAt (x.pa / 32)) 8))
          else .ok (x.pa / 32, s)

/-- A sector's dirty copies are written to HBM, in the stash that holds its line or in the caches (R186). -/
def State.cleanAt (s : State) (c sec : Nat) : Except MemErr State :=
  match s.holder (sec / 8) with
  | none => .ok (s.flushSector c sec)
  | some (c', q) => s.flushHeld c c' q (sec % 8)

/-- CFLSH of a sector (R186). -/
def State.cleanSector (s : State) (c va : Nat) : Except MemErr State :=
  match s.mgmtSector c va with
  | .error x => .error x
  | .ok (sec, s) => s.cleanAt c sec

/-- CINV of a sector: as CFLSH, and the issuing core's L1 copy is dropped (R186). -/
def State.invSector (s : State) (c va : Nat) : Except MemErr State :=
  match s.mgmtSector c va with
  | .error x => .error x
  | .ok (sec, s) =>
    match s.cleanAt c sec with
    | .error x => .error x
    | .ok s => .ok (s.modCore c (fun k => k.leaveL1 (sec / 8) (bit true (sec % 8))))

/-- The copies of a sector in the caches are dropped, and what HBM holds counts again (R186, R187). The L2 holds whole lines (R168): its
copy of the line goes unless other sectors of it are dirty there. -/
def State.dropSector (s : State) (sec : Nat) : State :=
  let s := s.leaveL1s (sec / 8) (bit true (sec % 8)) 0
  let s : State := { s with dirty := s.dirty.set none sec none }
  if (List.range 8).any (fun n => (s.dirty.get none (8 * (sec / 8) + n)).any (fun d => decide (d.l1 = 0))) then
    s.l2Mark sec (s.poison.get false sec)
  else s.leaveL2 (sec / 8)

/-- CDISC of a sector within the range `[lo, hi)` (R186, R187): a holding row writes back its dirty sectors outside the range
and becomes not filled. -/
def State.discardSector (s : State) (c va lo hi : Nat) : Except MemErr State :=
  match s.mgmtSector c va with
  | .error x => .error x
  | .ok (sec, s) =>
    match s.holder (sec / 8) with
    | none => .ok (s.dropSector sec)
    | some (c', q) =>
      let base := va / 256 * 256
      let inside : BitVec 8 := (List.range 8).foldl (fun a n =>
        a ||| bit (decide (lo < base + 32 * n + 32) && decide (base + 32 * n < hi)) n) 0
      let r := s.row c' q
      let s := s.setRow c' q { r with dirty := r.dirty &&& ~~~inside }
      match s.writeBack c' q with
      | .error x => .error x
      | .ok s =>
        .ok ((List.range 8).foldl (fun (s : State) n =>
          if inside.getLsbD n then s.dropSector (8 * (sec / 8) + n) else s)
          (s.setRow c' q { s.row c' q with filled := false, dirty := 0 }))

/-- A step of CFLSH, CINV or CDISC: `f` acts on the sector at `va`. MPC counts the sectors done. -/
def performSectors (c : Nat) (o : PendOp) (f : Nat → State → Except MemErr State) (s : State) :
    Host.Outcome State Fault Refusal :=
  let a := o.addr.toNat
  let len := o.val.toNat % 2 ^ 64
  if len = 0 then .next (s.finish c .scu o.num)
  else if decide (slice o.addr 48 16 ≠ 0#16) then .next (s.permOp c .scu o.num o.addr .write)
  else
    let va := a / 32 * 32 + 32 * o.mpc.toNat
    match f va s with
    | .error x => s.failOp c .scu o.num (BitVec.ofNat 64 va) .write x
    | .ok s =>
      if a + len ≤ va + 32 then .next (s.finish c .scu o.num) else .next (s.setMpc c .scu o.num (o.mpc + 1))

/-- CFLSH performs on its next sector. -/
def performCflsh (c : Nat) (o : PendOp) (s : State) : Host.Outcome State Fault Refusal :=
  performSectors c o (fun va s => s.cleanSector c va) s

/-- CINV performs on its next sector. -/
def performCinv (c : Nat) (o : PendOp) (s : State) : Host.Outcome State Fault Refusal :=
  performSectors c o (fun va s => s.invSector c va) s

/-- CDISC performs on its next sector. -/
def performCdisc (c : Nat) (o : PendOp) (s : State) : Host.Outcome State Fault Refusal :=
  performSectors c o (fun va s => s.discardSector c va o.addr.toNat (o.addr.toNat + o.val.toNat % 2 ^ 64)) s

end Sys2Proof.Machine
end

