-- ==== Sys2Proof/Machine/VeMem.lean ====
section
/-!
DEFINITION. The vector engine's memory instructions: row accesses, decoupled reads, gathers and scatters (R172 to R177), and
the transfer of exact registers (R154).
-/

namespace Sys2Proof.Machine

/-- Whether a memory operand swizzles (R38, R174). -/
def MemOpnd.swizzled (m : MemOpnd) : Bool := decide (m.mode = .swz)

/-- A byte guard moved with its row by the swizzle (R174). -/
def swizzleMask (on : Bool) (q : Nat) (m : BMask) : BMask :=
  if !on then m
  else (List.range 8).foldl (fun a n =>
    a ||| (((slice m (32 * (n ^^^ (q / 4 % 8))) 32).setWidth 256) <<< (32 * n))) 0

/-- Needs of a VE load (R172, R189). -/
def needsVld (d : VField) (w : BitVec 3) : Needs := { dst := d.push, tok := some w, ld := true }

/-- Needs of a VE store. -/
def needsVst (x : VField) (w : BitVec 3) : Needs := { srcs := [x.qref], tok := some w, st := true }

/-- Enters a row load with its byte guard. -/
def rowLoadEffect (i : Instr) (d : VField) (m : MemOpnd) (size : Nat) (mask : BMask) (w : BitVec 3) (s : State) : State :=
  let a := s.ctx.ea m size
  let (s, qid) := s.reserveV d
  s.enterOp { PendOp.of i (some w) with ld := true, addr := a, mask := mask, qid := qid }

/-- VLD (R173). -/
def execVld (d : VField) (m : MemOpnd) (w : BitVec 3) (s : State) : Host.Outcome State Fault Refusal :=
  s.issue (needsVld d w) (rowLoadEffect (.vld d m w) d m 256 (BitVec.allOnes 256) w)

/-- VLDT (R176): each sector is 32 bytes, guarded by bytes. -/
def execVldt (d : VField) (m : MemOpnd) (p w : BitVec 3) (s : State) : Host.Outcome State Fault Refusal :=
  s.issue (needsVld d w) (fun s => rowLoadEffect (.vldt d m p w) d m 32 (s.cur.vpr p) w s)

/-- Enters a row store with its source and byte guard. -/
def rowStoreEffect (i : Instr) (x : VField) (m : MemOpnd) (mask : BMask) (w : BitVec 3) (s : State) : State :=
  let (v, k) := s.cur.readV x
  let s := s.setCore s.focus k
  s.enterOp { PendOp.of i (some w) with st := true, addr := s.ctx.ea m 256, val := v, mask := mask }

/-- VST (R173). -/
def execVst (x : VField) (m : MemOpnd) (w : BitVec 3) (s : State) : Host.Outcome State Fault Refusal :=
  s.issue (needsVst x w) (rowStoreEffect (.vst x m w) x m (BitVec.allOnes 256) w)

/-- VSTM (R173). -/
def execVstm (x : VField) (m : MemOpnd) (p w : BitVec 3) (s : State) : Host.Outcome State Fault Refusal :=
  s.issue (needsVst x w) (fun s => rowStoreEffect (.vstm x m p w) x m (s.cur.vpr p) w s)

/-- Needs of VLDQ: the queue must hold rows (R175). -/
def State.needsVldq (s : State) (q w : BitVec 3) : Needs :=
  { dst := some q, bad := !(s.cur.queue q).row, tok := some w, ld := true }

/-- What VLDQ adds to its address register (R175). -/
def Ctx.increment (x : Ctx) (m : MemOpnd) : W64 :=
  match m.mode with
  | .off => sextTimes m.field 256
  | .idx => x.ar (m.field.setWidth 4)
  | .idxShift => x.ar (m.field.setWidth 4) * 256
  | .swz => sextTimes m.field 256

/-- Effect of VLDQ at issue: the entry is reserved and the address register advances (R175). -/
def vldqEffect (q : BitVec 3) (m : MemOpnd) (p w : BitVec 3) (s : State) : State :=
  let a := s.ctx.ar m.base
  let inc := s.ctx.increment m
  let mask := s.cur.vpr p
  let qid := s.cur.qserial
  ((s.modCur (fun k => k.reserve q)).modCtx (fun x => x.setA m.base (a + inc))).enterOp
    { PendOp.of (.vldq q m p w) (some w) with ld := true, addr := a, mask := mask, qid := qid }

/-- VLDQ (R175). -/
def execVldq (q : BitVec 3) (m : MemOpnd) (p w : BitVec 3) (s : State) : Host.Outcome State Fault Refusal :=
  s.issue (s.needsVldq q w) (vldqEffect q m p w)

/-- The row at a stash address, as the VE reads it (R165, R173, R376). -/
def State.readRow (s : State) (c : Nat) (a : W64) (sectors : BitVec 8) : Except MemErr (Row × State) :=
  match s.touchPlain c (stashRow a) .read with
  | .error x => .error x
  | .ok s =>
    let r := s.row c (stashRow a)
    if poisonedIn r sectors then .error (.trap 0x14 3) else .ok (r.data, s)

/-- VLD and VLDQ perform: the row, its bytes masked by the guard (R173, R175). -/
def performVld (c : Nat) (d : VField) (swz : Bool) (o : PendOp) (s : State) : Host.Outcome State Fault Refusal :=
  if !isStash o.addr then .next (s.permOp c .ve o.num o.addr .read)
  else
    match s.readRow c o.addr 0xFF with
    | .error x => s.failOp c .ve o.num o.addr .read x
    | .ok (v, s) =>
      .next (s.landV c o.num d o.qid (mergeBytes 0 (swizzleRow swz (stashRow o.addr) v) o.mask) (BitVec.allOnes 256) 0
        (o.wait o.addr))

/-- VST and VSTM perform: the enabled bytes; with none enabled there is no access (R173). -/
def performVst (c : Nat) (swz : Bool) (o : PendOp) (s : State) : Host.Outcome State Fault Refusal :=
  if o.mask = 0 then .next (s.finish c .ve o.num)
  else if !isStash o.addr then .next (s.permOp c .ve o.num o.addr .write)
  else
    let q := stashRow o.addr
    match s.touchPlain c q .write with
    | .error x => s.failOp c .ve o.num o.addr .write x
    | .ok s =>
      .next ((s.putRow c q (swizzleRow swz q o.val) (swizzleMask swz q o.mask)).stored c .ve o o.addr)

/-- Stash address of logical sector `sec` of a row, swizzled or not (R174, R176). -/
def sectorAddr (swz : Bool) (row sec : Nat) : W64 :=
  let a : W64 := (1#64 <<< 63) ||| BitVec.ofNat 64 (256 * (row % 8192) + 32 * sec)
  if swz then swizzle a else a

/-- The sectors of a VLDT from the k-th on (R176): the bytes read, or the first that stops it with what was done so far. -/
def State.vldtFrom (s : State) (c : Nat) (o : PendOp) (swz : Bool) : List Nat → Row → Except (State × W64 × MemErr) (Row × State)
  | [], v => .ok (v, s)
  | k :: ks, v =>
    if slice o.mask (32 * k) 32 = 0#32 then s.vldtFrom c o swz ks v
    else
      let a := sectorAddr swz (stashRow o.addr + k) (slice o.addr 5 3).toNat
      let n := (slice a 5 3).toNat
      match s.readRow c a (bit true n) with
      | .error x => .error (s, a, x)
      | .ok (r, s) => State.vldtFrom s c o swz ks (v ||| (((slice r (256 * n) 256).setWidth 2048) <<< (256 * k)))

/-- VLDT performs (R176). -/
def performVldt (c : Nat) (d : VField) (swz : Bool) (o : PendOp) (s : State) : Host.Outcome State Fault Refusal :=
  if !isStash o.addr then .next (s.permOp c .ve o.num o.addr .read)
  else
    match s.vldtFrom c o swz (List.range 8) 0 with
    | .error (s, a, x) => s.failOp c .ve o.num a .read x
    | .ok (v, s) => .next (s.landV c o.num d o.qid v o.mask 0 (o.wait o.addr))

/-! ## Gathers and scatters (R177) -/

/-- The lanes of a guard as a mask of 64 bits. -/
def laneMask (m : BMask) : W64 := (lanesOf m).foldl (fun a j => a ||| bit true j) 0

/-- Enters a gather, scatter or prefetch: the base, the vector index and the lanes still to perform, which MPC holds (R177, R468). -/
def gatherEffect (i : Instr) (data : Row) (b : BitVec 4) (ix : BitVec 5) (p w : BitVec 3) (ld : Bool) (s : State) : State :=
  let m := laneMask (s.cur.vpr p)
  (s.enterOp { PendOp.of i (some w) with
    ld := ld, st := !ld, addr := s.ctx.ar b, val := s.cur.vr ix, val2 := data, mpc := m }).modCtx (fun x => { x with mpc := m })

/-- VGATH (R177). `val2` of its operation holds, by lane, the page request that lane waits on (R374), or all ones where a trap
stopped it. -/
def execVgath (d : BitVec 5) (b : BitVec 4) (sh : Bool) (ix : BitVec 5) (p w : BitVec 3) (s : State) :
    Host.Outcome State Fault Refusal :=
  s.issue (needsVld (.r d) w) (gatherEffect (.vgath d b sh ix p w) 0 b ix p w true)

/-- VSCAT (R177). -/
def execVscat (x : VField) (b : BitVec 4) (sh : Bool) (ix : BitVec 5) (p w : BitVec 3) (s : State) :
    Host.Outcome State Fault Refusal :=
  s.issue (needsVst x w)
    (fun s => let (v, k) := s.cur.readV x; gatherEffect (.vscat x b sh ix p w) v b ix p w false (s.setCore s.focus k))

/-- VPREF (R177). -/
def execVpref (b : BitVec 4) (sh : Bool) (ix : BitVec 5) (p w : BitVec 3) (s : State) :
    Host.Outcome State Fault Refusal :=
  s.issue (needsVld (.r 0) w) (gatherEffect (.vpref b sh ix p w) 0 b ix p w true)

/-- The lowest lane of a mask. -/
def lowestLane (m : W64) : Nat := ctz64 m

/-- A lane has performed: it leaves MPC, and the instruction completes when none is left. -/
def State.laneDone (s : State) (c : Nat) (o : PendOp) (j : Nat) (a : W64) : State :=
  let left := o.mpc &&& ~~~(bit true j)
  let s := s.setMpc c .ve o.num left
  if left = 0 then s.stored c .ve o a else s

/-- Notes what a gather lane waits on. -/
def setLaneWait (v : Row) (j : Nat) (n : Nat) : Row :=
  (v &&& ~~~((0xFFFFFFFF#2048) <<< (32 * j))) ||| ((BitVec.ofNat 2048 (n % 2 ^ 32)) <<< (32 * j))

/-- A gather lane that may be tried: enabled, and waiting on nothing. -/
def laneFree (o : PendOp) (j : Nat) : Bool := o.mpc.getLsbD j && decide (elem 32 o.val2 j = 0)

/-- The time of a gather lane has come: a stash access performs at once, one of global memory lands no sooner than an L1 hit does
(R167, R170; log 10). -/
def State.laneDue (s : State) (o : PendOp) (sh : Bool) (j : Nat) : Bool :=
  isStash (laneAddr o sh j) || decide (o.issued + 15 ≤ s.cycle)

/-- A gather lane meets what stops it: the lane alone waits (R177). The first lane that traps parks the engine. -/
def State.failLane (s : State) (c : Nat) (o : PendOp) (j : Nat) (a : W64) (x : MemErr) : Host.Outcome State Fault Refusal :=
  let s := s.showMpc c .ve o.num
  let mark (s : State) (n : Nat) : State := s.modOp c .ve o.num (fun o => { o with val2 := setLaneWait o.val2 j n })
  let stop (code : BitVec 8) (addr d : W64) : State :=
    let s := mark s 0xFFFFFFFF
    if o.status = .trapped then s else s.opTrap c .ve o.num code addr d
  match x.of (s.space c) a.toNat .read [] with
  | .gone pa => .fault (.noMemory pa)
  | .missAt m =>
    let (s, r) := s.pageRequest { core := c, eng := .ve, chan := none } m
    .next (mark s r)
  | .later => .next (s.modCore c (fun k => k.noteClaim (.op .ve o.num) s.cycle s.cycle))
  | .miss _ _ _ _ _ => .next s
  | .trapAt code addr d => .next (stop code addr d)
  | .trap code d => .next (stop code a d)

/-- A gather lane has performed: its element goes to the register, and the last completes the instruction (R177). -/
def State.sendLane (s : State) (c : Nat) (d : BitVec 5) (o : PendOp) (j v wait : Nat) : State :=
  let left := o.mpc &&& ~~~(bit true j)
  let eff : Effect := .v d ((BitVec.ofNat 2048 v) <<< (32 * j)) ((0xF#256) <<< (4 * j))
  let s := s.setMpc c .ve o.num left
  if left = 0 then s.send c .ve o.num [eff] 0 wait
  else
    s.modCore c (fun k => k.modCtx .ve (fun x =>
      { x with returns := x.returns ++ [{ num := o.num, last := false, effs := [eff], flags := 0, due := s.cycle + wait }] }))

/-- A gather lane performs, and writes its lane as soon as it arrives (R177). -/
def performVgath (c : Nat) (d : BitVec 5) (sh : Bool) (j : Nat) (o : PendOp) (s : State) :
    Host.Outcome State Fault Refusal :=
  if o.mpc = 0 then .next (s.finish c .ve o.num)
  else if !laneFree o j || !s.laneDue o sh j then .next s
  else
    let a := laneAddr o sh j
    match s.read c a 4 with
    | .error x => s.failLane c o j a x
    | .ok (v, s) =>
      .next (s.sendLane c d o j v (o.wait a))

/-- The lowest lane of a scatter performs (R177): lanes perform in ascending order. -/
def performVscat (c : Nat) (sh : Bool) (o : PendOp) (s : State) : Host.Outcome State Fault Refusal :=
  if o.mpc = 0 then .next (s.finish c .ve o.num)
  else
    let j := lowestLane o.mpc
    let a := laneAddr o sh j
    match s.write c a 4 (elem 32 o.val2 j).toNat with
    | .error x => s.failOp c .ve o.num a .write x
    | .ok s => .next (s.laneDone c o j a)

/-- A global line is brought into a core's L1, sector by sector; what would fault, as a misaligned lane does (R171), is dropped
(R177). -/
def State.prefetchLine (s : State) (c : Nat) (a : W64) : Except MemErr State :=
  match s.globalRead c (s.space c) a 4 with
  | .error x => .error x
  | .ok (_, s) =>
    .ok ((List.range 8).foldl (fun (s : State) n =>
      match s.globalRead c (s.space c) ((a &&& ~~~(0xFF#64)) + BitVec.ofNat 64 (32 * n)) 4 with
      | .error _ => s
      | .ok (_, s) => s) s)

/-- A prefetch lane performs: a bound stash row is filled, or a global line comes into the L1; a lane that would fault is dropped
(R177). -/
def performVpref (c : Nat) (sh : Bool) (o : PendOp) (s : State) : State :=
  if o.mpc = 0 then s.finish c .ve o.num
  else
    let j := lowestLane o.mpc
    let a := laneAddr o sh j
    match (if isStash a then s.touch c (stashRow a) else s.prefetchLine c a) with
    | .ok s => s.laneDone c o j 0
    | .error .later => s.modCore c (fun k => k.noteClaim (.op .ve o.num) s.cycle s.cycle)
    | .error _ => s.laneDone c o j 0

/-! ## Exact registers (R154) -/

/-- Address of an x register's image: offsets in units of 4 KiB, bits 11:0 ignored (R154). -/
def Ctx.eaX (x : Ctx) (m : MemOpnd) : W64 := x.ea m 4096 &&& ~~~(0xFFF#64)

/-- Row `n` of an x register's image: lanes 4n to 4n + 3 (R80). -/
def Core.imageRow (k : Core) (r : BitVec 2) (n : Nat) : Row :=
  (List.range 4).foldl (fun acc i => acc ||| (((k.xlane r (4 * n + i)).image.setWidth 2048) <<< (512 * i))) 0

/-- Stash address of the n-th row of an image at an address (R158). -/
def imageAt (a : W64) (n : Nat) : W64 := (1#64 <<< 63) ||| BitVec.ofNat 64 (256 * ((stashRow a + n) % 8192))

/-- Stash address of the n-th row of an operation's image. -/
def imageAddr (o : PendOp) (n : Nat) : W64 := imageAt o.addr n

/-- What an access to an image row would meet now (R154, R171): a trap, with its code, address and DETAIL, or an address outside the
package's memory. A translation miss is none: the row is parked where it performs. -/
def State.rowTrap (s : State) (a : W64) (acc : Access) : Option (Except Nat (BitVec 8 × W64 × W64)) :=
  let err (x : MemErr) : Option (Except Nat (BitVec 8 × W64 × W64)) :=
    match x.of (s.space s.focus) a.toNat acc [] with
    | .gone pa => some (.error pa)
    | .trap code d => some (.ok (code, a, d))
    | .trapAt code addr d => some (.ok (code, addr, d))
    | .missAt _ | .later | .miss _ _ _ _ _ => none
  if acc.writes then
    match s.touchPlain s.focus (stashRow a) acc with
    | .error x => err x
    | .ok _ => none
  else
    match s.readRow s.focus a 0xFF with
    | .error x => err x
    | .ok _ => none

/-- Enters XLD or XST where none of the 16 rows traps; a trap is precise at the group (R154). -/
def State.enterImage (s : State) (o : PendOp) (acc : Access) : Host.Outcome State Fault Refusal :=
  if !isStash o.addr then .next (s.groupTrap 0x11 o.addr (permDetail acc false))
  else
    match (List.range 16).findSome? (fun n => s.rowTrap (imageAt o.addr n) acc) with
    | some (.error pa) => .fault (.noMemory pa)
    | some (.ok (code, addr, d)) => .next (s.groupTrap code addr d)
    | none => .next (s.enterOp o)

/-- XLD (R154). -/
def execXld (x : BitVec 2) (m : MemOpnd) (w : BitVec 3) (s : State) : Host.Outcome State Fault Refusal :=
  s.issueTo { tok := some w, ld := true }
    (fun s => s.enterImage { PendOp.of (.xld x m w) (some w) with ld := true, addr := s.ctx.eaX m } .read)

/-- XST (R154): the register is captured at issue, in the operation's lane table. -/
def execXst (x : BitVec 2) (m : MemOpnd) (w : BitVec 3) (s : State) : Host.Outcome State Fault Refusal :=
  s.issueTo { tok := some w, st := true }
    (fun s => s.enterImage { PendOp.of (.xst x m w) (some w) with
      st := true, addr := s.ctx.eaX m, rows := (List.range 16).map (fun n => s.cur.imageRow x n) } .write)

/-- The next row of an XLD performs; with the last one all lanes are written together (R154). -/
def performXld (c : Nat) (x : BitVec 2) (o : PendOp) (s : State) : Host.Outcome State Fault Refusal :=
  let n := o.mpc.toNat
  if !isStash o.addr then .next (s.permOp c .ve o.num o.addr .read)
  else
    match s.readRow c (imageAddr o n) 0xFF with
    | .error e => s.failOp c .ve o.num (imageAddr o n) .read e
    | .ok (v, s) =>
      let rows := o.rows ++ [v]
      if n < 15 then
        .next ((s.modOp c .ve o.num (fun o => { o with rows := rows })).setMpc c .ve o.num (BitVec.ofNat 64 (n + 1)))
      else
        .next (s.send c .ve o.num
          [.xset x ((List.range 64).map (fun j => (j, slice (rows.getD (j / 4) 0) (512 * (j % 4)) 512)))] 0 (o.wait o.addr))

/-- The next row of an XST performs (R154). -/
def performXst (c : Nat) (o : PendOp) (s : State) : Host.Outcome State Fault Refusal :=
  let n := o.mpc.toNat
  if !isStash o.addr then .next (s.permOp c .ve o.num o.addr .write)
  else
    let q := stashRow (imageAddr o n)
    match s.touchPlain c q .write with
    | .error e => s.failOp c .ve o.num (imageAddr o n) .write e
    | .ok s =>
      let s := s.putRow c q (o.rows.getD n 0) (BitVec.allOnes 256)
      .next (if n < 15 then s.setMpc c .ve o.num (BitVec.ofNat 64 (n + 1)) else s.stored c .ve o o.addr)

end Sys2Proof.Machine
end

