-- ==== Sys2Proof/Machine/Ordering.lean ====
section
/-!
DEFINITION. The ordering class (R189 to R219): FSET as a release, FENCE, MARK, TLSIG, TLWAIT, TLRD and the barrier
instructions with the barrier object.
-/

namespace Sys2Proof.Machine

/-! ## FSET (R99, R118, R200) -/

/-- Effect of FSET: the addition acts at the end of the cycle, or once the accesses it releases have performed (R99, R200;
log 25). -/
def fsetEffect (f : BitVec 4) (a : GField) (i : BitVec 10) (s : State) : State :=
  let (v, k) := s.cur.readG a
  let s := s.setCore s.focus k
  let n := flagAmount v i
  let o := { PendOp.of (.fset f a i) none with val := n.setWidth 2048 }
  if s.ctx.ops.all (fun p => p.performed || !waitsFor p o) then s.later s.focus (.fadd f n) else s.enterOp o false

/-- FSET (R118). -/
def execFset (f : BitVec 4) (a : GField) (i : BitVec 10) (s : State) : Host.Outcome State Fault Refusal :=
  s.issue { srcs := [a.qref] } (fsetEffect f a i)

/-- An FSET's addition acts (R99). -/
def performFset (c : Nat) (e : Engine) (f : BitVec 4) (o : PendOp) (s : State) : State :=
  (s.finish c e o.num).later c (.fadd f (o.val.setWidth 16))

/-! ## FENCE, MARK and timelines -/

/-- Needs of an instruction that takes both queues and a token (R189, R190). -/
def needsBoth (w : BitVec 3) : Needs := { tok := some w, ld := true, st := true }

/-- FENCE (R210). -/
def execFence (k : FenceKind) (x : Scope) (m : SMask) (w : BitVec 3) (s : State) : Host.Outcome State Fault Refusal :=
  s.issue (needsBoth w) (fun s => s.enterOp { PendOp.of (.fence k x m w) (some w) with ld := true, st := true })

/-- MARK (R211): no token and no number. -/
def execMark (g : Guard) (s : State) : Host.Outcome State Fault Refusal :=
  s.issue { ld := true, st := true, act := s.cur.guardOn s.eng g }
    (fun s => s.enterOp { PendOp.of (.mark g) none with ld := true, st := true } false)

/-- Needs of TLSIG (R212). -/
def State.needsTlsig (s : State) (d : RF) (w : BitVec 3) : Needs :=
  { dst := d.push, tok := some w, ld := true, st := true, lat := 1, file := d.file s.eng }

/-- Effect of TLSIG: its number goes to the destination with latency 1 (R212). -/
def tlsigEffect (d : RF) (w : BitVec 3) (s : State) : State :=
  (s.toRF d 1 (BitVec.ofNat 64 s.ctx.next)).enterOp { PendOp.of (.tlsig d w) (some w) with ld := true, st := true }

/-- TLSIG (R212). -/
def execTlsig (d : RF) (w : BitVec 3) (s : State) : Host.Outcome State Fault Refusal :=
  s.issue (s.needsTlsig d w) (tlsigEffect d w)

/-- Effect of TLWAIT at issue: target and count are read (R213); it takes no number (R202). -/
def tlwaitEffect (t n : RF) (w : BitVec 3) (s : State) : State :=
  let (v, k) := s.cur.readRF s.eng t
  let (c, k) := k.readRF s.eng n
  (s.setCore s.focus k).enterOp
    { PendOp.of (.tlwait t n w) (some w) with ld := true, st := true, val := v.setWidth 2048, addr := c } false

/-- TLWAIT (R213). -/
def execTlwait (t n : RF) (w : BitVec 3) (s : State) : Host.Outcome State Fault Refusal :=
  s.issue { needsBoth w with srcs := [t.qref, n.qref] } (tlwaitEffect t n w)

/-- Effect of TLRD at issue (R214): no queue entry and no number. -/
def tlrdEffect (d t : RF) (w : BitVec 3) (s : State) : State :=
  let (v, k) := s.cur.readRF s.eng t
  let (s, qid) := (s.setCore s.focus k).reserveRF d
  s.enterOp { PendOp.of (.tlrd d t w) (some w) with val := v.setWidth 2048, qid := qid } false

/-- TLRD (R214). -/
def execTlrd (d t : RF) (w : BitVec 3) (s : State) : Host.Outcome State Fault Refusal :=
  s.issue { srcs := [t.qref], dst := d.push, tok := some w } (tlrdEffect d t w)

/-- The core at a die and panel-relative coordinates of a core's panel; none outside it (R17, R213, R217). -/
def State.panelCore (s : State) (c : Nat) (die : BitVec 3) (py px : BitVec 4) : Option Nat :=
  let i := s.instOf c
  if i.dmask.getLsbD die.toNat ∧ px.toNat < i.width ∧ py.toNat < i.height then
    some (256 * die.toNat + 16 * (i.oy.toNat + py.toNat) + i.ox.toNat + px.toNat)
  else none

/-- The core and engine a timeline target names (R213). -/
def State.tlTarget (s : State) (c : Nat) (v : W64) : Option (Nat × Engine) :=
  (s.panelCore c (slice v 8 3) (slice v 4 4) (slice v 0 4)).map (fun k => (k, Engine.ofCode (slice v 12 2)))

/-- T of an engine (R203). -/
def State.timeline (s : State) (c : Nat) (e : Engine) : Nat := ((s.core c).ctx e).timeline

/-- An ordering operation whose turn has come: it has issued in an earlier cycle, nothing earlier keeps it, and it is not
parked. -/
def State.orderTurn (s : State) (c : Nat) (e : Engine) (num : Nat) : Option PendOp :=
  match ((s.core c).ctx e).op? num with
  | none => none
  | some o =>
    if o.status = .queued ∧ o.issued < s.cycle ∧ !(s.core c).parked e ∧ ((s.core c).ctx e).unblocked num then some o
    else none

/-- FENCE_COMPLETE (R198, R210): every store performed is visible at once to every observer (log 5). -/
def execFenceComplete (c : Nat) (e : Engine) (num : Nat) (s : State) : Host.Outcome State Fault Refusal :=
  match s.orderTurn c e num with
  | none => .next s
  | some o =>
    match o.instr with
    | .fence _ _ _ _ => .next (s.finish c e num)
    | _ => .next s

/-- TLSIG_COMPLETE (R212). -/
def execTlsigComplete (c : Nat) (e : Engine) (num : Nat) (s : State) : Host.Outcome State Fault Refusal :=
  match s.orderTurn c e num with
  | none => .next s
  | some o =>
    match o.instr with
    | .tlsig _ _ => .next (s.finish c e num)
    | _ => .next s

/-- TLWAIT_COMPLETE (R213): T of the named engine has reached the count; a target outside the panel is PERM. -/
def execTlwaitComplete (c : Nat) (e : Engine) (num : Nat) (s : State) : Host.Outcome State Fault Refusal :=
  match s.orderTurn c e num with
  | none => .next s
  | some o =>
    match o.instr with
    | .tlwait _ _ _ =>
      match s.tlTarget c (o.val.setWidth 64) with
      | none => .next (s.permOp c e num 0 .read)
      | some (c', e') => if o.addr.toNat ≤ s.timeline c' e' then .next (s.finish c e num) else .next s
    | _ => .next s

/-- TLRD performs (R214). -/
def performTlrd (c : Nat) (e : Engine) (d : RF) (o : PendOp) (s : State) : State :=
  match s.tlTarget c (o.val.setWidth 64) with
  | none => s.permOp c e o.num 0 .read
  | some (c', e') =>
    s.send c e o.num (RF.eff d o.qid (BitVec.ofNat 64 (s.timeline c' e')))

/-! ## The barrier object (R205, R207) -/

/-- A barrier object's fields (R205). -/
structure Bar where
  count : Int
  expect : BitVec 16
  pend : BitVec 16
  gen : BitVec 32
  status : BitVec 2
  phase : Bool
  deriving DecidableEq, Repr

/-- The object that 16 bytes hold. -/
def Bar.ofBits (b : BitVec 128) : Bar :=
  { count := (slice b 96 32).toInt, expect := slice b 80 16, pend := slice b 64 16, gen := slice b 32 32
    status := slice b 2 2, phase := b.getLsbD 0 }

/-- The 16 bytes of an object; reserved bits are written as zero. -/
def Bar.bits (b : Bar) : BitVec 128 :=
  field (BitVec.ofInt 32 b.count) 96 ||| field b.expect 80 ||| field b.pend 64 ||| field b.gen 32 ||| field b.status 2 |||
    bit b.phase 0

/-- An invalid object. -/
def Bar.zero : Bar := { count := 0, expect := 0, pend := 0, gen := 0, status := 0, phase := false }

/-- fail(b), and whether the BWAITs pending on b trap (R207). -/
def Bar.fail (b : Bar) : Bar × Bool := ({ b with status := 2 }, true)

/-- settle(b) (R207). -/
def Bar.settle (b : Bar) : Bar × Bool :=
  if b.pend = 0 then
    if b.count = 0 then
      ({ b with gen := b.gen + 1, phase := (b.gen + 1).getLsbD 0, pend := b.expect, count := 0 }, false)
    else if b.count < 0 then b.fail
    else (b, false)
  else (b, false)

/-- What a barrier operation does: the object after it, whether pending BWAITs trap, the trap it meets itself (the STATUS it
found), and its result (R207). -/
structure BarOut where
  bar : Bar
  abort : Bool
  trap : Option (BitVec 2)
  result : BitVec 32
  deriving DecidableEq, Repr

/-- BINIT(b, arg) (R207). -/
def Bar.init (arg : BitVec 16) : BarOut :=
  { bar := if arg = 0 then Bar.zero else { Bar.zero with expect := arg, pend := arg, status := 1 }
    abort := true, trap := none, result := 0 }

/-- BINV(b) (R207). -/
def Bar.inv (b : Bar) : BarOut := { bar := { b with status := 0 }, abort := true, trap := none, result := 0 }

/-- BARR(b, arg) (R207). -/
def Bar.arrive (b : Bar) (arg : BitVec 32) : BarOut :=
  let stop : BarOut := { bar := b.fail.1, abort := true, trap := some b.status, result := 0 }
  if b.status ≠ 1 then { bar := b, abort := false, trap := some b.status, result := 0 }
  else if b.pend = 0 then stop
  else
    let c := b.count + arg.toInt
    if c < -(2 ^ 31) ∨ 2 ^ 31 - 1 < c then stop
    else
      let (b', ab) := Bar.settle { b with count := c, pend := b.pend - 1 }
      { bar := b', abort := ab, trap := none, result := b.gen }

/-- credit(b, n) (R207): the object after it, and whether pending BWAITs trap; none where the object is not active. -/
def Bar.credit (b : Bar) (n : Nat) : Option (Bar × Bool) :=
  if b.status ≠ 1 then none
  else
    let c := b.count - n
    if c < -(2 ^ 31) then some b.fail else some (Bar.settle { b with count := c })

/-- Stash address of an object, bits 3:0 ignored (R206). -/
def barAddr (a : W64) : W64 := a &&& ~~~(0xF#64)

/-- The home core that an operand register names (R206). -/
def State.barHome (s : State) (c : Nat) (v : W64) : Option Nat := s.panelCore c (slice v 8 3) (slice v 4 4) (slice v 0 4)

/-- Reads an object at its home (R217). -/
def State.readBar (s : State) (home : Nat) (a : W64) (acc : Access) : Except MemErr (Bar × State) :=
  match s.touchPlain home (stashRow a) acc with
  | .error x => .error x
  | .ok s =>
    match s.stashRead home (barAddr a) 16 with
    | .error x => .error x
    | .ok (v, s) => .ok (Bar.ofBits (BitVec.ofNat 128 v), s)

/-- Writes an object at its home; the row has been touched. -/
def State.writeBar (s : State) (home : Nat) (a : W64) (b : Bar) : State :=
  let q := stashRow a
  let off := (slice (barAddr a) 0 8).toNat
  s.putRow home q ((b.bits.setWidth 2048) <<< (8 * off)) ((0xFFFF#256) <<< off)

/-- An operation is a BWAIT that is pending on an object (R207): its first test is made. -/
def State.pendsOn (s : State) (c : Nat) (o : PendOp) (home : Nat) (a : W64) : Bool :=
  (match o.instr with
    | .bwait _ _ _ _ => true
    | _ => false) &&
    decide (o.status = .departed) && decide (s.barHome c (o.val.setWidth 64) = some home) &&
    decide (slice o.addr 4 17 = slice a 4 17)

/-- Every BWAIT pending on an object traps BAR_OVERRUN with the STATUS after the operation (R207, R218), by ascending core and
then engine. -/
def State.abortWaits (s : State) (home : Nat) (a : W64) (status : BitVec 2) : State :=
  s.cores.foldl (fun s ck =>
    [Engine.scu, .ve, .ce, .mx].foldl (fun s e =>
      (((s.core ck.1).ctx e).ops.filter (fun o => s.pendsOn ck.1 o home a)).foldl (fun s o =>
        s.opTrap ck.1 e o.num 0x22 (barAddr o.addr) (status.setWidth 64)) s) s) s

/-- Applies a barrier operation at its home: writes the object and traps the BWAITs pending on it where it says so. -/
def State.applyBar (s : State) (home : Nat) (a : W64) (r : BarOut) : State :=
  let s := s.writeBar home a r.bar
  if r.abort then s.abortWaits home a r.bar.status else s

/-! ## Barrier instructions (R215 to R217) -/

/-- Effect of a barrier instruction at issue: the address and the operand register are read (R206, R215). -/
def barEffect (i : Instr) (r : RF) (b : BitVec 4) (o : BitVec 6) (w : BitVec 3) (takes : Bool) (s : State) : State :=
  let (v, _) := s.cur.readRF s.eng r
  s.enterOp { PendOp.of i (some w) with ld := true, st := true, addr := s.ctx.ar b + sextTimes o 16, val := v.setWidth 2048 }
    takes

/-- BINIT (R216). -/
def execBinit (r : RF) (b : BitVec 4) (o : BitVec 6) (w : BitVec 3) (s : State) : Host.Outcome State Fault Refusal :=
  s.issue (needsBoth w) (barEffect (.binit r b o w) r b o w true)

/-- BARR (R216). -/
def execBarr (r : RF) (b : BitVec 4) (o : BitVec 6) (w : BitVec 3) (s : State) : Host.Outcome State Fault Refusal :=
  s.issue (needsBoth w) (barEffect (.barr r b o w) r b o w true)

/-- BWAIT (R216): it takes no number (R202). -/
def execBwait (r : RF) (b : BitVec 4) (o : BitVec 6) (w : BitVec 3) (s : State) : Host.Outcome State Fault Refusal :=
  s.issue (needsBoth w) (barEffect (.bwait r b o w) r b o w false)

/-- BTRY (R216). -/
def execBtry (r : RF) (b : BitVec 4) (o : BitVec 6) (w : BitVec 3) (s : State) : Host.Outcome State Fault Refusal :=
  s.issue (needsBoth w) (barEffect (.btry r b o w) r b o w true)

/-- BINV (R216). -/
def execBinv (r : RF) (b : BitVec 4) (o : BitVec 6) (w : BitVec 3) (s : State) : Host.Outcome State Fault Refusal :=
  s.issue (needsBoth w) (barEffect (.binv r b o w) r b o w true)

/-- The place of a barrier operation among those of a cycle, between which credits come at 1 (R218). -/
def Instr.barStage (i : Instr) : Option Nat :=
  match i with
  | .binit _ _ _ _ | .binv _ _ _ _ => some 0
  | .barr _ _ _ _ => some 2
  | .btry _ _ _ _ => some 3
  | .bwait _ _ _ _ => some 4
  | _ => none

/-- Place of an engine in the order of R218. -/
def engPlace : Engine → Nat
  | .scu => 0
  | .ve => 1
  | .ce => 2
  | .mx => 3

/-- A place in the order of R218: kind, then core, then engine; for a credit kind 1, the core and the channel. -/
def barPlace (kind c n : Nat) : Nat := 2 ^ 20 * kind + 16 * c + n

/-- The place of a barrier operation; BTRY and BWAIT, which only read, stand with the others of their kind. -/
def Instr.barTurn (i : Instr) (c : Nat) (e : Engine) : Option Nat :=
  (Instr.barStage i).map (fun n => if 3 ≤ n then barPlace n 0 0 else barPlace n c (engPlace e))

/-- The cycle has not passed the place of a barrier operation (R218): one whose place has passed acts in the next cycle. -/
def State.barOpen (s : State) (c : Nat) (e : Engine) (i : Instr) : Bool :=
  (Instr.barTurn i c e).all (fun n => decide (s.barStage ≤ n))

/-- The cycle has reached a place in the order of R218. -/
def State.reachStage (s : State) (n : Nat) : State := { s with barStage := max s.barStage n }

/-- The object an operation names, read at its home, with the faults of R217; `f` goes on with it. -/
def State.withBar (s : State) (c : Nat) (e : Engine) (o : PendOp) (acc : Access)
    (f : Nat → Bar → State → Host.Outcome State Fault Refusal) : Host.Outcome State Fault Refusal :=
  if !isStash o.addr then .next (s.permOp c e o.num o.addr acc)
  else
    match s.barHome c (o.val.setWidth 64) with
    | none => .next (s.permOp c e o.num o.addr acc)
    | some home =>
      match s.readBar home o.addr acc with
      | .error x => s.failOp c e o.num o.addr acc x
      | .ok (b, s) => f home b (s.reachStage ((Instr.barTurn o.instr c e).getD 0))

/-- BINIT performs. -/
def performBinit (c : Nat) (e : Engine) (o : PendOp) (s : State) : Host.Outcome State Fault Refusal :=
  s.withBar c e o .rw (fun home _ s => .next ((s.applyBar home o.addr (Bar.init (slice o.val 32 16))).finish c e o.num))

/-- BINV performs. -/
def performBinv (c : Nat) (e : Engine) (o : PendOp) (s : State) : Host.Outcome State Fault Refusal :=
  s.withBar c e o .rw (fun home b s => .next ((s.applyBar home o.addr b.inv).finish c e o.num))

/-- BTRY performs: bits 63:32 take GEN and bits 31:30 STATUS (R216). -/
def performBtry (c : Nat) (e : Engine) (r : RF) (o : PendOp) (s : State) : Host.Outcome State Fault Refusal :=
  s.withBar c e o .read (fun _ b s =>
    .next (s.send c e o.num (RF.bitsEff r (field b.gen 32 ||| field b.status 30) 0xFFFFFFFFC0000000#64)))

/-- BARR performs: the operand's ARG takes the GEN of the phase arrived in, or BAR_OVERRUN traps (R207, R216). -/
def performBarr (c : Nat) (e : Engine) (r : RF) (o : PendOp) (s : State) : Host.Outcome State Fault Refusal :=
  s.withBar c e o .rw (fun home b s =>
    let out := b.arrive (slice o.val 32 32)
    let s := if b.status = 1 then s.applyBar home o.addr out else s
    match out.trap with
    | some st => .next (s.opTrap c e o.num 0x22 (barAddr o.addr) (st.setWidth 64))
    | none =>
      .next (s.send c e o.num (RF.bitsEff r (field out.result 32) 0xFFFFFFFF00000000#64)))

/-- The first test of a BWAIT (R207): an object that is not active traps; otherwise the BWAIT is pending on it. The stall wire
holds it where it is asserted now (R91 step 4), which its guard notes. -/
def performBwait (c : Nat) (e : Engine) (o : PendOp) (s : State) : Host.Outcome State Fault Refusal :=
  s.withBar c e o .read (fun _ b s =>
    if b.status ≠ 1 then .next (s.opTrap c e o.num 0x22 (barAddr o.addr) (b.status.setWidth 64))
    else .next (s.modOp c e o.num (fun o => { o with status := .departed, mask := if s.asserted c then 1 else 0 })))

/-- BWAIT_COMPLETE (R207, R216): the phase awaited has ended, and the stall wire does not hold the completion (R216; log 25). -/
def execBwaitComplete (c : Nat) (e : Engine) (num : Nat) (s : State) : Host.Outcome State Fault Refusal :=
  match ((s.core c).ctx e).op? num with
  | none => .next s
  | some o =>
    match o.instr with
    | .bwait _ _ _ _ =>
      if o.status ≠ .departed ∨ o.mask ≠ 0 ∨ (s.core c).parked e ∨ !s.barOpen c e o.instr then .next s
      else
        s.withBar c e o .read (fun _ b s =>
          if b.status ≠ 1 then .next (s.opTrap c e num 0x22 (barAddr o.addr) (b.status.setWidth 64))
          else if b.phase ≠ o.val.getLsbD 32 then .next (s.finish c e num)
          else .next s)
    | _ => .next s

end Sys2Proof.Machine
end

