-- ==== Sys2Proof/Machine/Ring.lean ====
section
/-!
DEFINITION. Slots and their routes (R13, R301, R303), the bridge links' two directions (R306), and the messages that wait at the
bridge stations to leave the package (R302).
-/

namespace Sys2Proof

open Machine

/-! ## Slots -/

/-- The header of a slot (R301). -/
def Slot.header (x : Slot) : BitVec 128 :=
  field x.dpkg 107 ||| field x.dep 95 ||| field x.spkg 74 ||| field x.sep 62 ||| field x.vc 59 ||| field x.stag 38 |||
    field x.seq 22 ||| field x.kind 18 ||| bit x.elder 17 ||| bit x.last 16 ||| field x.len 8 ||| field x.code 0

/-- The 144 bytes of a slot (R13, R301): the header, then the payload. -/
def Slot.bits (x : Slot) : BitVec 1152 := x.header.setWidth 1152 ||| ((x.payload.setWidth 1152) <<< 128)

end Sys2Proof

namespace Sys2Proof.Machine

/-- The endpoint of a core, with its die in bits 11:9 (R301). -/
def coreEnd (c : Nat) : BitVec 12 := BitVec.ofNat 12 (512 * (c / 256) + c % 256)

/-- The core of an endpoint. -/
def endCore (e : BitVec 12) : Nat := 256 * (e.toNat / 512) + e.toNat % 256

/-- The endpoint of a die's home L2, which window requests and their replies name in the model (R301; log 16). -/
def homeEnd (die : Nat) : BitVec 12 := BitVec.ofNat 12 (512 * die + 259)

/-- The endpoint of a die's exchange unit (R301). -/
def unitEnd (die : Nat) : BitVec 12 := BitVec.ofNat 12 (512 * die + 258)

/-! ## Routes (R13, R303) -/

/-- The direction from one position of a ring of `n` to another: the shorter one, clockwise where both are equal (R303). -/
def clockwise (n a b : Nat) : Bool := decide ((b + n - a) % n ≤ (a + n - b) % n)

/-- The direction on the package ring from one die to another: clockwise it visits the dies in ascending order (R13, R303 rule 3). -/
def dieClockwise (a b : BitVec 3) : Bool := clockwise 8 a.toNat b.toNat

/-- The die at which a slot on the package ring stops next (R13). -/
def nextDie (d : BitVec 3) (cw : Bool) : BitVec 3 := if cw then d + 1 else d - 1

/-- Position of a package on its ring of a level (R303). -/
def ringPos (level : Nat) (p : BitVec 21) : Nat :=
  if level = 3 then p.toNat / 2 ^ 13 % 256 else if level = 2 then p.toNat / 2 ^ 5 % 256 else p.toNat % 32

/-- The next ring that a slot from package `p` to package `q` rides: its level and direction (R303 rules 1 and 2); none in the
package itself. -/
def nextRing (p q : BitVec 21) : Option (Nat × Bool) :=
  ([3, 2, 1].find? (fun l => decide (ringPos l p ≠ ringPos l q))).map (fun l =>
    (l, clockwise (if l = 1 then 32 else 256) (ringPos l p) (ringPos l q)))

/-- The package at which a slot for `q` leaves the ring of a level that it rides from `p` (R303). -/
def ringTarget (level : Nat) (p q : BitVec 21) : BitVec 21 :=
  let m : BitVec 21 := if level = 3 then 0x1FE000 else if level = 2 then 0x1FE0 else 0x1F
  (p &&& ~~~m) ||| (q &&& m)

/-- Ring cycles after the k-th NACK-BUSY of a message before it is sent again (R305). -/
def retryDelay (k : Nat) : Nat := 64 * 2 ^ min (k - 1) 8

/-- Cycles of a ring cycle (log 16). -/
def ringCycles : Nat := 2

/-! ## Links -/

/-- A bridge link. -/
def State.link (s : State) (level : Nat) (die : BitVec 3) : Link := s.links.get Link.init (8 * level + die.toNat)

/-- Changes a link. -/
def State.modLink (s : State) (level : Nat) (die : BitVec 3) (f : Link → Link) : State :=
  { s with links := s.links.set Link.init (8 * level + die.toNat) (f (s.link level die)) }

/-- A direction of a port. -/
def Link.way (l : Link) (cw : Bool) : Way := if cw then l.cw else l.ccw

/-- Changes a direction of a port. -/
def Link.modWay (l : Link) (cw : Bool) (f : Way → Way) : Link := if cw then { l with cw := f l.cw } else { l with ccw := f l.ccw }

/-- A link that can be up: of ring level 1, 2 or 3, trained. -/
def State.linkUp (s : State) (level : Nat) (die : BitVec 3) : Bool := decide (level ≠ 0) && (s.link level die).trained

/-! ## Messages that leave (R302, R306) -/

/-- A message of some slots, which can be sent at once. -/
def Msg.make (s : State) (dpkg : BitVec 21) (dep sep : BitVec 12) (vc : BitVec 3) (stag : BitVec 21) (body : Body) (slots : Nat) : Msg :=
  { dpkg := dpkg, dep := dep, sep := sep, vc := vc, stag := stag, code := 0, body := body, who := none, slots := slots, left := slots
    since := s.cycle, turned := false, seq := 0, busy := 0 }

/-- A message waits at the bridge station of its source's die (R302, R303). -/
def State.post (s : State) (m : Msg) : State := { s with waiting := s.waiting ++ [m] }

/-- The die whose ports a message leaves by: its source's (R303 rule 1). -/
def Msg.die (m : Msg) : BitVec 3 := slice m.sep 9 3

/-- The core on whose behalf a message travels. -/
def Msg.core (m : Msg) : Nat :=
  match m.body with
  | .request q => endCore q.issuer.2
  | .part k => k.core.toNat
  | .reply _ _ | .slot _ | .setup => endCore m.sep

/-- A message of an operation or channel of a core has not left yet. -/
def State.stillHere (s : State) (c : Nat) (w : Claimant) : Bool := s.waiting.any (fun m => decide (m.who = some w) && decide (m.core = c))

/-- A tenant message (R302). -/
def Msg.tenant (m : Msg) : Bool := decide (m.vc.toNat ≤ 3)

/-- The level and direction of the ring by which a message leaves. -/
def State.wayOf (s : State) (m : Msg) : Option (Nat × Bool) := (nextRing s.pkg m.dpkg).map (fun r => (r.1, r.2 != m.turned))

/-- A request of a unit of this package (R441). -/
def Msg.asks (m : Msg) : Bool :=
  match m.body with
  | .request _ => true
  | .reply _ _ | .part _ | .slot _ | .setup => false

/-- A message of the session that sets a link up (R308). -/
def Msg.isSetup (m : Msg) : Bool := decide (m.body = .setup)

/-- The code with which a bridge station turns back a message that it cannot send (R303, R306, R307, R441): LINK where no package is
fitted at the position addressed, neither direction is usable, or a request would leave in reduced service; TAG where a package tag would
leave or the port has no key for the tag. The reply TAG itself leaves (log 16). -/
def State.turnsBack (s : State) (m : Msg) : Option (BitVec 8) :=
  match nextRing s.pkg m.dpkg with
  | none => none
  | some (lv, _) =>
    let l := s.link lv m.die
    if s.unfitted.get false (ringTarget lv s.pkg m.dpkg).toNat then some 0x0D
    else if !m.tenant then none
    else if decide (m.code ≠ 0x0B) && (!m.stag.getLsbD 20 || !l.tags.contains m.stag) then some 0x0B
    else if decide (s.dev.svc = 1) && m.asks then some 0x0D
    else if l.cw.protected_ && l.ccw.protected_ then some 0x0D
    else none

/-- A waiting tenant message whose direction is in protected mode goes the other way round, and stays on that way (R306). -/
def State.reroute (s : State) (m : Msg) : Msg :=
  match s.wayOf m with
  | none => m
  | some (lv, cw) => if m.tenant && ((s.link lv m.die).way cw).protected_ then { m with turned := !m.turned } else m

/-- A direction has a credit left for a slot of a virtual channel (R306). -/
def Way.credit (w : Way) (vc : BitVec 3) : Bool := decide (w.used.get 0 vc.toNat < w.credits.get 2 vc.toNat)

/-- A port's link takes a slot of a message now: in set-up only one of the session that sets it up, once keyed any other (R308); a
direction in protected mode carries management and time alone; and there is a credit for it (R306). -/
def State.linkTakes (s : State) (m : Msg) (lv : Nat) (cw : Bool) : Bool :=
  let l := s.link lv m.die
  l.trained && (l.keyed != m.isSetup) && !((l.way cw).protected_ && m.tenant) && (l.way cw).credit m.vc

/-- The virtual channel that a port serves next among messages in queue order (R302): time, then one whose head has waited 1,024 ring
cycles, then by priority. -/
def pickVc (now : Nat) (ms : List Msg) : Option (BitVec 3) :=
  let head (v : BitVec 3) : Option Msg := ms.find? (fun m => decide (m.vc = v))
  let old (v : BitVec 3) : Bool := (head v).any (fun m => decide (m.since + 1024 * ringCycles ≤ now))
  if (head 5).isSome then some 5
  else
    match [(4 : BitVec 3), 1, 2, 3, 0].find? old with
    | some v => some v
    | none => [(4 : BitVec 3), 1, 2, 3, 0].find? (fun v => (head v).isSome)

/-- The slice whose bandwidth a message uses; 32 stands for the slots of other packages on their way through (R302; log 16). -/
def State.msgSlice (s : State) (m : Msg) : Nat :=
  match m.body with
  | .slot _ => 32
  | _ => ((s.slices.find? (fun (x : Nat × Slice) => decide (x.2.stag = m.stag))).map (fun x => x.1)).getD 32

/-- A slice's weight at the port of a level and die (R302, R387). -/
def State.weight (s : State) (sl lv : Nat) (die : BitVec 3) : Nat :=
  if sl = 32 then 1 else ((s.slices.get Slice.init sl).weights.getD (8 * (lv - 1) + die.toNat) 1).toNat

/-- The slice served next by weighted round robin, with the slots left to it after this one (R302). -/
def State.pickSlice (s : State) (w : Way) (lv : Nat) (die : BitVec 3) (sls : List Nat) : Nat × Nat :=
  if 0 < w.share ∧ w.turn ∈ sls then (w.turn, w.share - 1)
  else
    let n := (((List.range 33).map (fun j => (w.turn + 1 + j) % 33)).find? (fun x => decide (x ∈ sls))).getD w.turn
    (n, s.weight n lv die - 1)

/-- The messages that a port's direction could serve: those of its way that its link takes and that are the first of their source and
virtual channel, in queue order. -/
def State.portQueue (s : State) (lv : Nat) (die : BitVec 3) (cw : Bool) : List Msg :=
  let mine := s.waiting.filter (fun m =>
    decide (m.since ≤ s.cycle) && decide (m.die = die) && decide (s.wayOf m = some (lv, cw)) && s.linkTakes m lv cw)
  mine.foldl (fun l m => if l.any (fun x => decide (x.sep = m.sep ∧ x.vc = m.vc)) then l else l ++ [m]) []

/-- The message that a port's direction serves next, with the slice's turn (R302). -/
def State.pickMsg (s : State) (lv : Nat) (die : BitVec 3) (cw : Bool) : Option (Msg × Nat × Nat) :=
  let ms := s.portQueue lv die cw
  match pickVc s.cycle ms with
  | none => none
  | some v =>
    let of := ms.filter (fun m => decide (m.vc = v))
    let w := (s.link lv die).way cw
    if 4 ≤ v.toNat then of.head?.map (fun m => (m, w.turn, w.share))
    else
      let (sl, left) := s.pickSlice w lv die (of.map (fun m => s.msgSlice m))
      (of.find? (fun m => decide (s.msgSlice m = sl))).map (fun m => (m, sl, left))

/-- Key of the next sequence number of a source endpoint on a virtual channel (R301). -/
def seqKey (sep : BitVec 12) (vc : BitVec 3) : Nat := 8 * sep.toNat + vc.toNat

/-- KIND of a slot that a unit of this package sends: free, but not the set-up kind (R301; log 16). -/
def freeKind (n : Nat) : BitVec 4 :=
  let k := Config.freeValue 4 n
  if k = 0xF then 0 else k

/-- A message has its sequence numbers: its first slot has left, or has been refused (R301, R305). -/
def Msg.numbered (m : Msg) : Bool := decide (m.left ≠ m.slots) || decide (m.busy ≠ 0)

/-- The sequence number of a message's first slot: a message's numbers follow one another (R301). -/
def State.seqOf (s : State) (m : Msg) : BitVec 16 := if m.numbered then m.seq else s.seqs.get 0 (seqKey m.sep m.vc)

/-- The next slot of a message (R301): kind, length and payload as the sending unit sets them, which are free (log 16). -/
def State.nextSlot (s : State) (m : Msg) : Slot :=
  match m.body with
  | .slot x => x
  | _ =>
    { dpkg := m.dpkg, dep := m.dep, spkg := s.pkg, sep := m.sep, vc := m.vc, stag := m.stag, seq := s.seqOf m + BitVec.ofNat 16 (m.slots - m.left)
      kind := if m.isSetup then 0xF else freeKind s.free, elder := false, first := decide (m.left = m.slots), last := decide (m.left ≤ 1)
      len := BitVec.ofNat 8 ((Config.freeValue 8 (s.free + 1)).toNat % 129), code := m.code, payload := Config.freeValue 1024 (s.free + 2) }

/-- What is left of a message after a slot. -/
def Msg.sent (m : Msg) : List Msg := if m.left ≤ 1 then [] else [{ m with left := m.left - 1 }]

/-- The first of equal messages is replaced. -/
def replaceMsg (m : Msg) (new : List Msg) : List Msg → List Msg
  | [] => []
  | x :: r => if x = m then new ++ r else x :: replaceMsg m new r

/-- The same message, by its source's sequence number. -/
def Msg.same (m n : Msg) : Bool := n.numbered && decide (n.sep = m.sep) && decide (n.vc = m.vc) && decide (n.seq = m.seq)

/-- A slot of a message leaves: a new message takes its sequence numbers, and stands among those that may be refused (R301, R305). -/
def State.number (s : State) (m : Msg) : State :=
  let m' := { m with seq := s.seqOf m }
  { s with
    waiting := replaceMsg m m'.sent s.waiting
    sent := m' :: s.sent.filter (fun n => !(decide (n.sep = m.sep) && decide (n.vc = m.vc) && decide (n.seq = m'.seq)))
    seqs := if m.numbered then s.seqs else s.seqs.set 0 (seqKey m.sep m.vc) (m'.seq + BitVec.ofNat 16 m.slots)
    free := s.free + 3 }

/-- A port's direction puts a slot on its ring, which takes a credit (R302, R306). -/
def State.inject (s : State) (lv : Nat) (die : BitVec 3) (cw : Bool) : State :=
  match s.pickMsg lv die cw with
  | none => s
  | some (m, turn, share) =>
    let x := s.nextSlot m
    let t := s.modLink lv die (fun l => l.modWay cw (fun w =>
      { w with out := some x, turn := turn, share := share, used := w.used.upd 0 m.vc.toNat (fun n => n + 1) }))
    match m.body with
    | .slot _ => { t with waiting := replaceMsg m [] t.waiting }
    | _ => t.number m

/-- The ports' directions that messages wait for. -/
def State.busyPorts (s : State) : List (Nat × BitVec 3 × Bool) :=
  (s.waiting.filterMap (fun m => (s.wayOf m).map (fun w => (w.1, m.die, w.2)))).eraseDups

/-- Credits that slots have taken come back: how many by now is free (R306; log 16). -/
def Way.back (w : Way) (free : Nat) : Way :=
  { w with used := (List.range 6).foldl (fun (t : Tbl Nat) v =>
      t.upd 0 v (fun u => u - (Config.freeValue 8 (free + v)).toNat % (u + 1))) w.used }

/-- Credits come back at the ports that messages wait for (R306). -/
def State.creditsBack (s : State) : State :=
  s.busyPorts.foldl (fun (s : State) p =>
    if ((s.link p.1 p.2.1).way p.2.2).used = [] then s
    else { s.modLink p.1 p.2.1 (fun l => l.modWay p.2.2 (fun w => w.back s.free)) with free := s.free + 6 }) s

/-- A ring cycle at the bridge ports: messages are rerouted, and every direction puts one slot on its ring (R302, R306). -/
def State.injectAll (s : State) : State :=
  let s := ({ s with waiting := s.waiting.map s.reroute } : State).creditsBack
  s.busyPorts.foldl (fun s p => s.inject p.1 p.2.1 p.2.2) s

end Sys2Proof.Machine
end

