-- ==== Sys2Proof/Machine/Window.lean ====
section
/-!
DEFINITION. Windows (R310 to R314): remote address words, package maps, the checks of the bridge station, and the reads and
writes of this package's memory that a request through a window makes.
-/

namespace Sys2Proof.Machine

/-- Bits of a window entry that a write keeps (R312). -/
def windowBits : BitVec 128 := 0xFFFFFFFFFFFFFFFFFFFF8000000000F8

/-- VPKG of a remote address word (R310). -/
def remotePkg (a : W64) : Nat := (slice a 43 21).toNat

/-- WIN of a remote address word. -/
def remoteWin (a : W64) : Nat := (slice a 36 7).toNat

/-- OFF of a remote address word. -/
def remoteOff (a : W64) : Nat := (slice a 0 36).toNat

/-- The physical package of a slice's virtual package (R311); none gives NOPKG. -/
def State.pkgOf (s : State) (sliceNo vpkg : Nat) : Option (BitVec 21) :=
  let e := (s.slices.get Slice.init sliceNo).pkgmap.get 0 vpkg
  if e.getLsbD 63 then some (slice e 42 21) else none

/-- What a request asks of a window (R312). -/
inductive WinUse where
  | read | write | atomic | opk
  /-- a node of CHASE, ENQ or DEQ: R and O (R319) -/
  | node
  deriving DecidableEq, Repr

/-- A window entry permits a use. -/
def winPermits (e : BitVec 128) (u : WinUse) : Bool :=
  match u with
  | .read => e.getLsbD 6
  | .write => e.getLsbD 5
  | .atomic => e.getLsbD 4
  | .opk => e.getLsbD 3
  | .node => e.getLsbD 6 && e.getLsbD 3

/-- Why a request through a window does not perform: a negative reply with its code (R314), or a physical address where the
package has no memory. -/
inductive WinErr where
  | nack (code : BitVec 8)
  | gone (pa : Nat)
  deriving DecidableEq, Repr

/-- The reply code of what a translation or an access meets at the target (R313, R314). -/
def MemErr.reply (x : MemErr) : WinErr :=
  let code (c : BitVec 8) : BitVec 8 :=
    if c = 0x12 then 0x08 else if c = 0x13 then 0x09 else if c = 0x14 then 0x0A else 0x07
  match x with
  | .miss st _ _ _ _ => .nack (if st then 0x06 else 0x05)
  | .missAt m => .nack (if m.stage2 then 0x06 else 0x05)
  | .later => .nack 0x05
  | .trap c _ => .nack (code c)
  | .trapAt c _ _ => .nack (code c)
  | .gone pa => .gone pa

/-- Whose memory a request names and on whose behalf: the target slice with the stage-1 root its windows translate with
(log 23), and the slice tag the slot carries. -/
structure Target where
  slice : Nat
  s1root : W64
  stag : BitVec 21
  deriving DecidableEq, Repr

/-- The bridge station's checks of a request for `n` bytes, up to translation (R313). -/
def State.windowVa (s : State) (t : Target) (win off n : Nat) (u : WinUse) : Except WinErr Nat :=
  let e := (s.slices.get Slice.init t.slice).windows.get 0 win
  let pages := (slice e 68 24).toNat
  if !e.getLsbD 7 || pages = 0 then .error (.nack 0x02)
  else if t.stag ≠ slice e 47 21 then .error (.nack 0x0B)
  else if pages * 4096 ≤ off + n - 1 then .error (.nack 0x03)
  else if !winPermits e u then .error (.nack 0x04)
  else .ok (((slice e 92 36).toNat * 4096 + off) % 2 ^ 48)

/-- A request of `n` bytes within one sector reaches its home (R313): translated afresh, a write marking its leaf (R367),
with the key checked. -/
def State.windowLoc (s : State) (t : Target) (win off n : Nat) (u : WinUse) (acc : Access) : Except WinErr (Loc × State) :=
  match s.windowVa t win off n u with
  | .error x => .error x
  | .ok va =>
    match s.walk t.slice t.s1root (s.slices.get Slice.init t.slice).s2root va acc with
    | .error x => .error x.reply
    | .ok (x, _) =>
      if !physExists x.pa then .error (.gone x.pa)
      else
        let s := s.readTables t.slice x.seen
        let s := if acc.writes && !x.dirty then s.markDirty t.slice x.leafPa else s
        let held := s.holder (x.pa / 256)
        let tag :=
          match held with
          | some (c, q) => (s.row c q).key
          | none => s.keyAt (x.pa / 32)
        let region :=
          match held with
          | some (c, q) => (s.row c q).region
          | none => x.region
        let ro :=
          match held with
          | some (c, q) => (s.row c q).bound && (s.row c q).ro
          | none => false
        if tag ≠ x.key then .error (.nack 0x08)
        else if ro && acc.writes then .error (.nack 0x07)
        else
          .ok ({ pa := x.pa, key := x.key, region := region, held := held },
            match held with
            | some (c, q) => s.useBanks c q (bit true (x.pa / 32 % 8)) dirRank
            | none => s.l2request t.slice x.pa)

/-- The pieces of `n` bytes from an offset that lie within one sector each. -/
def pieces : Nat → Nat → Nat → List (Nat × Nat)
  | 0, _, _ => []
  | fuel + 1, off, n =>
    if n = 0 then []
    else
      let m := min n (32 - off % 32)
      (off, m) :: pieces fuel (off + m) (n - m)

/-- Reads `n` bytes at an offset of a window, as the home does for a plain remote request: a metered frame replies METER, a
poisoned sector POISON (R314). -/
def State.windowRead (s : State) (t : Target) (win off n : Nat) (u : WinUse) : Except WinErr (Nat × State) :=
  (pieces 4 off n).foldl (fun r p =>
    match r with
    | .error x => .error x
    | .ok (v, s) =>
      match s.windowLoc t win p.1 p.2 u .read with
      | .error x => .error x
      | .ok (l, s) =>
        if l.region ≠ 0 then .error (.nack 0x09)
        else if (s.sector (l.pa / 32)).2.1 then .error (.nack 0x0A)
        else .ok (v + s.physRead l.pa p.2 * 2 ^ (8 * (p.1 - off)), s)) (.ok (0, s))

/-- Writes `n` bytes at an offset of a window. -/
def State.windowWrite (s : State) (t : Target) (win off n : Nat) (u : WinUse) (v : Nat) : Except WinErr State :=
  (pieces 4 off n).foldl (fun r p =>
    match r with
    | .error x => .error x
    | .ok s =>
      match s.windowLoc t win p.1 p.2 u .write with
      | .error x => .error x
      | .ok (l, s) =>
        if l.region ≠ 0 then .error (.nack 0x09)
        else .ok (s.store t.slice l.pa p.2 (v / 2 ^ (8 * (p.1 - off))) 0)) (.ok s)

/-- A read-modify-write of `n` aligned bytes at an offset of a window (R317): the old value, and the new one where `f` gives
one. -/
def State.windowRw (s : State) (t : Target) (win off n : Nat) (u : WinUse) (f : Nat → Option Nat) :
    Except WinErr (Nat × State) :=
  match s.windowLoc t win off n u .rw with
  | .error x => .error x
  | .ok (l, s) =>
    if l.region ≠ 0 then .error (.nack 0x09)
    else if (s.sector (l.pa / 32)).2.1 then .error (.nack 0x0A)
    else
      let old := s.physRead l.pa n
      match f old with
      | none => .ok (old, s)
      | some v => .ok (old, s.physWrite l.pa n v 0)

end Sys2Proof.Machine
end

