-- ==== Sys2Proof/Machine/Remote.lean ====
section
/-!
DEFINITION. Remote instructions (R315 to R328): issue, departure, the request served at a window and by the memory-side agent,
and the reply.
-/

namespace Sys2Proof

/-- The request that a remote instruction makes (R323 to R327). -/
def Instr.request (i : Instr) : Option ReqKind :=
  match i with
  | .rld t _ _ _ => some (.read t)
  | .rst t _ _ _ => some (.write t)
  | .ratm op _ _ _ _ => some (.atm op)
  | .rcas t _ _ _ _ => some (.cas t)
  | .casn _ _ _ _ => some .casn
  | .enq _ _ _ _ => some .enq
  | .deq _ _ _ _ => some .deq
  | .chase _ _ _ _ => some .chase
  | .fadd _ _ _ _ => some .fadd
  | .fminloc _ _ _ _ => some .fminloc
  | _ => none

/-- Bytes of RCAS (R326). -/
def RcasTy.bytes : RcasTy → Nat
  | .n64 => 8
  | .n32 => 4
  | .pair => 16

/-- The access size that a request's address is aligned to (R319, R323); a run of a copy names its bytes itself. -/
def ReqKind.size : ReqKind → Nat
  | .read t => t.bytes
  | .write t => t.bytes
  | .atm _ => 8
  | .cas t => t.bytes
  | .fminloc => 16
  | .casn | .enq | .deq | .chase | .fadd | .linkRead | .linkWrite => 8
  | .copyRead | .copyWrite | .peerRead | .peerWrite _ => 1

/-- One of the operations of ROPK (R327). -/
def ReqKind.isOpk : ReqKind → Bool
  | .casn | .enq | .deq | .chase | .fadd | .fminloc => true
  | .read _ | .write _ | .atm _ | .cas _ | .linkRead | .linkWrite | .copyRead | .copyWrite | .peerRead | .peerWrite _ => false

/-- What a request asks of the window of its target address (R312, R319). -/
def ReqKind.use : ReqKind → Machine.WinUse
  | .read _ | .copyRead | .peerRead => .read
  | .write _ | .copyWrite | .peerWrite _ => .write
  | .atm _ | .cas _ => .atomic
  | .casn | .fadd | .fminloc => .opk
  | .enq | .deq | .chase | .linkRead | .linkWrite => .node

end Sys2Proof

namespace Sys2Proof.Machine

/-! ## The memory-side agent (R317 to R320) -/

/-- A request at its target, with the links that a forwarded CHASE has followed. -/
structure ReqIn where
  kind : ReqKind
  win : Nat
  off : Nat
  parm : W64
  pkt : BitVec 512
  links : Nat
  deriving DecidableEq, Repr

/-- What an agent asks of another package for a request that it serves (R320): the package and place of the node, and what to do
there: the rest of a CHASE, or the read or write of a link for an ENQ or DEQ whose head word is `data`. -/
structure Hand where
  pkg : BitVec 21
  win : Nat
  off : Nat
  links : Nat
  kind : ReqKind
  data : W64
  deriving DecidableEq, Repr

/-- What becomes of a request: a reply with the state it leaves, a node on another package to which it goes on, or a
physical address where the package has no memory. -/
inductive Served where
  | reply (r : ReplyData) (s : State)
  | away (h : Hand)
  | gone (pa : Nat)

/-- A negative reply (R314). -/
def nackReply (code : BitVec 8) : ReplyData := { code := code, value := 0, status := 0, pkt := 0 }

/-- The reply to a request that failed; nothing has been written. -/
def Served.failed (s : State) (x : WinErr) : Served :=
  match x with
  | .nack c => .reply (nackReply c) s
  | .gone pa => .gone pa

/-- NIL (R318). -/
def nil64 : W64 := BitVec.allOnes 64

/-- Word k of an operand packet (R318). -/
def packetWord (p : BitVec 512) (k : Nat) : W64 := slice p (64 * k) 64

/-- A packet with some of its words replaced, from p0 on. -/
def packetPut (p : BitVec 512) (ws : List W64) : BitVec 512 :=
  (ws.zipIdx).foldl (fun (p : BitVec 512) (w : W64 × Nat) => (p &&& ~~~(((BitVec.allOnes 64).setWidth 512) <<< (64 * w.2))) |||
    ((w.1.setWidth 512) <<< (64 * w.2))) p

/-- N of a parameter word (R318). -/
def parmN (p : W64) : Nat := (slice p 0 6).toNat

/-- OFF of a parameter word. -/
def parmOff (p : W64) : Nat := (slice p 8 16).toNat

/-- KOFF of a parameter word. -/
def parmKoff (p : W64) : Nat := (slice p 24 16).toNat

/-- The stride of CASN and FADD (R319). -/
def parmStride (p : W64) : Nat := if parmOff p = 0 then 8 else parmOff p

/-- OFF outside its range for CASN and FADD (R319). -/
def strideBad (p : W64) : Bool := !decide (parmStride p % 8 = 0) || !decide (parmStride p ≤ 248)

/-- Parameters that R319 answers with OPK. -/
def opkBad (q : ReqIn) : Bool :=
  decide (slice q.parm 40 24 ≠ 0#24) || q.parm.getLsbD 7 ||
    (match q.kind with
      | .casn => decide (parmN q.parm = 0 ∨ 4 < parmN q.parm) || strideBad q.parm
      | .fadd => decide (parmN q.parm = 0 ∨ 8 < parmN q.parm) || strideBad q.parm
      | .enq => decide (parmN q.parm ≠ 0) || decide (packetWord q.pkt 0 = nil64)
      | .deq => decide (parmN q.parm ≠ 0)
      | .fminloc => decide (parmN q.parm ≠ 0)
      | .chase => false
      | .read _ | .write _ | .atm _ | .cas _ | .linkRead | .linkWrite => false
      | .copyRead | .copyWrite | .peerRead | .peerWrite _ => false)

/-- The status word (R318). -/
def opkStatus (links : Nat) (ok : Bool) : W64 := field (BitVec.ofNat 7 links) 8 ||| bit ok 0

/-- A positive reply of ROPK. -/
def opkReply (status : W64) (pkt : BitVec 512) : ReplyData := { code := 0, value := 0, status := status, pkt := pkt }

/-- Offsets of the words of CASN and FADD. -/
def opkOffs (q : ReqIn) : List Nat := (List.range (parmN q.parm)).map (fun k => q.off + k * parmStride q.parm)

/-- Reads the words at some offsets with permission to write them. -/
def State.opkRead (s : State) (t : Target) (win : Nat) (offs : List Nat) : Except WinErr (List W64 × State) :=
  offs.foldl (fun r o =>
    match r with
    | .error x => .error x
    | .ok (ws, s) =>
      match s.windowRw t win o 8 .opk (fun _ => none) with
      | .error x => .error x
      | .ok (v, s) => .ok (ws ++ [BitVec.ofNat 64 v], s)) (.ok ([], s))

/-- Writes words at some offsets. -/
def State.opkWrite (s : State) (t : Target) (win : Nat) (ws : List (Nat × W64)) : Except WinErr State :=
  ws.foldl (fun r w =>
    match r with
    | .error x => .error x
    | .ok s =>
      match s.windowRw t win w.1 8 .opk (fun _ => some w.2.toNat) with
      | .error x => .error x
      | .ok (_, s) => .ok s) (.ok s)

/-- CASN and FADD at the agent (R319). -/
def State.serveWords (s : State) (t : Target) (q : ReqIn) : Served :=
  if 256 < q.off % 256 + (parmN q.parm - 1) * parmStride q.parm + 8 then .reply (nackReply 0x03) s
  else
    match s.opkRead t q.win (opkOffs q) with
    | .error x => .failed s x
    | .ok (old, s1) =>
      let equal := ((old.zipIdx).all (fun w => w.1 = packetWord q.pkt w.2))
      let new : List W64 :=
        match q.kind with
        | .casn => if equal then (List.range old.length).map (fun k => packetWord q.pkt (4 + k)) else []
        | _ => (old.zipIdx).map (fun w => w.1 + packetWord q.pkt w.2)
      let ok := match q.kind with
        | .casn => equal
        | _ => true
      match s1.opkWrite t q.win ((opkOffs q).zip new) with
      | .error x => .failed s x
      | .ok s2 => .reply (opkReply (opkStatus 0 ok) (packetPut q.pkt old)) s2

/-- FMINLOC at the agent (R319). -/
def State.serveMinloc (s : State) (t : Target) (q : ReqIn) : Served :=
  let p := packetWord q.pkt
  let take (old : Nat) : Bool :=
    let a : W64 := BitVec.ofNat 64 old
    let b : W64 := BitVec.ofNat 64 (old / 2 ^ 64)
    let x := p 0 &&& p 2
    let y := a &&& p 2
    (if q.parm.getLsbD 6 then x.slt y else x.ult y) || (x == y && (p 1).ult b)
  match s.windowRw t q.win q.off 16 .opk (fun old => if take old then some ((p 0).toNat + (p 1).toNat * 2 ^ 64) else none) with
  | .error x => .failed s x
  | .ok (old, s) =>
    .reply (opkReply (opkStatus 0 (take old))
      (packetPut q.pkt [BitVec.ofNat 64 old, BitVec.ofNat 64 (old / 2 ^ 64)])) s

/-- The package on which a pointer's node lies; none where the map names none (R311, R318). -/
def State.nodeAt (s : State) (t : Target) (p : W64) : Option (BitVec 21) := s.pkgOf t.slice (remotePkg p)

/-- The link word of a node on another package, to be read or written there (R319, R320). -/
def linkHand (k : BitVec 21) (q : ReqIn) (p : W64) (kind : ReqKind) (data : W64) : Hand :=
  { pkg := k, win := remoteWin p, off := remoteOff p + parmOff q.parm, links := 0, kind := kind, data := data }

/-- The head word of an ENQ or DEQ (R317, R319): what it read before it asked another package, whose answer carries it, or what stands
there. -/
def State.headWord (s : State) (t : Target) (q : ReqIn) (far : Option ReplyData) : Except WinErr (Nat × State) :=
  match far with
  | some r => .ok (r.status.toNat, s)
  | none => s.windowRw t q.win q.off 8 .node (fun _ => none)

/-- ENQ at the agent (R319); `far` answers for a node on another package. -/
def State.serveEnq (s : State) (t : Target) (q : ReqIn) (far : Option ReplyData) : Served :=
  let p := packetWord q.pkt 0
  match s.headWord t q far with
  | .error x => .failed s x
  | .ok (head, s1) =>
    let finish (s2 : State) : Served :=
      match s2.windowRw t q.win q.off 8 .node (fun _ => some p.toNat) with
      | .error x => .failed s x
      | .ok (_, s3) => .reply (opkReply (opkStatus 0 true) (packetPut q.pkt [BitVec.ofNat 64 head])) s3
    match s.nodeAt t p with
    | none => .reply (nackReply 0x01) s
    | some k =>
      if k = s.pkg then
        match s1.windowWrite t (remoteWin p) (remoteOff p + parmOff q.parm) 8 .node head with
        | .error x => .failed s x
        | .ok s2 => finish s2
      else
        match far with
        | none => .away (linkHand k q p .linkWrite (BitVec.ofNat 64 head))
        | some r => if r.code ≠ 0 then .reply (nackReply r.code) s else finish s1

/-- DEQ at the agent (R319). -/
def State.serveDeq (s : State) (t : Target) (q : ReqIn) (far : Option ReplyData) : Served :=
  match s.headWord t q far with
  | .error x => .failed s x
  | .ok (h, s1) =>
    let p : W64 := BitVec.ofNat 64 h
    if p = nil64 then .reply (opkReply (opkStatus 0 false) (packetPut q.pkt [nil64, nil64])) s
    else
      let finish (link : W64) (s2 : State) : Served :=
        match s2.windowRw t q.win q.off 8 .node (fun _ => some link.toNat) with
        | .error x => .failed s x
        | .ok (_, s3) => .reply (opkReply (opkStatus 0 true) (packetPut q.pkt [p, link])) s3
      match s.nodeAt t p with
      | none => .reply (nackReply 0x01) s
      | some k =>
        if k = s.pkg then
          match s1.windowRead t (remoteWin p) (remoteOff p + parmOff q.parm) 8 .node with
          | .error x => .failed s x
          | .ok (v, s2) => finish (BitVec.ofNat 64 v) s2
        else
          match far with
          | none => .away (linkHand k q p .linkRead p)
          | some r => if r.code ≠ 0 then .reply (nackReply r.code) s else finish (slice r.value 0 64) s1

/-- The final reply of a CHASE at a node (R319). -/
def State.chaseEnd (s : State) (t : Target) (q : ReqIn) (win off links : Nat) (ok : Bool) : Served :=
  match s.windowRead t win (off / 64 * 64) 64 .node with
  | .error x => .failed s x
  | .ok (v, s) => .reply (opkReply (opkStatus links ok) (packetPut q.pkt ((List.range 8).map (fun k => BitVec.ofNat 64 (v / 2 ^ (64 * k)))))) s

/-- CHASE from a node of this package on, `left` more links to follow and `links` followed (R319, R320). -/
def State.chase (s : State) (t : Target) (q : ReqIn) : Nat → Nat → Nat → Nat → Served
  | left, links, win, off =>
    match s.windowRead t win (off + parmKoff q.parm) 8 .node with
    | .error x => .failed s x
    | .ok (key, s) =>
      let m := packetWord q.pkt 1
      if (BitVec.ofNat 64 key) &&& m = packetWord q.pkt 0 &&& m then s.chaseEnd t q win off links true
      else
        match left with
        | 0 => s.chaseEnd t q win off links false
        | left + 1 =>
          match s.windowRead t win (off + parmOff q.parm) 8 .node with
          | .error x => .failed s x
          | .ok (v, s) =>
            let p : W64 := BitVec.ofNat 64 v
            if p = nil64 then .reply (opkReply (opkStatus (links + 1) false) (BitVec.allOnes 512)) s
            else
              match s.nodeAt t p with
              | none => .reply (nackReply 0x01) s
              | some k =>
                if k = s.pkg then State.chase s t q left (links + 1) (remoteWin p) (remoteOff p)
                else
                  .away { pkg := k, win := remoteWin p, off := remoteOff p, links := links + 1, kind := .chase, data := 0 }

/-- A request is served at its target (R313, R317, R319). `far` is the answer of another package to a forward (R320). Runs of copies
are served by `State.serveRun`. -/
def State.serve (s : State) (t : Target) (q : ReqIn) (far : Option ReplyData) : Served :=
  let n := q.kind.size
  match q.kind with
  | .read _ =>
    match s.windowRead t q.win q.off n .read with
    | .error x => .failed s x
    | .ok (v, s) => .reply { code := 0, value := BitVec.ofNat 128 v, status := 0, pkt := 0 } s
  | .write _ =>
    match s.windowWrite t q.win q.off n .write q.pkt.toNat with
    | .error x => .failed s x
    | .ok s => .reply { code := 0, value := 0, status := 0, pkt := 0 } s
  | .atm op =>
    match s.windowRw t q.win q.off n .atomic (fun old => some (op.apply 64 (BitVec.ofNat 64 old) (slice q.pkt 0 64)).toNat) with
    | .error x => .failed s x
    | .ok (v, s) => .reply { code := 0, value := BitVec.ofNat 128 v, status := 0, pkt := 0 } s
  | .cas _ =>
    match s.windowRw t q.win q.off n .atomic (fun old =>
        if old = q.pkt.toNat % 2 ^ (8 * n) then some ((slice q.pkt 128 128).toNat % 2 ^ (8 * n)) else none) with
    | .error x => .failed s x
    | .ok (v, s) => .reply { code := 0, value := BitVec.ofNat 128 v, status := 0, pkt := 0 } s
  | .linkRead =>
    match s.windowRead t q.win q.off n .node with
    | .error x => .failed s x
    | .ok (v, s) => .reply { code := 0, value := BitVec.ofNat 128 v, status := 0, pkt := 0 } s
  | .linkWrite =>
    match s.windowWrite t q.win q.off n .node q.pkt.toNat with
    | .error x => .failed s x
    | .ok s => .reply { code := 0, value := 0, status := 0, pkt := 0 } s
  | .copyRead | .copyWrite | .peerRead | .peerWrite _ => .reply (nackReply 0x02) s
  | .casn | .enq | .deq | .chase | .fadd | .fminloc =>
    match s.windowVa t q.win q.off n q.kind.use with
    | .error x => .failed s x
    | .ok _ =>
      if opkBad q then .reply (nackReply 0x0E) s
      else
        match q.kind with
        | .enq => s.serveEnq t q far
        | .deq => s.serveDeq t q far
        | .chase =>
          match far with
          | some r => .reply r s
          | none => s.chase t q (parmN q.parm + 1 - q.links) q.links q.win q.off
        | .fminloc => s.serveMinloc t q
        | _ => s.serveWords t q

/-! ## Issue -/

/-- A remote instruction or an RFENCE. -/
def Instr.isRemote (i : Instr) : Bool := i.request.isSome

/-- Remote instructions outstanding (R323). -/
def Ctx.remotes (x : Ctx) : Nat := (x.ops.filter (fun o => Instr.isRemote o.instr)).length

/-- An RFENCE is outstanding. -/
def Ctx.rfenced (x : Ctx) : Bool :=
  x.ops.any (fun o =>
    match o.instr with
    | .rfence _ => true
    | _ => false)

/-- Needs of a remote instruction: it waits for room among 64 (R323) and for earlier RFENCEs (R328). -/
def State.needsRemote (s : State) (d x : Option GField) (w : BitVec 3) (ld st : Bool) : Needs :=
  { srcs := [x.bind GField.qref], dst := d.bind GField.push, tok := some w, ld := ld, st := st
    cond := if s.ctx.rfenced ∨ 64 ≤ s.ctx.remotes then some .order else none }

/-- Enters a remote instruction (R323): a misaligned address traps at issue and charges nothing. -/
def remoteEffect (i : Instr) (b : BitVec 4) (w : BitVec 3) (val val2 : Row) (d : GField) (ld st : Bool) (s : State) :
    State :=
  let a := s.cur.scu.ar b
  let n := (i.request.map (fun q => q.size)).getD 8
  if a.toNat % n ≠ 0 then s.groupTrap 0x10 a (BitVec.ofNat 64 n.log2)
  else
    let (s, qid) := s.reserveG d
    s.enterOp { PendOp.of i (some w) with ld := ld, st := st, addr := a, val := val, val2 := val2, qid := qid }

/-- Effect of a remote instruction whose second operand is the register `x`. -/
def remoteWith (i : Instr) (b : BitVec 4) (w : BitVec 3) (x d : GField) (val2 : Row) (ld st : Bool) (s : State) : State :=
  let (v, k) := s.cur.readG x
  remoteEffect i b w (v.setWidth 2048) val2 d ld st (s.setCore s.focus k)

/-- RLD (R324). -/
def execRld (t : LdTy) (d : GField) (b : BitVec 4) (w : BitVec 3) (s : State) : Host.Outcome State Fault Refusal :=
  s.issue (s.needsRemote (some d) none w true false) (remoteEffect (.rld t d b w) b w 0 0 d true false)

/-- RST (R324). -/
def execRst (t : StTy) (x : GField) (b : BitVec 4) (w : BitVec 3) (s : State) : Host.Outcome State Fault Refusal :=
  s.issue (s.needsRemote none (some x) w false true) (remoteWith (.rst t x b w) b w x (.r 0) 0 false true)

/-- RATM (R325). -/
def execRatm (op : AtOp) (d : GField) (b : BitVec 4) (x : GField) (w : BitVec 3) (s : State) :
    Host.Outcome State Fault Refusal :=
  s.issue (s.needsRemote (some d) (some x) w true true) (remoteWith (.ratm op d b x w) b w x d 0 true true)

/-- Effect of RCAS: g[d] supplies the expected value (R326); the pair form reads register pairs. -/
def rcasEffect (t : RcasTy) (d : GField) (b : BitVec 4) (x : GField) (w : BitVec 3) (s : State) : State :=
  match t with
  | .pair => remoteEffect (.rcas t d b x w) b w ((s.cur.pair x).setWidth 2048) ((s.cur.pair d).setWidth 2048) d true true s
  | _ => remoteWith (.rcas t d b x w) b w x d ((s.cur.readG d).1.setWidth 2048) true true s

/-- RCAS (R326). -/
def execRcas (t : RcasTy) (d : GField) (b : BitVec 4) (x : GField) (w : BitVec 3) (s : State) :
    Host.Outcome State Fault Refusal :=
  s.issue (s.needsRemote (some d) (some x) w true true) (rcasEffect t d b x w)

/-- Effect of a ROPK: parameter word in g[d], packet address in g[s] (R327). -/
def ropkEffect (i : Instr) (d : GField) (b : BitVec 4) (x : GField) (w : BitVec 3) (s : State) : State :=
  remoteWith i b w x d ((s.cur.readG d).1.setWidth 2048) true true s

/-- ROPK.CASN (R327). -/
def execCasn (d : GField) (b : BitVec 4) (x : GField) (w : BitVec 3) (s : State) : Host.Outcome State Fault Refusal :=
  s.issue (s.needsRemote (some d) (some x) w true true) (ropkEffect (.casn d b x w) d b x w)

/-- ROPK.ENQ (R327). -/
def execEnq (d : GField) (b : BitVec 4) (x : GField) (w : BitVec 3) (s : State) : Host.Outcome State Fault Refusal :=
  s.issue (s.needsRemote (some d) (some x) w true true) (ropkEffect (.enq d b x w) d b x w)

/-- ROPK.DEQ (R327). -/
def execDeq (d : GField) (b : BitVec 4) (x : GField) (w : BitVec 3) (s : State) : Host.Outcome State Fault Refusal :=
  s.issue (s.needsRemote (some d) (some x) w true true) (ropkEffect (.deq d b x w) d b x w)

/-- ROPK.CHASE (R327). -/
def execChase (d : GField) (b : BitVec 4) (x : GField) (w : BitVec 3) (s : State) : Host.Outcome State Fault Refusal :=
  s.issue (s.needsRemote (some d) (some x) w true true) (ropkEffect (.chase d b x w) d b x w)

/-- ROPK.FADD (R327). -/
def execFadd (d : GField) (b : BitVec 4) (x : GField) (w : BitVec 3) (s : State) : Host.Outcome State Fault Refusal :=
  s.issue (s.needsRemote (some d) (some x) w true true) (ropkEffect (.fadd d b x w) d b x w)

/-- ROPK.FMINLOC (R327). -/
def execFminloc (d : GField) (b : BitVec 4) (x : GField) (w : BitVec 3) (s : State) : Host.Outcome State Fault Refusal :=
  s.issue (s.needsRemote (some d) (some x) w true true) (ropkEffect (.fminloc d b x w) d b x w)

/-- RFENCE (R328): it takes no queue entry. -/
def execRfence (w : BitVec 3) (s : State) : Host.Outcome State Fault Refusal :=
  s.issue { tok := some w } (fun s => s.enterOp (PendOp.of (.rfence w) (some w)))

/-- RFENCE completes once every remote instruction issued before it has completed. -/
def performRfence (c : Nat) (o : PendOp) (s : State) : State :=
  if (s.core c).scu.ops.all (fun p => decide (o.num ≤ p.num) || !Instr.isRemote p.instr) then s.finish c .scu o.num else s

/-! ## Departure, check and reply -/

/-- The rows that hold a reply in an operation. -/
def replyRows (r : ReplyData) : List Row :=
  [r.code.setWidth 2048, r.value.setWidth 2048, r.status.setWidth 2048, r.pkt.setWidth 2048]

/-- The reply an operation holds. -/
def PendOp.reply? (o : PendOp) : Option ReplyData :=
  match o.rows with
  | [c, v, st, p] => some { code := slice c 0 8, value := slice v 0 128, status := slice st 0 64, pkt := slice p 0 512 }
  | _ => none

/-- Contexts whose saved state holds a core (R388). -/
def State.savedAt (s : State) (core : Nat) : List Nat :=
  (s.saved.filter (fun (e : Nat × Saved) => e.2.cores.any (fun (p : Nat × Core) => decide (p.1 = core)) &&
    (match (s.insts.get Inst.init e.1).status with
      | .saved _ => true
      | .parkedOut _ => true
      | _ => false))).map (fun e => e.1)

/-- A core of a saved context. -/
def State.savedCore (s : State) (n c : Nat) : Core := (s.saved.get Saved.init n).cores.get Core.init c

/-- Acts on a core of a saved context in its place: what changes of the core is what is saved of it (R393). -/
def State.atSaved (s : State) (n c : Nat) (f : State → State) : State :=
  let k := s.core c
  let t := f (s.setCore c (s.savedCore n c))
  ({ t with saved := t.saved.upd Saved.init n (fun (v : Saved) => { v with cores := v.cores.set Core.init c (t.core c) }) }).setCore c k

/-- An operation holds a reply. -/
def State.holdReply (s : State) (c num : Nat) (r : ReplyData) : State :=
  s.modOp c .scu num (fun o => { o with status := .departed, rows := replyRows r })

/-- Reads 64 aligned bytes of a stash (R327). -/
def State.stashPacket (s : State) (c : Nat) (a : W64) : Except MemErr (BitVec 512 × State) :=
  let a := a &&& ~~~(63#64)
  match s.stashRead c a 32 with
  | .error x => .error x
  | .ok (lo, s) =>
    match s.stashRead c (a + 32) 32 with
    | .error x => .error x
    | .ok (hi, s) => .ok (BitVec.ofNat 512 (lo + hi * 2 ^ 256), s)

/-- Writes 64 aligned bytes of a stash as one row write (R327). -/
def State.putPacket (s : State) (c : Nat) (a : W64) (p : BitVec 512) : Except MemErr State :=
  match s.touchPlain c (stashRow a) .write with
  | .error x => .error x
  | .ok s =>
    let off := (slice a 6 2).toNat * 64
    .ok (s.putRow c (stashRow a) ((p.setWidth 2048) <<< (8 * off)) (((BitVec.allOnes 64).setWidth 256) <<< off))

/-- The reply reaches its instruction (R315, R324 to R327): a negative one raises REMOTE_NACK, a positive one completes it. -/
def deliverReply (c : Nat) (o : PendOp) (r : ReplyData) (s : State) : Host.Outcome State Fault Refusal :=
  if r.code ≠ 0 then
    .next ((s.modOp c .scu o.num (fun o => { o with rows := [], mask := 0 })).opTrap c .scu o.num 0x30 o.addr (r.code.setWidth 64))
  else
    match o.instr with
    | .rld t d _ _ => .next (s.landG c o.num d o.qid (t.ext (r.value.toNat % 2 ^ (8 * t.bytes))))
    | .ratm _ d _ _ _ => .next (s.landG c o.num d o.qid (slice r.value 0 64))
    | .rcas .pair d _ _ _ => .next (s.send c .scu o.num (pairEff d r.value))
    | .rcas _ d _ _ _ => .next (s.landG c o.num d o.qid (slice r.value 0 64))
    | .casn d _ _ _ | .enq d _ _ _ | .deq d _ _ _ | .chase d _ _ _ | .fadd d _ _ _ | .fminloc d _ _ _ =>
      let a : W64 := slice o.val 0 64
      match s.putPacket c a r.pkt with
      | .error x => s.failOp c .scu o.num a .write x
      | .ok s => .next (s.landG c o.num d 0 r.status)
    | _ => .next (s.finish c .scu o.num)

/-- The slice, stage-1 root and tag on whose behalf a core's requests travel. -/
def State.ownTarget (s : State) (c : Nat) : Target :=
  { slice := (s.space c).slice, s1root := (s.space c).s1root, stag := (s.slices.get Slice.init (s.space c).slice).stag }

/-- The request of an operation that has departed. -/
def PendOp.reqIn (o : PendOp) (k : ReqKind) : ReqIn :=
  { kind := k, win := remoteWin o.addr, off := remoteOff o.addr, parm := slice o.val2 0 64, links := 0
    pkt :=
      if k.isOpk then slice o.val 64 512
      else
        match k with
        | .cas _ => (slice o.val2 0 128 : BitVec 128).setWidth 512 ||| ((slice o.val 0 128 : BitVec 128).setWidth 512 <<< 128)
        | _ => (slice o.val 0 64 : BitVec 64).setWidth 512 }

/-- A request of an operation of a core of this package as another package receives it: which slice it names there is the receiver's
to say. -/
def State.farReq (s : State) (c num : Nat) (q : ReqIn) : FarReq :=
  { spkg := s.pkg, sep := coreEnd c, issuer := (s.pkg, coreEnd c), num := num, die := BitVec.ofNat 3 (c / 256), slice := 0, stag := (s.ownTarget c).stag
    links := q.links, n := 0, core := 0, region := 0, win := BitVec.ofNat 7 q.win, off := BitVec.ofNat 36 q.off, kind := q.kind
    parm := q.parm, pkt := q.pkt, node := none }

/-- The message of a remote instruction to another package (R302). -/
def State.requestMsg (s : State) (c : Nat) (o : PendOp) (p : BitVec 21) (k : ReqKind) : Msg :=
  { Msg.make s p (homeEnd (c / 256)) (coreEnd c) 0 (s.ownTarget c).stag (.request (s.farReq c o.num (o.reqIn k))) 1 with
    who := some (.op .scu o.num) }

/-- The message by which an agent of this package hands on what a request needs of another (R320), for an issuer. -/
def State.forwardMsg (s : State) (r : FarReq) (h : Hand) (who : Option Claimant) : Msg :=
  { Msg.make s h.pkg (homeEnd r.die.toNat) (homeEnd r.die.toNat) 2 r.stag
      (.request { r with spkg := s.pkg, sep := homeEnd r.die.toNat, links := h.links, win := BitVec.ofNat 7 h.win, off := BitVec.ofNat 36 h.off
                         kind := h.kind
                         pkt := if h.kind = .chase then r.pkt else if h.kind = .linkWrite then h.data.setWidth 512 else 0 }) 1 with
    who := who }

/-- The message of a remote instruction departs (R307, R311, R316); an unmapped package, and a package tag that would leave the
package, reply at once. -/
def State.sendRequest (s : State) (c : Nat) (o : PendOp) : State :=
  let t := s.ownTarget c
  match s.pkgOf t.slice (remotePkg o.addr) with
  | none => s.holdReply c o.num (nackReply 0x01)
  | some p =>
    let gone := s.modOp c .scu o.num (fun o => { o with status := .departed, pkg := some p, first := s.cycle + 1 })
    if p = s.pkg then gone
    else if !t.stag.getLsbD 20 then s.holdReply c o.num (nackReply 0x0B)
    else if s.dev.svc = 1 then s.holdReply c o.num (nackReply 0x0D)
    else
      match o.instr.request with
      | none => gone
      | some k => gone.post (s.requestMsg c o p k)

/-- DEPARTURE of a remote instruction (R316, R327): ROPK reads its packet; an operation that already has its reply, whose
packet write met a fault, goes on with that write. -/
def departRemote (c : Nat) (o : PendOp) (s : State) : Host.Outcome State Fault Refusal :=
  match o.reply? with
  | some r => deliverReply c o r s
  | none =>
    if (o.instr.request.map ReqKind.isOpk).getD false then
      let a : W64 := slice o.val 0 64
      if !isStash a then .next (s.permOp c .scu o.num a .read)
      else
        match s.stashPacket c a with
        | .error x => s.failOp c .scu o.num a .read x
        | .ok (p, s) =>
          let read (o : PendOp) : PendOp := { o with val := a.setWidth 2048 ||| ((p.setWidth 2048) <<< 64) }
          .next ((s.modOp c .scu o.num read).sendRequest c (read o))
    else .next (s.sendRequest c o)

/-- A remote instruction of the SCU that has departed and has no reply yet. -/
def State.inFlight (s : State) (c num : Nat) : Option (PendOp × ReqKind) :=
  match (s.core c).scu.op? num with
  | none => none
  | some o =>
    match o.instr.request with
    | none => none
    | some k => if o.status = .departed ∧ o.reply? = none then some (o, k) else none

/-- Its message went to this package, as the package map said when it departed (R311). -/
def State.staysHere (s : State) (o : PendOp) : Bool := decide (o.pkg = some s.pkg)

/-- The window requests of another package name (log 23). -/
def State.farTarget (s : State) (r : FarReq) : Target :=
  { slice := r.slice.toNat, stag := r.stag
    s1root :=
      match s.insts.find? (fun n => decide (n.2.slice = r.slice) && n.2.status.resumes) with
      | some n => n.2.s1root
      | none => 0 }

/-- What a step that serves a request from `s` leads to, where the stash banks that it needs are free; where they are not its claim
waits, with the age of its first try (R159), and none where it has been turned away in this cycle. -/
def State.directed (s t : State) (c : Nat) (w : Claimant) : Option State :=
  if t.banksFree then some t.takeBanks
  else if s.turnedAway c w then none
  else some (s.modCore c (fun k => k.noteClaim w s.cycle s.cycle t.claims))

/-- The operands of a request of another package. -/
def farIn (r : FarReq) : ReqIn :=
  { kind := r.kind, win := r.win.toNat, off := r.off.toNat, parm := r.parm, pkt := r.pkt, links := r.links }

/-- An ENQ or DEQ. -/
def ReqKind.onHead : ReqKind → Bool
  | .enq | .deq => true
  | .read _ | .write _ | .atm _ | .cas _ | .casn | .chase | .fadd | .fminloc | .linkRead | .linkWrite => false
  | .copyRead | .copyWrite | .peerRead | .peerWrite _ => false

/-- A run of a copy. -/
def ReqKind.ofCopy : ReqKind → Bool
  | .copyRead | .copyWrite | .peerRead | .peerWrite _ => true
  | .read _ | .write _ | .atm _ | .cas _ | .casn | .enq | .deq | .chase | .fadd | .fminloc | .linkRead | .linkWrite => false

/-- The physical place of the head word of an ENQ or DEQ. -/
def State.headAt (s : State) (t : Target) (q : ReqIn) : Option Nat :=
  if !ReqKind.onHead q.kind then none
  else
    match s.windowLoc t q.win q.off 8 .node .read with
    | .ok (l, _) => some l.pa
    | .error _ => none

/-- An ENQ or DEQ of the SCU has asked another package for a node, and its head is not changed yet (R317). -/
def State.asking (s : State) (o : PendOp) : Bool :=
  (o.instr.request.map ReqKind.onHead).getD false && decide (o.status = .departed) && s.staysHere o && decide (o.mask ≠ 0)

/-- Heads on which an ENQ or DEQ is under way that has asked another package for a node: no other acts on them (R317). -/
def State.heldHeads (s : State) : List Nat :=
  let of (c : Nat) (k : Core) : List Nat := (k.scu.ops.filter s.asking).filterMap (fun o =>
    o.instr.request.bind (fun q => s.headAt (s.ownTarget c) (o.reqIn q)))
  (s.cores.map (fun (ck : Nat × Core) => of ck.1 ck.2)).flatten ++
    (s.saved.map (fun (e : Nat × Saved) => (e.2.cores.map (fun (ck : Nat × Core) => of ck.1 ck.2)).flatten)).flatten ++
    (s.arrived.filter (fun x => x.2.node.isSome)).filterMap (fun x => s.headAt (s.farTarget x.2) (farIn x.2))

/-- A request must wait for an ENQ or DEQ on its head (R317). -/
def State.headHeld (s : State) (t : Target) (q : ReqIn) : Bool :=
  ReqKind.onHead q.kind && (s.headAt t q).any (fun a => s.heldHeads.contains a)

/-- The request of a core of this package to a window of this package is checked and served, and its reply set out (R313, R317,
R319); a node on another package is handed on (R320), and the head word noted. None where it must wait. -/
def State.serveHere (s : State) (c num : Nat) : Option (Host.Outcome State Fault Refusal) :=
  match s.inFlight c num with
  | none => none
  | some (o, k) =>
    if !s.staysHere o ∨ o.mask ≠ 0 ∨ s.headHeld (s.ownTarget c) (o.reqIn k) then none
    else
      match ({ s with claims := [] } : State).serve (s.ownTarget c) (o.reqIn k) none with
      | .reply r t => (s.directed (t.holdReply c num r) c (.op .scu num)).map (fun t => .next t)
      | .away h =>
        some (.next ((s.modOp c .scu num (fun o =>
          { o with mask := 1, val2 := if ReqKind.onHead k then field (slice o.val2 0 64 : W64) 0 ||| field h.data 64 else o.val2 })).post
            (s.forwardMsg (s.farReq c num (o.reqIn k)) h (some (.op .scu num)))))
      | .gone pa => some (.fault (.noMemory pa))

/-- A reply leaves for the source of a request of another package, or of the request it was forwarded for (R302, R320). -/
def State.postReply (s : State) (to_ : BitVec 21 × BitVec 12) (r : FarReq) (a : ReplyData) (region : BitVec 12) : State :=
  s.post { Msg.make s to_.1 to_.2 (homeEnd r.die.toNat) 1 r.stag (.reply a region) 1 with code := a.code }

/-- An operation waits for another package's reply. -/
def State.awaitsFar (s : State) (o : PendOp) : Bool :=
  o.instr.request.isSome && decide (o.status = .departed) && o.reply?.isNone && (!s.staysHere o || decide (o.mask ≠ 0))

/-- A reply for an operation of a saved context is kept until its restore (R393, R403). -/
def State.keepReply (s : State) (c num : Nat) (far : Option ReplyData) : State :=
  match far, (s.savedAt c).find? (fun n => ((s.savedCore n c).scu.op? num).any s.awaitsFar) with
  | some r, some n => s.atSaved n c (fun t => t.holdReply c num r)
  | _, _ => s

/-- An operation of a core that waits for another package gets a reply, also where its context is saved. -/
def State.giveReply (s : State) (c num : Nat) (r : ReplyData) : State :=
  if ((s.core c).scu.op? num).any s.awaitsFar then s.holdReply c num r else s.keepReply c num (some r)

/-- A reply for the issuer of a request (R320): it leaves the package, or reaches the operation of a core of this one. -/
def State.replyTo (s : State) (r : FarReq) (a : ReplyData) (region : BitVec 12) : State :=
  if r.issuer.1 ≠ s.pkg then s.postReply r.issuer r a region else s.giveReply (endCore r.issuer.2) r.num a

/-- The arriving package admits a request (R307, R313, R387): its tag is a system tag, and that of one of its slices. -/
def State.admitsTag (s : State) (stag : BitVec 21) : Bool :=
  stag.getLsbD 20 && s.slices.any (fun (e : Nat × Slice) => decide (e.2.stag = stag))

/-- A request that waits for a node on a third package, an ENQ or DEQ (R320): `n` notes that the node has been asked. -/
def nodeAsked (x : FarReq) : Bool := ReqKind.onHead x.kind && decide (x.n ≠ 0)

/-- The port by which a request came has a key for its tag (R307): that of the lowest ring on which the packages differ (R303). -/
def State.portKeyed (s : State) (r : FarReq) : Bool :=
  match [1, 2, 3].find? (fun l => decide (ringPos l r.spkg ≠ ringPos l s.pkg)) with
  | none => true
  | some lv => (s.link lv r.die).tags.contains r.stag

/-- The answer of a node is for a request that waits. -/
def asksNode (x r : FarReq) : Bool := decide ({ x with n := 0, node := none } = { r with n := 0, node := none }) && nodeAsked x

/-- A request that waited for a node has its answer, with the head word that it had read. -/
def FarReq.answered (x : FarReq) (a : ReplyData) : FarReq :=
  { x with n := 0, node := some { a with status := (x.node.map (fun r => r.status)).getD 0 } }

/-- A request of another package arrives (R307, R331): one whose tag is not admitted, or has no key on its port, is answered TAG; the
answer of a third package goes to the request that waits for it; any other waits for its turn at the agents. -/
def State.requestArrives (s : State) (r : FarReq) : State :=
  match r.node with
  | some a => { s with arrived := s.arrived.map (fun x => if asksNode x.2 r then (x.1, FarReq.answered x.2 a) else x) }
  | none => if s.admitsTag r.stag && s.portKeyed r then { s with arrived := s.arrived ++ [(s.cycle, r)] }
  else s.replyTo r (nackReply 0x0B) 0

/-- REMOTE_REQUEST_CHECK: a request of a core of this package is served (R313), or one of another package arrives (log 16). -/
def execRemoteRequestCheck (r : ReqSrc) (s : State) : Host.Outcome State Fault Refusal :=
  match r with
  | .here c num => (s.serveHere c num).getD (.next s)
  | .far r => .next (s.requestArrives r)

/-- The reply an operation takes now: one that it holds, or the one another package sends (R315, R320); none while it must wait. What
answers a request that was handed on goes back to the agent. -/
def State.replyFor (s : State) (c : Nat) (o : PendOp) (k : ReqKind) (far : Option ReplyData) : Option Served :=
  let back (r : ReplyData) : Served :=
    if s.staysHere o ∧ o.mask ≠ 0 then
      s.serve (s.ownTarget c) (o.reqIn k) (some (if ReqKind.onHead k then { r with status := slice o.val2 64 64 } else r))
    else .reply r s
  match o.reply? with
  | some r => some (back r)
  | none => if s.staysHere o ∧ o.mask = 0 then none else far.map back

/-- A message that has been answered can be refused no more (R305). -/
def State.accepted (s : State) (c : Nat) (w : Claimant) : State :=
  { s with sent := s.sent.filter (fun m => !(decide (m.who = some w) && decide (m.core = c))) }

/-- The reply of another package for an operation that cannot take it now is held. -/
def State.heldFor (s : State) (c : Nat) (o : PendOp) (far : Option ReplyData) : State :=
  match far with
  | some r => if s.awaitsFar o then (s.holdReply c o.num r).accepted c (.op .scu o.num) else s
  | none => s

/-- REMOTE_REPLY (R315): not while the SCU is parked; a negative reply also waits for the end of a handler (R331). One that must wait, or
that is for a context that has stopped or is saved, is kept (R358, R393). -/
def execRemoteReply (core num : Nat) (far : Option ReplyData) (s : State) : Host.Outcome State Fault Refusal :=
  match (s.core core).scu.op? num with
  | none => .next (s.keepReply core num far)
  | some o =>
    match o.instr.request with
    | none => .next (s.keepReply core num far)
    | some k =>
      if o.status ≠ .departed ∨ s.stillHere core (.op .scu num) then .next (s.keepReply core num far)
      else if (s.instOf core).status ≠ .running ∨ (s.core core).parked .scu then .next (s.heldFor core o far)
      else
        match s.replyFor core o k far with
        | none => .next s
        | some (.gone pa) => .fault (.noMemory pa)
        | some (.away _) => .next s
        | some (.reply r t) =>
          if r.code ≠ 0 ∧ (s.core core).hand.isSome then .next (s.heldFor core o far)
          else deliverReply core o r ((t.holdReply core num r).accepted core (.op .scu num))

end Sys2Proof.Machine
end

