-- ==== Sys2Proof/Machine/Copy.lean ====
section
/-!
DEFINITION. The copy descriptor (R274 to R277), the ends of a copy and the access of one run at either end (R275, R276, R278,
R282), barrier credits (R280), channel faults (R284) and the end of a copy (R279, R295, R298).
-/

namespace Sys2Proof.Machine

/-! ## The descriptor -/

/-- SRC. -/
def Desc.src (d : Desc) : W64 := slice d 0 64

/-- DST. -/
def Desc.dst (d : Desc) : W64 := slice d 64 64

/-- TIME. -/
def Desc.time (d : Desc) : W64 := slice d 128 64

/-- XLEN. -/
def Desc.xlen (d : Desc) : Nat := (slice d 192 24).toNat

/-- YCNT. -/
def Desc.ycnt (d : Desc) : Nat := (slice d 224 16).toNat

/-- ZCNT. -/
def Desc.zcnt (d : Desc) : Nat := (slice d 240 16).toNat

/-- A signed stride at a bit. -/
def Desc.stride (d : Desc) (at_ : Nat) : Int := (slice d at_ 32).toInt

/-- BOFF, as a stash address with bits 3:0 zero. -/
def Desc.boff (d : Desc) : W64 := bit true 63 ||| ((slice d 384 21).setWidth 64 &&& ~~~(0xF#64))

/-- BHOME: die, panel-relative y and x. -/
def Desc.bhome (d : Desc) : BitVec 3 × BitVec 4 × BitVec 4 := (slice d 413 3, slice d 409 4, slice d 405 4)

/-- BEN. -/
def Desc.ben (d : Desc) : Bool := d.getLsbD 416

/-- FDST. -/
def Desc.fdst (d : Desc) : BitVec 2 := slice d 418 2

/-- FIDX. -/
def Desc.fidx (d : Desc) : BitVec 4 := slice d 420 4

/-- FAMT. -/
def Desc.famt (d : Desc) : BitVec 16 := slice d 424 16

/-- SKIND. -/
def Desc.skind (d : Desc) : BitVec 2 := slice d 440 2

/-- DKIND. -/
def Desc.dkind (d : Desc) : BitVec 2 := slice d 442 2

/-- PPKG. -/
def Desc.ppkg (d : Desc) : Nat := (slice d 448 21).toNat

/-- PDIE. -/
def Desc.pdie (d : Desc) : BitVec 3 := slice d 469 3

/-- PCORE. -/
def Desc.pcore (d : Desc) : BitVec 8 := slice d 472 8

/-- SX, SY, LW and LH. -/
def Desc.swatch (d : Desc) : Nat × Nat × Nat × Nat :=
  ((slice d 480 4).toNat, (slice d 484 4).toNat, (slice d 488 3).toNat, (slice d 491 3).toNat)

/-- SALL. -/
def Desc.sall (d : Desc) : Bool := d.getLsbD 494

/-- The bytes of a copy (R275). -/
def Desc.size (d : Desc) : Nat := d.xlen * d.ycnt * d.zcnt

/-- adr(A, t) of R275; `stash` for a stash or peer-stash end. -/
def copyAdr (stash : Bool) (a : W64) (t : Int) : W64 :=
  if stash then ((slice a 21 43).setWidth 64 <<< 21) ||| ((slice a 0 21 + BitVec.ofInt 21 t).setWidth 64)
  else ((slice a 48 16).setWidth 64 <<< 48) ||| ((slice a 0 48 + BitVec.ofInt 48 t).setWidth 64)

/-- An end lies in a stash (R276). -/
def endStash (kind : BitVec 2) (a : W64) : Bool := kind = 1 || (kind = 0 && isStash a)

/-- Address of the source byte of a plane, run and offset (R275). -/
def Desc.srcAt (d : Desc) (z y x : Nat) : W64 :=
  copyAdr (endStash d.skind d.src) d.src (z * d.stride 288 + y * d.stride 256 + x)

/-- Address of the destination byte (R275). -/
def Desc.dstAt (d : Desc) (z y x : Nat) : W64 :=
  copyAdr (endStash d.dkind d.dst) d.dst (z * d.stride 352 + y * d.stride 320 + x)

/-- Plane, run and offset of the byte at a place in copy order. -/
def Desc.place (d : Desc) (o : Nat) : Nat × Nat × Nat :=
  (o / d.xlen / d.ycnt, o / d.xlen % d.ycnt, o % d.xlen)

/-- A rectangle of 2^lw × 2^lh at a panel-relative origin is a swatch (R19). -/
def Inst.isSwatch (i : Inst) (sx sy lw lh : Nat) : Bool :=
  decide (lw ≤ 4) && decide (lh ≤ 4) && decide (2 ^ lw ≤ i.width) && decide (2 ^ lh ≤ i.height) &&
    decide (sx % 2 ^ lw = 0) && decide (sy % 2 ^ lh = 0) && decide (sx + 2 ^ lw ≤ i.width) && decide (sy + 2 ^ lh ≤ i.height)

/-- The fields that ILL_FIELD checks in every copy (R277). -/
def Desc.bad (d : Desc) : Bool :=
  decide (slice d 495 17 ≠ 0#17) || decide (slice d 444 4 ≠ 0#4) || d.getLsbD 417 || decide (slice d 216 8 ≠ 0#8) ||
    decide (d.skind = 3 ∨ d.dkind = 3) || decide (d.skind ≠ 0 ∧ d.dkind ≠ 0) ||
    decide (d.fdst = 2 ∧ (d.dkind = 2 ∨ (d.dkind = 0 ∧ !isStash d.dst)))

/-- The further fields of CPYM (R277). -/
def Desc.badCast (d : Desc) (i : Inst) : Bool :=
  let (sx, sy, lw, lh) := d.swatch
  decide (d.skind ≠ 0) || decide (d.dkind ≠ 0) || !isStash d.dst || decide (slice d 405 11 ≠ 0#11) ||
    !i.isSwatch sx sy lw lh

/-- The descriptor that a PPUT's operands amount to (R329). -/
def putDesc (base peer : W64) : Desc :=
  ((base &&& ~~~(31#64)).setWidth 512) ||| field (((slice peer 0 21 : BitVec 21).setWidth 64 &&& ~~~(31#64))) 64 |||
    field (BitVec.ofNat 24 (32 * ((slice peer 21 8).toNat + 1))) 192 ||| field (1#16) 224 ||| field (1#16) 240 |||
    field (1#2) 442 ||| field (slice peer 43 21 : BitVec 21) 448 ||| field (slice peer 40 3 : BitVec 3) 469 |||
    field (slice peer 32 8 : BitVec 8) 472

/-! ## Peers and grants -/

/-- Core of the non-local end where its package is this one. -/
def Desc.peerCore (d : Desc) : Nat := 256 * d.pdie.toNat + d.pcore.toNat

/-- Rows that the bytes of a copy touch at an end (R322). -/
def Desc.rowsAt (d : Desc) (dst : Bool) : List Nat :=
  if d.size = 0 then []
  else
    ((List.range d.zcnt).map (fun z => ((List.range d.ycnt).map (fun y =>
      let a := (slice (if dst then d.dstAt z y 0 else d.srcAt z y 0) 0 21).toNat
      (List.range ((a + d.xlen - 1) / 256 - a / 256 + 1)).map (fun k => (a / 256 + k) % 8192))).flatten)).flatten

/-- A grant entry that is valid and covers a peer and its rows (R321, R322). -/
def grantCovers (g : BitVec 128) (d : Desc) (rows : List Nat) : Bool :=
  g.getLsbD 0 && decide (slice g 1 63 = 0#63) && decide ((slice g 107 21).toNat = d.ppkg) && decide (slice g 104 3 = d.pdie) &&
    decide (slice g 96 8 = d.pcore) &&
    rows.all (fun q => decide ((q + 8192 - (slice g 83 13).toNat) % 8192 < (slice g 69 14).toNat))

/-- The grant that admits a copy with a peer stash end (R322). -/
def Core.grantFor (k : Core) (d : Desc) : Option (BitVec 128) :=
  k.grants.find? (fun g => grantCovers g d (d.rowsAt (d.dkind = 1)))

/-- The remote address word of a non-local end at an address: the record's faulting address (R361). -/
def Desc.remoteWord (d : Desc) (a : W64) : W64 :=
  if d.skind = 2 ∨ d.dkind = 2 then field (BitVec.ofNat 21 d.ppkg) 43 ||| ((slice a 0 43).setWidth 64)
  else field (BitVec.ofNat 21 d.ppkg) 43 ||| field d.pdie 40 ||| field d.pcore 32 ||| ((slice a 0 21).setWidth 64)

/-! ## Runs at either end -/

/-- What stops a landing. -/
inductive CopyErr where
  /-- a fault at a local end, with the address and the class of access -/
  | mem (a : W64) (acc : Access) (x : MemErr)
  /-- a negative reply, with the remote address word -/
  | nack (a : W64) (code : BitVec 8)
  /-- a trap of the channel's own -/
  | trap (code : BitVec 8) (a : W64) (detail : W64)
  /-- the answer of another package is not there -/
  | wait
  | gone (pa : Nat)
  deriving DecidableEq, Repr

/-- A failure at a window end. -/
def WinErr.copy (x : WinErr) (a : W64) : CopyErr :=
  match x with
  | .nack c => .nack a c
  | .gone pa => .gone pa

/-- A failure at a peer's row. -/
def MemErr.peer (x : MemErr) (a : W64) : CopyErr := x.reply.copy a

/-- Where a non-local end lies: in this package, in another, or a negative reply (R307, R311). -/
inductive FarEnd where
  | here | away
  | nack (code : BitVec 8)
  deriving DecidableEq, Repr

/-- Where the non-local end of a core's copy lies: as the package map says now, or said when the message under way departed
(R311). -/
def State.farEnd (s : State) (c : Nat) (d : Desc) (asked : Option (BitVec 21) := none) : FarEnd :=
  let t := s.ownTarget c
  match asked.orElse (fun _ => s.pkgOf t.slice d.ppkg) with
  | none => .nack 0x01
  | some p =>
    if p = s.pkg then
      (if d.skind = 1 ∨ d.dkind = 1 then
        (match s.sliceOfCore d.peerCore with
          | some n => if (s.slices.get Slice.init n).stag = t.stag then .here else .nack 0x0B
          | none => .nack 0x0B)
      else .here)
    else if !t.stag.getLsbD 20 then .nack 0x0B
    else if s.dev.svc = 1 then .nack 0x0D
    else .away

/-- Reads `n` bytes of a stash row within one sector for a copy: a tagged row is read with its region (R282). It claims the sector's
bank (R159). -/
def State.copyRow (s : State) (p : Nat) (a : W64) (n : Nat) : Except MemErr (Nat × BitVec 12 × State) :=
  match s.touch p (stashRow a) with
  | .error x => .error x
  | .ok s =>
    let s := s.useBanks p (stashRow a) (bit true (slice a 5 3).toNat) ceRank
    let r := s.row p (stashRow a)
    let off := (slice a 0 8).toNat
    if r.poison.getLsbD (off / 32) then .error (.trap 0x14 3)
    else .ok (r.data.toNat / 2 ^ (8 * off) % 2 ^ (8 * n), r.region, s)

/-- Reads a run of `n` bytes of the source (R276, R278, R282); `far` answers for another package. -/
def State.copyRead (s : State) (c : Nat) (d : Desc) (a : W64) (n : Nat) (far : Option FarReply)
    (asked : Option (BitVec 21) := none) : Except CopyErr (Nat × BitVec 12 × State) :=
  let w := d.remoteWord a
  if d.skind = 0 then
    if isStash a then
      match s.copyRow c a n with
      | .error x => .error (.mem a .read x)
      | .ok r => .ok r
    else
      match globalCheck a 1 .read with
      | some x => .error (.mem a .read x)
      | none =>
        match s.locate c (s.space c) (a.toNat % 2 ^ 48) .read false with
        | .error x => .error (.mem a .read x)
        | .ok (l, t) =>
          let (_, poison, found) := s.sector (l.pa / 32)
          if poison then .error (.mem a .read (.trap 0x14 (BitVec.ofNat 64 found)))
          else .ok (t.physRead l.pa n, l.region, t)
  else
    match s.farEnd c d asked with
    | .nack code => .error (.nack w code)
    | .away =>
      match far with
      | none => .error .wait
      | some f => if f.code ≠ 0 then .error (.nack w f.code) else .ok (f.data.toNat % 2 ^ (8 * n), f.region, s)
    | .here =>
      if d.skind = 1 then
        match s.copyRow d.peerCore a n with
        | .error x => .error (x.peer w)
        | .ok r => .ok r
      else
        match s.windowLoc (s.ownTarget c) (remoteWin a) (remoteOff a) n .read .read with
        | .error x => .error (x.copy w)
        | .ok (l, t) =>
          if (s.sector (l.pa / 32)).2.1 then .error (.nack w 0x0A) else .ok (t.physRead l.pa n, l.region, t)

/-- What stops a landing in a stash row: a fault of the row, a read-only row, or a region that R282 refuses. -/
inductive RowErr where
  | mem (x : MemErr)
  | region (met : BitVec 12)
  deriving DecidableEq, Repr

/-- Lands bytes in a stash row (R278, R282): an unbound row of another region is zeroed and takes the landing's region, but a row at a
peer end (`peer`) refuses it. The landing claims the sector's bank (R159). -/
def State.landRow (s : State) (p : Nat) (a : W64) (n v : Nat) (region : BitVec 12) (peer : Bool := false) : Except RowErr State :=
  match s.touch p (stashRow a) with
  | .error x => .error (.mem x)
  | .ok s =>
    let s := s.useBanks p (stashRow a) (bit true (slice a 5 3).toNat) ceRank
    let r := s.row p (stashRow a)
    let off := (slice a 0 8).toNat
    if r.bound && r.ro then .error (.mem (.trap 0x11 (permDetail .write false)))
    else if (r.bound || peer) && decide (r.region ≠ region) then .error (.region r.region)
    else
      let r := if r.region ≠ region then { r with data := 0, poison := 0, region := region } else r
      .ok ((s.setRow p (stashRow a) r).putRow p (stashRow a) (BitVec.ofNat 2048 ((v % 2 ^ (8 * n)) * 2 ^ (8 * off)))
        (BitVec.ofNat 256 ((2 ^ n - 1) * 2 ^ off)))

/-- Writes a run of `n` bytes with their region at the destination (R276, R278, R282). -/
def State.copyWrite (s : State) (c : Nat) (d : Desc) (a : W64) (n v : Nat) (region : BitVec 12) (far : Option FarReply)
    (asked : Option (BitVec 21) := none) : Except CopyErr State :=
  let w := d.remoteWord a
  if d.dkind = 0 then
    if isStash a then
      match s.landRow c a n v region with
      | .error (.mem x) => .error (.mem a .write x)
      | .error (.region m) => .error (.trap 0x13 a (meterDetail m region))
      | .ok s => .ok s
    else
      match globalCheck a 1 .write with
      | some x => .error (.mem a .write x)
      | none =>
        match s.locate c (s.space c) (a.toNat % 2 ^ 48) .write true with
        | .error x => .error (.mem a .write x)
        | .ok (l, s) =>
          let ro := l.held.any (fun h => (roDenied (s.row h.1 h.2) .write).isSome)
          if ro then .error (.mem a .write (.trap 0x11 (permDetail .write false)))
          else if l.region ≠ region then .error (.trap 0x13 a (meterDetail l.region region))
          else .ok (s.store (s.space c).slice l.pa n v 0)
  else
    match s.farEnd c d asked with
    | .nack code => .error (.nack w code)
    | .away =>
      match far with
      | none => .error .wait
      | some f => if f.code = 0x09 then .error (.trap 0x13 w (meterDetail f.region region))
        else if f.code ≠ 0 then .error (.nack w f.code) else .ok s
    | .here =>
      if d.dkind = 1 then
        match s.landRow d.peerCore a n v region true with
        | .error (.mem x) => .error (x.peer w)
        | .error (.region m) => .error (.trap 0x13 w (meterDetail m region))
        | .ok s => .ok s
      else
        match s.windowLoc (s.ownTarget c) (remoteWin a) (remoteOff a) n .write .write with
        | .error x => .error (x.copy w)
        | .ok (l, s) =>
          if l.region ≠ region then .error (.trap 0x13 w (meterDetail l.region region))
          else .ok (s.store (s.ownTarget c).slice l.pa n v 0)

/-! ## Channels -/

/-- A channel. -/
def Core.chan (k : Core) (ch : BitVec 3) : Channel := k.chans.get Channel.init ch.toNat

/-- Changes a channel. -/
def State.modChan (s : State) (c : Nat) (ch : BitVec 3) (f : Channel → Channel) : State :=
  s.modCore c (fun k => { k with chans := k.chans.set Channel.init ch.toNat (f (k.chan ch)) })

/-- Changes the current copy of a channel. -/
def State.modJob (s : State) (c : Nat) (ch : BitVec 3) (f : Job → Job) : State :=
  s.modChan c ch (fun x =>
    { x with jobs :=
        match x.jobs with
        | [] => []
        | j :: r => f j :: r })

/-- A trap of a copy channel (R284, R362 kind 2): it parks at its progress value. -/
def State.chanTrap (s : State) (c : Nat) (ch : BitVec 3) (code : BitVec 8) (addr detail : W64) : State :=
  (s.modChan c ch (fun x => { x with park := .trapped })).takeTrap c
    { code := code, eng := .ce, chan := some ch, kind := 2, pt := 0, addr := addr, detail := detail, time := s.gtime
      mpc := BitVec.ofNat 64 ((s.core c).chan ch).prog, cyc := s.cycle, num := 0, entry := false }

/-- A copy's message under way is given up: it is sent anew where the copy goes on (R285). -/
def Job.unasked (j : Job) : Job := if j.asked.isNone then j else { j with asked := none, carried := false, part := 0, got := [] }

/-- A fault of a running copy (R284): a page request or a trap of its channel; or it waits for this cycle (R159, R370). -/
def State.chanFail (s : State) (c : Nat) (ch : BitVec 3) (x : CopyErr) : Host.Outcome State Fault Refusal :=
  let t := (s.modJob c ch Job.unasked).modChan c ch (fun x => { x with kept := none })
  match x with
  | .wait => .next s
  | .gone pa => .fault (.noMemory pa)
  | .nack a code => .next (t.chanTrap c ch 0x30 a (code.setWidth 64))
  | .trap code a d => .next (t.chanTrap c ch code a d)
  | .mem a acc x =>
    match x.of (s.space c) a.toNat acc [] with
    | .gone pa => .fault (.noMemory pa)
    | .missAt m =>
      let (t, r) := t.pageRequest { core := c, eng := .ce, chan := some ch } m
      .next (t.modChan c ch (fun x => { x with park := .paging r (BitVec.ofNat 64 m.va) m.acc }))
    | .later => .next (s.modCore c (fun k => k.noteClaim (.chan ch.toNat) s.cycle s.cycle))
    | .miss _ _ _ _ _ => .next s
    | .trap code d => .next (t.chanTrap c ch code a d)
    | .trapAt code a d => .next (t.chanTrap c ch code a d)

/-- A credit of `n` bytes to the object at a stash address of a home core (R207, R280): whether it found it not active. -/
def State.creditBar (s : State) (home : Nat) (a : W64) (n : Nat) : Except MemErr (State × Bool) :=
  match s.readBar home a .rw with
  | .error x => .error x
  | .ok (b, s) =>
    match b.credit n with
    | none => .ok (s, true)
    | some (b, ab) =>
      let s := s.writeBar home a b
      .ok (if ab then s.abortWaits home a b.status else s, false)

/-- Sticky status bits of a channel rise, also where a CSTAT of this cycle clears the others (R297, R298). -/
def State.raiseSticky (s : State) (c : Nat) (ch : BitVec 3) (b : BitVec 4) : State :=
  s.modChan c ch (fun x => { x with sticky := x.sticky ||| b, raised := x.raised ||| b })

/-- Credits at several homes, one after another. -/
def State.creditAll (s : State) (homes : List Nat) (a : W64) (n : Nat) : Except MemErr (State × Bool) :=
  homes.foldl (fun (r : Except MemErr (State × Bool)) h =>
    match r with
    | .error x => .error x
    | .ok (s, bad) =>
      match s.creditBar h a n with
      | .error x => .error x
      | .ok (s, b) => .ok (s, bad || b)) (.ok (s, false))

/-! ## Receivers of a multicast -/

/-- The cores of a swatch of a core's panel, by ascending package-core index (R289). -/
def State.swatchCores (s : State) (c : Nat) (d : Desc) : List Nat :=
  let (sx, sy, lw, lh) := d.swatch
  let i := s.instOf c
  let dies := (List.range 8).filter (fun k => if d.sall then i.dmask.getLsbD k else decide (k = c / 256))
  (dies.map (fun k => ((List.range (2 ^ lh)).map (fun y => (List.range (2 ^ lw)).map (fun x =>
    256 * k + 16 * (i.oy.toNat + sy + y) + i.ox.toNat + sx + x))).flatten)).flatten

/-- The 4 KiB blocks that a copy's destination bytes touch, by their order in it (R290). -/
def Desc.blocks (d : Desc) : List Nat := (d.rowsAt true).map (fun q => q / 16)

/-- The notice of a refusal at a receiver (R290, R362): at most eight pend, and further ones are counted in the newest. -/
def State.refuse (s : State) (r c : Nat) (ch : BitVec 3) (block : Nat) : State :=
  let k := s.core r
  let old := k.pend.filter (fun t => decide (t.kind = 3))
  if old.length < 8 then
    let t : TrapRec :=
      { code := 0x23, eng := .scu, chan := none, kind := 3, pt := 0, addr := 0
        detail := field (BitVec.ofNat 11 c) 0 ||| field ch 12 ||| field (BitVec.ofNat 9 block) 16
        time := s.gtime, mpc := 0, cyc := s.cycle, num := 0, entry := false }
    if k.fatal t then s.endFault k.inst t else s.setCore r { k with pend := insertTrap t k.pend }
  else
    let last := k.pend.length - 1 - (k.pend.reverse.findIdx (fun t => decide (t.kind = 3)))
    s.setCore r { k with pend := (k.pend.zipIdx).map (fun p =>
      if p.2 = last then { p.1 with detail := p.1.detail + (1#64 <<< 32) } else p.1) }

/-- Every receiver of a multicast decides (R290). -/
def State.decideCast (s : State) (c : Nat) (ch : BitVec 3) (d : Desc) : State :=
  let rs := s.swatchCores c d
  let refused (r : Nat) : Option Nat := d.blocks.find? (fun b => (s.core r).inuse.getLsbD b)
  let recv := rs.map (fun r =>
    ({ core := r, decided := true, accepts := (refused r).isNone, landed := 0, credited := 0 } : Receiver))
  let s' := rs.foldl (fun s r =>
    match refused r with
    | none => s
    | some b => s.refuse r c ch b) s
  s'.modJob c ch (fun j => { j with recv := recv })

/-- The receivers that have accepted. -/
def Job.accepting (j : Job) : List Nat := (j.recv.filter (fun r => r.accepts)).map (fun r => r.core)

/-- The receivers that have refused. -/
def Job.refusals (j : Job) : Nat := (j.recv.filter (fun r => r.decided && !r.accepts)).length

/-! ## The running copy -/

/-- The home core of a copy's barrier (R280). -/
def State.bhome (s : State) (c : Nat) (d : Desc) : Option Nat := s.panelCore c d.bhome.1 d.bhome.2.1 d.bhome.2.2

/-- A home or flag core outside the panel (R279, R280). -/
def State.homeDenied (s : State) (c : Nat) (j : Job) : Bool :=
  decide (j.kind ≠ .mcast) && (j.desc.ben && decide (j.desc.size ≠ 0) || decide (j.desc.fdst = 3)) && (s.bhome c j.desc).isNone

/-- Where the flag lies that a copy of no bytes raises at a peer end (R275, R279); none for any other copy. -/
def State.emptyFlag (s : State) (c : Nat) (j : Job) : Option FarEnd :=
  if j.kind = .copy ∧ j.desc.size = 0 ∧ j.desc.fdst = 2 ∧ j.desc.dkind = 1 then some (s.farEnd c j.desc) else none

/-- A copy with a peer stash end that no grant admits (R322): one that lands or reads bytes there, or raises a flag of another package
(R279). -/
def State.grantDenied (s : State) (c : Nat) (j : Job) : Bool :=
  decide (j.desc.skind = 1 ∨ j.desc.dkind = 1) && (decide (j.desc.size ≠ 0) || decide (s.emptyFlag c j = some .away)) &&
    ((s.core c).grantFor j.desc).isNone

/-- A copy has nothing left to land: its last byte has landed, or every receiver of a multicast has refused (R279, R290). -/
def Job.landedAll (j : Job) (prog : Nat) : Bool :=
  !j.cancelled && (decide (j.desc.size ≤ prog) || (decide (j.kind = .mcast) && !j.recv.isEmpty && j.accepting.isEmpty))

/-- A copy, multicast or peer put; collectives run on their channel by other rules (R344). -/
def JobKind.copies : JobKind → Bool
  | .copy | .mcast | .put => true
  | .coll _ => false

/-- The copy a channel may move now: it is not parked, its core runs, nothing earlier in the CE's order holds it (R189, R288),
and its descriptor has been read (R283). -/
def State.movingJob (s : State) (c : Nat) (ch : BitVec 3) : Option Job :=
  let k := s.core c
  match (k.chan ch).jobs with
  | [] => none
  | j :: _ =>
    let old := (k.ce.op? j.num).any (fun o => decide (o.issued + 5 < s.cycle))
    if (k.chan ch).park = .none_ ∧ decide ((s.instOf c).status = .running) ∧ decide (k.inst ≠ 0) ∧ old ∧ k.ce.unblocked j.num
    then some j else none

/-- The length of the run at a place of a copy: consecutive bytes within one sector of either end (R278). -/
def Job.runAt (j : Job) (o : Nat) : Nat :=
  let d := j.desc
  let (z, y, x) := d.place o
  min (d.xlen - x) (min (32 - (d.dstAt z y x).toNat % 32) (32 - (d.srcAt z y x).toNat % 32))

/-- The bytes a core's copy engine has moved in the cycle (R292). -/
def Core.movedAll (k : Core) : Nat := k.moved.foldl (fun n (e : Nat × Nat) => n + e.2) 0

/-- Bytes that a channel may still move in the cycle (R292). -/
def Core.left (k : Core) (n : Nat) : Nat := min (128 - k.moved.get 0 n) (256 - k.movedAll)

/-- A channel has moved `n` bytes more in the cycle (R292). -/
def State.countMoved (s : State) (c : Nat) (ch : BitVec 3) (n : Nat) : State :=
  s.modCore c (fun k => { k with moved := k.moved.set 0 ch.toNat (k.moved.get 0 ch.toNat + n), served := ch.toNat })

/-- The length of the run that a channel lands next: that of the message under way, or what its cycle still allows of the run at
its progress value (R278, R292). -/
def State.runLen (s : State) (c : Nat) (ch : BitVec 3) (j : Job) : Nat :=
  let k := s.core c
  if j.asked.isSome then j.part else min (j.runAt (k.chan ch).prog) (k.left ch.toNat)

/-- The number that bytes hold, the first lowest. -/
def leNat (bs : List Byte) : Nat := bs.foldr (fun b v => b.toNat + 256 * v) 0

/-- Bytes of a number with one region, the lowest first. -/
def tagged (region : BitVec 12) (n v : Nat) : List TagByte :=
  (List.range n).map (fun i => { b := BitVec.ofNat 8 (v / 2 ^ (8 * i)), region := region })

/-- The number that tagged bytes hold. -/
def untag (bs : List TagByte) : Nat := leNat (bs.map (fun x => x.b))

/-! ### A copy whose ends share bytes (R281; log 22) -/

/-- The byte of a core's own storage that an address at an end of its copy names: in its own stash, also where the peer is
itself, or in its slice's memory. -/
def State.ownPlace (s : State) (c : Nat) (d : Desc) (kind : BitVec 2) (a : W64) : Option W64 :=
  if kind = 0 then some (if isStash a then bit true 63 ||| ((slice a 0 21 : BitVec 21).setWidth 64) else (slice a 0 48 : BitVec 48).setWidth 64)
  else if kind = 1 ∧ d.peerCore = c ∧ s.farEnd c d = FarEnd.here then some (bit true 63 ||| ((slice a 0 21 : BitVec 21).setWidth 64))
  else none

/-- The least and the greatest offset of a copy's source from SRC (R275). -/
def Desc.srcSpan (d : Desc) : Int × Int :=
  let y := d.stride 256 * (d.ycnt - 1)
  let z := d.stride 288 * (d.zcnt - 1)
  (min 0 y + min 0 z, max 0 y + max 0 z + d.xlen - 1)

/-- A byte lies in the span of a copy's source. -/
def State.inSpan (s : State) (c : Nat) (d : Desc) (p : W64) : Bool :=
  match s.ownPlace c d d.skind d.src with
  | none => false
  | some a =>
    let w : Int := if isStash p then 2 ^ 21 else 2 ^ 48
    decide (isStash a = isStash p) && decide (((p.toNat : Int) - a.toNat - d.srcSpan.1) % w ≤ d.srcSpan.2 - d.srcSpan.1)

/-- `n` bytes of a core's own storage, where they can be read. -/
def State.ownBytes (s : State) (c : Nat) (p : W64) (n : Nat) : Option Nat :=
  if isStash p then
    match s.copyRow c p n with
    | .ok (v, _, _) => some v
    | .error _ => none
  else
    match s.locate c (s.space c) p.toNat .read false with
    | .ok (l, _) => some (s.physRead l.pa n)
    | .error _ => none

/-- What a landing of `n` bytes at `b` is about to overwrite of the copy's own source, as it was before the copy. -/
def State.overwrites (s : State) (c : Nat) (j : Job) (b : W64) (n : Nat) : List (W64 × Byte) :=
  match s.ownPlace c j.desc j.desc.dkind b with
  | none => []
  | some p =>
    if (j.kind = .mcast ∧ ¬ c ∈ j.accepting) ∨ ¬ ((List.range n).any (fun i => s.inSpan c j.desc (p + BitVec.ofNat 64 i))) then []
    else
      match s.ownBytes c p n with
      | none => []
      | some v => ((List.range n).map (fun i => (p + BitVec.ofNat 64 i, (BitVec.ofNat 8 (v / 2 ^ (8 * i)) : Byte)))).filter
          (fun e => s.inSpan c j.desc e.1 && !j.prior.any (fun f => decide (f.1 = e.1)))

/-- The bytes that a copy reads at `a`, of which `v` are the newest: where the copy has overwritten one, it reads the value from
before or the newest, and a free value says which (log 22). -/
def State.sharedRead (s : State) (c : Nat) (j : Job) (a : W64) (n v : Nat) : Nat × State :=
  match s.ownPlace c j.desc j.desc.skind a with
  | none => (v, s)
  | some p =>
    let old (i : Nat) : Option Byte := (j.prior.find? (fun e => decide (e.1 = p + BitVec.ofNat 64 i))).map (fun e => e.2)
    if (List.range n).all (fun i => (old i).isNone) then (v, s)
    else
      let choice := Config.freeValue 32 s.free
      ((List.range n).foldl (fun acc i =>
        let now := v / 2 ^ (8 * i) % 256
        acc + (match old i with
          | none => now
          | some b => if choice.getLsbD i then b.toNat else now) * 2 ^ (8 * i)) 0, { s with free := s.free + 1 })

/-- Lands the run at the channel's progress value: everything or nothing (R278 to R290). Its credit is due in this cycle, or in the
next where the cycle's credits have been made (R218, R280). -/
def State.landRun (s : State) (c : Nat) (ch : BitVec 3) (j : Job) (far : Option FarReply) : Except CopyErr State :=
  let d := j.desc
  let o := ((s.core c).chan ch).prog
  let (z, y, x) := d.place o
  let a := d.srcAt z y x
  let b := d.dstAt z y x
  let n := s.runLen c ch j
  match (if j.got.isEmpty then s.copyRead c d a n far j.asked else .ok (untag j.got, (j.got.head?.map (fun b => b.region)).getD 0, s)) with
  | .error e => .error e
  | .ok (v, region, s) =>
    let (v, s) := if j.got.isEmpty then s.sharedRead c j a n v else (v, s)
    let shared := s.overwrites c j b n
    let landed : Except CopyErr State :=
      match j.kind with
      | .mcast =>
        j.accepting.foldl (fun (r : Except CopyErr State) p =>
          match r with
          | .error e => .error e
          | .ok s =>
            match s.landRow p b n v region with
            | .error (.mem x) => .error (.mem b .write x)
            | .error (.region m) => .error (.trap 0x13 b (meterDetail m region))
            | .ok s => .ok s) (.ok s)
      | _ => s.copyWrite c d b n v region far j.asked
    match landed with
    | .error e => .error e
    | .ok s =>
      let homes := if j.kind = .mcast then j.accepting else (s.bhome c d).toList
      let credit : Except MemErr (State × Bool) := if d.ben then s.creditAll homes d.boff n else .ok (s, false)
      match credit with
      | .error x => .error (.mem d.boff .rw x)
      | .ok _ =>
        let moves := j.kind ≠ JobKind.mcast ∨ !j.accepting.isEmpty
        let due : List Credit :=
          if d.ben then
            [{ homes := homes, addr := d.boff, amount := n
               since := if s.barStage ≤ barPlace 1 c ch.toNat then s.cycle else s.cycle + 1 }]
          else []
        let s := s.modChan c ch (fun k =>
          { k with prog := k.prog + n, wp := if moves then k.wp + BitVec.ofNat 64 n else k.wp, owed := k.owed ++ due, kept := none })
        let s := s.modJob c ch (fun j => { j with prior := shared ++ j.prior, asked := none, carried := false, part := 0, got := [] })
        .ok (s.countMoved c ch n)

/-- The credit that a channel makes next: the oldest that it owes, while it is not parked and the cycle has not come to its BARRs
(R218, R280). -/
def State.creditDue (s : State) (c : Nat) (ch : BitVec 3) : Option Credit :=
  let x := (s.core c).chan ch
  match x.owed with
  | [] => none
  | d :: _ =>
    if d.since ≤ s.cycle ∧ x.park = .none_ ∧ s.barStage ≤ barPlace 1 c ch.toNat ∧ (s.core c).inst ≠ 0 ∧ (s.instOf c).status = .running ∧
        !s.turnedAway c (.chan ch.toNat) then some d else none

/-- A channel credits a barrier with bytes that have landed (R280); one that is not active makes BADBAR. -/
def State.makeCredit (s : State) (c : Nat) (ch : BitVec 3) (x : Credit) : Host.Outcome State Fault Refusal :=
  match s.creditAll x.homes x.addr x.amount with
  | .error e => s.chanFail c ch (.mem x.addr .rw e)
  | .ok (t, bad) =>
    let t := (t.reachStage (barPlace 1 c ch.toNat)).modChan c ch (fun k => { k with owed := k.owed.tail })
    let t := t.modJob c ch (fun j => { j with badbar := j.badbar || bad, credited := j.credited + x.amount })
    .next (if bad then t.raiseSticky c ch 4 else t)

/-- The flag that a copy's or put's last landing raises on another package, with the amount (R279, R329). -/
def State.farFlag (s : State) (c : Nat) (j : Job) : Option (BitVec 4) × W64 :=
  match j.kind with
  | .put =>
    match (s.core c).grantFor j.desc with
    | none => (none, 0)
    | some g => (if g.getLsbD 68 then some (slice g 64 4) else none, 1)
  | _ => (if j.desc.fdst = 2 ∧ j.desc.dkind = 1 then some j.desc.fidx else none, j.desc.famt.setWidth 64)

/-- The message with which a copy's run of `n` bytes asks another package (R276, R302, R310): to read its source, or to land bytes
that have been read; the last landing raises the flag where `last` says so. -/
def State.runMsg (s : State) (c : Nat) (ch : BitVec 3) (j : Job) (p : BitVec 21) (a : W64) (n v : Nat) (region : BitVec 12)
    (last : Bool) : Msg :=
  let d := j.desc
  let peer := decide (d.skind = 1 ∨ d.dkind = 1)
  let write := decide (d.skind = 0)
  let fl := s.farFlag c j
  let kind : ReqKind :=
    if peer then (if write then .peerWrite (if last then fl.1 else none) else .peerRead) else if write then .copyWrite else .copyRead
  let q : FarReq :=
    { s.farReq c j.num { kind := kind, win := remoteWin a, off := if peer then (slice a 0 21).toNat else remoteOff a, parm := fl.2,
                              pkt := BitVec.ofNat 512 v, links := 0 } with
      n := n, core := BitVec.ofNat 11 d.peerCore, region := region }
  { Msg.make s p (if peer then coreEnd d.peerCore else homeEnd (c / 256)) (coreEnd c) 0 q.stag (.request q) 1 with
    who := some (.chan ch.toNat) }

/-- A copy whose next run needs another package asks it, once (R311). -/
def State.askRun (s : State) (c : Nat) (ch : BitVec 3) (j : Job) : Host.Outcome State Fault Refusal :=
  let d := j.desc
  let o := ((s.core c).chan ch).prog
  let (z, y, x) := d.place o
  let n := s.runLen c ch j
  match (if j.asked.isSome then none else s.pkgOf (s.ownTarget c).slice d.ppkg) with
  | none => .next s
  | some p =>
    let sent (s : State) (a : W64) (got : List TagByte) : State :=
      (s.modJob c ch (fun j => { j with asked := some p, part := n, got := got })).post
        (s.runMsg c ch j p a n (untag got) ((got.head?.map (fun b => b.region)).getD 0) (decide (d.size ≤ o + n)))
    if d.skind ≠ 0 then .next (sent s (d.srcAt z y x) [])
    else
      match s.copyRead c d (d.srcAt z y x) n none with
      | .error e => s.chanFail c ch e
      | .ok (v, region, t) =>
        let (v, t) := t.sharedRead c j (d.srcAt z y x) n v
        .next (sent t (d.dstAt z y x) (tagged region n v))

/-- The receivers of a multicast decide in the cycle in which its first landing can reach them: its source can be read (R290). -/
def State.firstCast (s : State) (c : Nat) (ch : BitVec 3) (j : Job) : Host.Outcome State Fault Refusal :=
  let (z, y, x) := j.desc.place ((s.core c).chan ch).prog
  match ({ s with claims := [] } : State).copyRead c j.desc (j.desc.srcAt z y x) (s.runLen c ch j) none with
  | .error e => s.chanFail c ch e
  | .ok (_, _, t) => .next (if t.banksFree then s.decideCast c ch j.desc else { s with claims := t.claims })

/-- COPY_LANDING of a copy: its checks at the first run, then one run (R278, R284, R322). -/
def State.landCopy (s : State) (c : Nat) (ch : BitVec 3) (j : Job) (far : Option FarReply) :
    Host.Outcome State Fault Refusal :=
  if s.homeDenied c j then .next (s.chanTrap c ch 0x11 j.desc.boff (permDetail .rw false))
  else if s.grantDenied c j then
    .next (s.chanTrap c ch 0x11 (j.desc.remoteWord (if j.desc.dkind = 1 then j.desc.dst else j.desc.src))
      (permDetail (if j.desc.dkind = 1 then .write else .read) false))
  else if s.runLen c ch j = 0 ∨ (far.isSome ∧ (j.asked.isNone ∨ s.stillHere c (.chan ch.toNat))) then .next s
  else if j.kind = .mcast ∧ j.recv = [] then s.firstCast c ch j
  else
    match s.landRun c ch j far with
    | .error .wait => s.askRun c ch j
    | .error e => s.chanFail c ch e
    | .ok s => .next s

/-- The cores whose flag a completed copy raises (R279): of a multicast of no bytes, which no receiver decides on, all of its
receivers (R275; log 22). -/
def State.flagCores (s : State) (c : Nat) (j : Job) : List Nat :=
  let d := j.desc
  if d.fdst = 0 then []
  else if d.fdst = 1 then [c]
  else if j.kind = .mcast then (if d.size = 0 then s.swatchCores c d else j.accepting)
  else if d.fdst = 2 then
    (if d.dkind = 1 then (if s.farEnd c d = FarEnd.here then [d.peerCore] else []) else [c])
  else (s.bhome c d).toList

/-- A copy of no bytes, whose status is OK (R275). -/
def Job.empty (j : Job) : Bool := j.kind.copies && decide (j.desc.size = 0)

/-- Status of a copy that has ended (R298). -/
def Job.status (j : Job) (cancelled : Bool) : BitVec 8 :=
  if cancelled then 3 else if j.empty then 0 else if j.refusals ≠ 0 then 2 else if j.badbar then 4 else if j.late then 1 else 0

/-- The sticky bits of a copy that has ended (R298). -/
def Job.stickies (j : Job) (cancelled : Bool) : BitVec 4 :=
  bit cancelled 3 ||| bit j.badbar 2 ||| bit (decide (j.refusals ≠ 0)) 1 ||| bit (j.late && !j.empty) 0

/-- The messages of a channel that have not left: a request of a copy that has ended is withdrawn, a contribution stands (R295,
R348). -/
def State.disown (s : State) (c : Nat) (ch : BitVec 3) : State :=
  { s with waiting := s.waiting.filterMap (fun m =>
      if m.who = some (.chan ch.toNat) ∧ m.core = c then
        (match m.body with
          | .part _ => some { m with who := none }
          | _ => none)
      else some m) }

/-- A copy leaves its channel (R279, R295, R297, R298): status, DONE, REFCNT, token. -/
def State.endJob (s : State) (c : Nat) (ch : BitVec 3) (j : Job) (cancelled : Bool) : State :=
  let s := if ((s.core c).chan ch).jobs.head?.any (fun h => decide (h.num = j.num)) then s.disown c ch else s
  let s := s.modChan c ch (fun x =>
    let head := x.jobs.head?.any (fun h => decide (h.num = j.num))
    { x with
      jobs := x.jobs.filter (fun h => decide (h.num ≠ j.num))
      prog := if head then 0 else x.prog
      park := if head then .none_ else x.park
      owed := if head then [] else x.owed
      kept := if head then none else x.kept
      done_ := x.done_ + 1
      last := j.status cancelled
      refcnt := if j.kind = .mcast then BitVec.ofNat 8 (min j.refusals 255) else x.refcnt })
  ((s.raiseSticky c ch (j.stickies cancelled)).modCore c (fun k =>
    { k with caddy := k.caddy.filter (fun t => decide (t.job.num ≠ j.num)) })).finish c .ce j.num

/-- COPY_COMPLETE of a copy (R279, R329): its flag additions act at the end of the cycle. -/
def State.completeCopy (s : State) (c : Nat) (ch : BitVec 3) (j : Job) : State :=
  let d := j.desc
  let s := (s.flagCores c j).foldl (fun s p => s.later p (.fadd d.fidx d.famt)) s
  let s :=
    if s.emptyFlag c j = some .away then
      match s.pkgOf (s.ownTarget c).slice d.ppkg with
      | none => s
      | some p => s.post { s.runMsg c ch j p d.dst 0 0 0 true with who := none }
    else s
  let s :=
    match j.kind with
    | .put =>
      match (s.core c).grantFor d with
      | none => s
      | some g =>
        if g.getLsbD 68 ∧ s.farEnd c d = FarEnd.here then s.later d.peerCore (.fadd (slice g 64 4) 1) else s
    | _ => s
  s.endJob c ch j false

/-- Withdraws the traps of a channel that the SCU has not entered (R295). -/
def State.withdraw (s : State) (c : Nat) (ch : BitVec 3) : State :=
  s.modCore c (fun k => { k with pend := k.pend.filter (fun r => decide (r.chan ≠ some ch)) })

end Sys2Proof.Machine
end

