-- ==== Sys2Proof/Machine/Ce.lean ====
section
/-!
DEFINITION. The copy engine's own instructions (R272, R283, R286, R293 to R297, R329) and the caddy's release (R286).
-/

namespace Sys2Proof.Machine

/-! ## Copies -/

/-- Copies in a channel's queues (R293). -/
def Core.chanCount (k : Core) (ch : BitVec 3) : Nat := (k.chan ch).jobs.length

/-- Needs of a copy (R293): it waits for room only once its descriptor has been read and checked. -/
def needsCopy (w : BitVec 3) : Needs := { tok := some w }

/-- A job that has just been issued. -/
def Job.fresh (num : Nat) (kind : JobKind) (d : Desc) : Job :=
  { num := num, kind := kind, desc := d, base := 0, peer := 0, late := false, badbar := false, credited := 0, prior := [], recv := [],
    src := none, grp := Group.init, got := [], part := 0, told := [], asked := none, cancelled := false, carried := false
    answered := [], landed := [], stat := 0, nvn := 0, ovn := 0 }

/-- Puts a job into its channel's queues (R273). -/
def Core.queueJob (k : Core) (ch : BitVec 3) (j : Job) : Core :=
  { k with chans := k.chans.set Channel.init ch.toNat { k.chan ch with jobs := (k.chan ch).jobs ++ [j] } }

/-- Places a timed copy in the caddy's order: TIME, then issue (R286). -/
def insertTimed (t : Timed) : List Timed → List Timed
  | [] => [t]
  | x :: r => if t.time.toNat < x.time.toNat then t :: x :: r else x :: insertTimed t r

/-- Storage at an end of a copy (R192): of a local one by its address, and the fabric of any other. -/
def endStorage (kind : BitVec 2) (a : W64) : SMask := if kind = 0 then addrStorage a else { s := false, g := false, f := true }

/-- The storage that a copy of a core reads and writes (R192): one of no bytes none; a multicast lands in its own core's stash and,
across the fabric, in those of others. -/
def State.copyStorage (s : State) (c : Nat) (kind : JobKind) (d : Desc) : Ends :=
  if d.size = 0 then { rd := SMask.none_, wr := SMask.none_ }
  else
    { rd := endStorage d.skind d.src
      wr :=
        match kind with
        | .mcast =>
          let cs := s.swatchCores c d
          { s := cs.contains c, g := false, f := cs.any (fun x => decide (x ≠ c)) }
        | _ => endStorage d.dkind d.dst }

/-- What a peer put reads and writes: its own stash, and another package's (R192, R329). -/
def putEnds : Ends := { rd := { s := true, g := false, f := false }, wr := { s := false, g := false, f := true } }

/-- Enters a copy, peer put or collective that accesses a storage on its channel. -/
def State.startJob (s : State) (i : Instr) (ch : BitVec 3) (w : BitVec 3) (m : Ends) (j : Nat → Job) : State :=
  let num := s.ctx.serial + 1
  (s.enterOp { PendOp.of i (some w) with val := Ends.bits m }).modCur (fun k => k.queueJob ch (j num))

/-- Enters a timed copy in the caddy. -/
def State.startTimed (s : State) (i : Instr) (ch : BitVec 3) (w : BitVec 3) (m : Ends) (kind : JobKind) (d : Desc) : State :=
  let num := s.ctx.serial + 1
  (s.enterOp { PendOp.of i (some w) with mask := 1, val := Ends.bits m }).modCur (fun k =>
    { k with caddy := insertTimed { chan := ch, time := d.time, job := Job.fresh num kind d } k.caddy })

/-- A copy takes its entries on a channel, or waits for room there (R190, R293). -/
def State.enterChan (s : State) (i : Instr) (ch : BitVec 3) (w : BitVec 3) (m : Ends) (j : Nat → Job) : State :=
  if 32 ≤ s.cur.chanCount ch then s.noteWait [.order] else s.startJob i ch w m j

/-- A timed copy takes its entry in the caddy, or waits for room there (R286). -/
def State.enterCaddy (s : State) (i : Instr) (ch : BitVec 3) (w : BitVec 3) (m : Ends) (kind : JobKind) (d : Desc) : State :=
  if 32 ≤ s.cur.caddy.length then s.noteWait [.order] else s.startTimed i ch w m kind d

/-- A group whose descriptor row misses in translation parks the CE at the group (R283). -/
def State.parkGroup (s : State) (m : Miss) : State :=
  let (s, r) := s.pageRequest { core := s.focus, eng := s.eng, chan := none } m
  s.modCtx (fun x => { x with run := .fetchParked r (BitVec.ofNat 64 m.va) m.acc })

/-- Reads a descriptor (R283) and goes on with it, or meets its fault at the group. -/
def State.withDesc (s : State) (a : W64) (f : Desc → State → State) : Host.Outcome State Fault Refusal :=
  if !isStash a then .next (s.groupTrap 0x11 a (permDetail .read false))
  else
    match s.stashPacket s.focus a with
    | .ok (d, s) => .next (f d s)
    | .error x =>
      match x.of (s.space s.focus) a.toNat .read [] with
      | .gone pa => .fault (.noMemory pa)
      | .missAt m => .next (s.parkGroup m)
      | .later => .next (s.noteWait [.hold])
      | .miss _ _ _ _ _ => .next s
      | .trap code d => .next (s.groupTrap code a d)
      | .trapAt code a d => .next (s.groupTrap code a d)

/-- An illegal field of a descriptor (R277, R363): word 2 is its address. -/
def State.illDesc (s : State) (a : W64) : State := s.groupTrap 0x02 a s.sylDetail

/-- Issue of CPY, CPYT and CPYM with a descriptor that has been read. -/
def copyEffect (i : Instr) (ch : BitVec 3) (w : BitVec 3) (cast timed : Bool) (a : W64) (d : Desc) (s : State) : State :=
  if d.bad ∨ (cast ∧ d.badCast (s.instOf s.focus)) then s.illDesc a
  else
    let kind : JobKind := if cast then .mcast else .copy
    let m := s.copyStorage s.focus kind d
    if timed then s.enterCaddy i ch w m kind d else s.enterChan i ch w m (fun num => Job.fresh num kind d)

/-- CPY (R293). -/
def execCpy (c : BitVec 3) (m : MemOpnd) (w : BitVec 3) (s : State) : Host.Outcome State Fault Refusal :=
  s.issueTo (needsCopy w) (fun s =>
    let a := s.ctx.ea m 64
    s.withDesc a (copyEffect (.cpy c m w) c w false false a))

/-- CPYT (R293). -/
def execCpyt (c : BitVec 3) (m : MemOpnd) (w : BitVec 3) (s : State) : Host.Outcome State Fault Refusal :=
  s.issueTo (needsCopy w) (fun s =>
    let a := s.ctx.ea m 64
    s.withDesc a (copyEffect (.cpyt c m w) c w false true a))

/-- CPYM (R293). -/
def execCpym (at_ : Bool) (c : BitVec 3) (m : MemOpnd) (w : BitVec 3) (s : State) : Host.Outcome State Fault Refusal :=
  s.issueTo (needsCopy w) (fun s =>
    let a := s.ctx.ea m 64
    s.withDesc a (copyEffect (.cpym at_ c m w) c w true at_ a))

/-- Effect of PPUT (R329). -/
def pputEffect (c : BitVec 3) (b m : BitVec 4) (w : BitVec 3) (s : State) : State :=
  let base := s.ctx.ar b
  let peer := s.ctx.ar m
  if slice peer 29 3 ≠ 0#3 then s.illDesc base
  else if !isStash base then s.groupTrap 0x11 base (permDetail .read false)
  else
    s.enterChan (.pput c b m w) c w putEnds
      (fun num => { Job.fresh num .put (putDesc base peer) with base := base, peer := peer })

/-- PPUT (R329). -/
def execPput (c : BitVec 3) (b m : BitVec 4) (w : BitVec 3) (s : State) : Host.Outcome State Fault Refusal :=
  s.issue (needsCopy w) (pputEffect c b m w)

/-- A CCAN of this cycle cancels a copy of a channel (R295, R300). -/
def State.cancels (s : State) (c : Nat) (ch : BitVec 3) (num : Nat) : Bool :=
  let k := s.core c
  !k.parked .ce && k.ce.ops.any (fun o =>
    (match o.instr with
      | .ccan all n _ => all || decide (n = ch)
      | _ => false) &&
      decide (o.status = .queued) && decide (o.issued < s.cycle) && k.ce.unblocked o.num && (k.ce.op? num).any (fun p => decide (p.tnum < o.tnum)))

/-- A timed copy is due and can be released (R286 steps 1, 2 and 4); a CCAN of the same cycle prevails (R300). -/
def State.dueTimed (s : State) (c : Nat) : Option Timed :=
  let k := s.core c
  let now := s.gtime - (s.instOf c).freeze
  if k.inst ≠ 0 ∧ (s.instOf c).status = .running then
    k.caddy.find? (fun t => decide (t.time.toNat ≤ now.toNat) && decide (k.chanCount t.chan < 32) && !s.cancels c t.chan t.job.num &&
      (k.ce.op? t.job.num).any (fun o => decide (o.issued < s.cycle)))
  else none

/-- The operation of a released copy takes its place behind those issued before its release (R288). -/
def Ctx.requeue (x : Ctx) (num : Nat) : Ctx :=
  match x.op? num with
  | none => x
  | some o =>
    { x with ops := x.ops.filter (fun p => decide (p.num ≠ num)) ++ [{ o with num := x.serial + 1, mask := 0 }]
             serial := x.serial + 1 }

/-- CADDY_RELEASE (R286): the copy takes its entries; it is LATE if panel time is past its TIME. -/
def execCaddyRelease (core : Nat) (s : State) : Host.Outcome State Fault Refusal :=
  match s.dueTimed core with
  | none => .next s
  | some t =>
    let now := s.gtime - (s.instOf core).freeze
    .next (s.modCore core (fun k =>
      let num := k.ce.serial + 1
      let k := { k with caddy := k.caddy.filter (fun u => decide (u.job.num ≠ t.job.num)), ce := k.ce.requeue t.job.num }
      k.queueJob t.chan { t.job with num := num, late := decide (t.time.toNat < now.toNat) }))

/-! ## CWPRD, CCAN, CBUF and CSTAT -/

/-- Enters an operation of the CE that takes no queue entry and acts two cycles after issue or at once. -/
def ceEffect (i : Instr) (w : BitVec 3) (v : W64) (v2 : W64) (s : State) : State :=
  s.enterOp { PendOp.of i (some w) with addr := v, val := v2.setWidth 2048 }

/-- WP and the CSTAT word of a channel as they stood before the cycle (R294, R297), latched where the CE's group reads one; `now`
is what they show otherwise. -/
def Core.seenChan (k : Core) (c : BitVec 3) (now : W64 × W64) : W64 × W64 := (k.chanSeen[c.toNat]?).getD now

/-- CWPRD (R294): WP as it stands before the cycle of issue. -/
def execCwprd (d : BitVec 4) (acq : Bool) (c : BitVec 3) (w : BitVec 3) (s : State) : Host.Outcome State Fault Refusal :=
  s.issue { tok := some w } (fun s => ceEffect (.cwprd d acq c w) w (s.cur.seenChan c ((s.cur.chan c).wp, 0)).1 0 s)

/-- CCAN (R295). -/
def execCcan (all : Bool) (c : BitVec 3) (w : BitVec 3) (s : State) : Host.Outcome State Fault Refusal :=
  s.issue { tok := some w } (ceEffect (.ccan all c w) w 0 0)

/-- CBUF (R296): address and count are read at issue. -/
def execCbuf (set : Bool) (n : BitVec 4) (m : MemOpnd) (w : BitVec 3) (s : State) : Host.Outcome State Fault Refusal :=
  s.issue { tok := some w } (fun s => ceEffect (.cbuf set n m w) w (s.ctx.ea m 4096) (s.ctx.ar n) s)

/-- The CSTAT word of a channel (R297). -/
def Core.cstat (k : Core) (c : BitVec 3) : W64 :=
  let x := k.chan c
  let st : BitVec 2 :=
    match x.park with
    | .paging _ _ _ => 2
    | .trapped => 3
    | .none_ => if x.jobs.isEmpty then 0 else 1
  field (BitVec.ofNat 16 x.done_.toNat) 48 ||| field x.refcnt 40 |||
    field (BitVec.ofNat 6 (k.caddy.filter (fun t => decide (t.chan = c))).length) 34 |||
    field (BitVec.ofNat 6 x.jobs.length) 28 ||| field x.last 16 ||| field st 4 ||| field x.sticky 0

/-- Effect of CSTAT (R297): the word is taken before the cycle; CLR clears the sticky bits at its end, but for those raised in it. -/
def cstatEffect (d : BitVec 4) (clr : Bool) (c : BitVec 3) (w : BitVec 3) (s : State) : State :=
  let v := (s.cur.seenChan c (0, s.cur.cstat c)).2
  let s := if clr then s.modChan s.focus c (fun x => { x with clear := true }) else s
  ceEffect (.cstat d clr c w) w v 0 s

/-- CSTAT (R297). -/
def execCstat (d : BitVec 4) (clr : Bool) (c : BitVec 3) (w : BitVec 3) (s : State) : Host.Outcome State Fault Refusal :=
  s.issue { tok := some w } (cstatEffect d clr c w)

/-- A value taken at issue lands in an address register of the CE (R294, R297). -/
def performCeReg (c : Nat) (d : BitVec 4) (o : PendOp) (s : State) : State :=
  s.send c .ce o.num [.a d o.addr]

/-- The block bits that a CBUF changes (R296). -/
def cbufBits (a : W64) (n : W64) : BitVec 512 :=
  (List.range (min n.toNat 512)).foldl (fun v k => v ||| bit true (((slice a 12 9).toNat + k) % 512)) 0

/-- CBUF acts at the end of its cycle: landings of the cycle read the bits before it (R296, R300). -/
def performCbuf (c : Nat) (set : Bool) (o : PendOp) (s : State) : State :=
  if !isStash o.addr then s.permOp c .ce o.num o.addr .write
  else
    (s.finish c .ce o.num).later c (.cbuf set (cbufBits o.addr (slice o.val 0 64)))

/-- Copies of a channel issued before a timeline number: in its queues and in the caddy. -/
def Core.jobsBefore (k : Core) (ch : BitVec 3) (tnum : Nat) : List Job :=
  (((k.chan ch).jobs ++ (k.caddy.filter (fun t => decide (t.chan = ch))).map (fun t => t.job))).filter (fun j =>
    (k.ce.op? j.num).any (fun o => decide (o.tnum < tnum)))

end Sys2Proof.Machine
end

