-- ==== Sys2Proof/Machine/Exchange.lean ====
section
/-!
DEFINITION. Collective groups and the exchange unit (R332 to R344, R349 to R354): descriptors, contributions and their
matching, exact reduction, the reskein's plan, and the bytes that a member reads and lands.
-/

namespace Sys2Proof

/-- Kinds that reduce (R339). -/
def CollKind.reduces : CollKind → Bool
  | .car | .crs => true
  | .cag | .ca2a | .cbc | .repart => false

end Sys2Proof

namespace Sys2Proof.Machine

/-! ## Descriptors -/

/-- GSLOT of a collective or repartition descriptor (R338, R349). -/
def Desc.gslot (d : Desc) (k : CollKind) : BitVec 2 := if k = .repart then slice d 292 2 else slice d 180 2

/-- FEN. -/
def Desc.collFen (d : Desc) (k : CollKind) : Bool := if k = .repart then d.getLsbD 294 else d.getLsbD 186

/-- FIDX. -/
def Desc.collFidx (d : Desc) (k : CollKind) : BitVec 4 := if k = .repart then slice d 295 4 else slice d 182 4

/-- COUNT (R338). -/
def Desc.collCount (d : Desc) : Nat := (slice d 128 32).toNat

/-- TYPE (R338). -/
def Desc.collTy (d : Desc) : BitVec 8 := slice d 160 8

/-- OP (R338). -/
def Desc.collOp (d : Desc) : BitVec 4 := slice d 176 4

/-- ROOT (R338). -/
def Desc.collRoot (d : Desc) : BitVec 32 := slice d 192 32

/-- SEN (R338). -/
def Desc.sen (d : Desc) : Bool := d.getLsbD 277

/-- Stash address of the status block, or of REPART's result block (R338, R349). -/
def Desc.blockAt (d : Desc) (k : CollKind) : W64 :=
  bit true 63 ||| ((slice d 256 21).setWidth 64 &&& ~~~(if k = .repart then 63#64 else 15#64))

/-- Element size by TYPE (R339). -/
def tyBytes (t : BitVec 8) : Nat :=
  if t = 0 ∨ t = 3 ∨ t = 4 then 4 else if t = 1 ∨ t = 2 then 2 else if t = 5 ∨ t = 6 then 8 else 1

/-- Record size of REPART (R349). -/
def Desc.recSize (d : Desc) : Nat := 32 * ((slice d 277 3).toNat + 1)

/-- KOFF8, WEN and WOFF4 (R349). -/
def Desc.recKey (d : Desc) : Nat × Bool × Nat := ((slice d 280 5).toNat, d.getLsbD 285, (slice d 286 6).toNat)

/-- NIN and CAP (R349). -/
def Desc.recCounts (d : Desc) : Nat × Nat := ((slice d 192 32).toNat, (slice d 224 32).toNat)

/-- Fields of a collective descriptor that raise ILL_FIELD (R340). -/
def Desc.collBad (d : Desc) (k : CollKind) (g : Group) : Bool :=
  decide (slice d 278 234 ≠ 0#234) || decide (slice d 224 32 ≠ 0#32) || decide (slice d 187 5 ≠ 0#5) ||
    decide (slice d 168 8 ≠ 0#8) || decide (7 < d.collTy.toNat) || decide (5 < d.collOp.toNat) ||
    (!k.reduces && decide (d.collOp ≠ 0)) || (decide (k ≠ .cbc) && decide (d.collRoot ≠ 0)) ||
    (k.reduces && (decide (d.collTy = 7) || (decide (d.collTy.toNat ≤ 2) && decide (3 ≤ d.collOp.toNat)))) ||
    !g.bound || (decide (k = .cbc) && decide (g.n ≤ d.collRoot.toNat))

/-- Two byte ranges of one address class intersect (R350). -/
def rangesMeet (a : W64) (la : Nat) (b : W64) (lb : Nat) : Bool :=
  let m := if isStash a then 2 ^ 21 else 2 ^ 48
  let x := a.toNat % m
  let y := b.toNat % m
  decide (la ≠ 0) && decide (lb ≠ 0) && decide (isStash a = isStash b) &&
    (decide ((y + m - x) % m < la) || decide ((x + m - y) % m < lb))

/-- Fields of a repartition descriptor that raise ILL_FIELD (R350). -/
def Desc.repartBad (d : Desc) (g : Group) : Bool :=
  let r := d.recSize
  let (k, wen, w) := d.recKey
  let (nin, cap) := d.recCounts
  let inp : W64 := slice d 0 64
  let out : W64 := slice d 64 64
  let ovf : W64 := slice d 128 64
  decide (slice d 299 213 ≠ 0#213) || !g.bound || decide (r < 8 * k + 8) || (wen && decide (r < 4 * w + 4)) ||
    rangesMeet inp (nin * r) out (cap * r) || rangesMeet inp (nin * r) ovf (nin * r) || rangesMeet out (cap * r) ovf (nin * r)

/-! ## Members -/

/-- Package and package-core index that an entry of a bound table names (R334). -/
def memberPlace (w : W64) : BitVec 21 × BitVec 11 := (slice w 43 21, slice w 32 11)

/-- Elements of each owner: c of R341. -/
def ownShare (count n : Nat) : Nat := if n = 0 then 0 else (count + n - 1) / n

/-- The checked values of a member's own operation (R336, R350). -/
def Job.header (j : Job) (k : CollKind) (pkg : BitVec 21) (core : Nat) (stag : BitVec 21) : Contribution :=
  let d := j.desc
  let (key, wen, w) := d.recKey
  { gid := j.grp.gid, seq := j.grp.seq, kind := k
    ty := if k = .repart then field (slice d 277 3 : BitVec 3) 5 ||| BitVec.ofNat 8 key else d.collTy
    op := if k = .repart then 0 else d.collOp
    count := if k = .repart then bit wen 6 ||| BitVec.ofNat 32 w else slice d 128 32
    root := if k = .repart then slice d 224 32 else d.collRoot
    n := BitVec.ofNat 24 j.grp.n, rank := BitVec.ofNat 24 j.grp.rank, pkg := pkg, core := BitVec.ofNat 11 core, dest := 0
    bytes := [], regions := [], mism := false, mreg := false, table := j.grp.table, stag := stag, code := 0 }

/-- The header of a core's collective. -/
def State.header (s : State) (c : Nat) (j : Job) (k : CollKind) : Contribution := j.header k s.pkg c (s.ownTarget c).stag

end Sys2Proof.Machine

namespace Sys2Proof

open Machine

/-- No element is exchanged: every member only learns that the others have issued (R341). -/
def Contribution.empty (h : Contribution) : Bool := decide (h.kind ≠ .repart) && decide (h.count = 0)

/-- A rank owns elements of a reduction. -/
def Contribution.owns (h : Contribution) (p : Nat) : Bool := decide (p * ownShare h.count.toNat h.n.toNat < h.count.toNat)

/-- The ranks that a member of rank `r` sends to (R341). -/
def Contribution.sendsTo (h : Contribution) (r : Nat) : List Nat :=
  let all := List.range h.n.toNat
  if h.empty then all
  else
    match h.kind with
    | .car | .crs => all.filter (fun p => h.owns p)
    | .cag | .ca2a | .repart => all
    | .cbc => if h.root.toNat = r then all else []

/-- The ranks that a member of rank `r` receives from. -/
def Contribution.expects (h : Contribution) (r : Nat) : List Nat :=
  let all := List.range h.n.toNat
  if h.empty then all
  else
    match h.kind with
    | .car | .crs => if h.owns r then all else []
    | .cag | .ca2a | .repart => all
    | .cbc => [h.root.toNat]

/-- The bytes a member sends to rank `p` (R341). -/
def Contribution.part (h : Contribution) (src : List TagByte) (p : Nat) : List TagByte :=
  let sz := tyBytes h.ty
  match h.kind with
  | .car | .crs =>
    let c := ownShare h.count.toNat h.n.toNat
    (src.drop (p * c * sz)).take (c * sz)
  | .ca2a => (src.drop (p * h.count.toNat * sz)).take (h.count.toNat * sz)
  | .cag | .cbc | .repart => src

/-- The contribution of a member to rank `p`; none where its table does not name a core of the rank. -/
def Contribution.to (h : Contribution) (src : List TagByte) (p : Nat) : Option Contribution :=
  match h.table[p]? with
  | none => none
  | some w =>
    let b := h.part src p
    some { h with dest := (memberPlace w).2, bytes := b.map (fun t => t.b), regions := b.map (fun t => t.region) }

/-- The elements that a rank owns. -/
def Contribution.ownedBy (h : Contribution) (p : Nat) : List Nat :=
  let c := ownShare h.count.toNat h.n.toNat
  (List.range (min c (h.count.toNat - p * c))).map (fun i => p * c + i)

end Sys2Proof

namespace Sys2Proof.Machine

/-! ## The exchange unit -/

/-- The group operation at a member: a context's core. -/
def State.xop (s : State) (ctx core : Nat) (gid seq : BitVec 32) : Option XOp :=
  s.xops.find? (fun x => decide (x.ctx = ctx ∧ x.core = core ∧ x.gid = gid ∧ x.seq = seq))

/-- A group operation of which nothing is known. -/
def XOp.blank (ctx core : Nat) (gid seq : BitVec 32) : XOp :=
  { ctx := ctx, core := core, gid := gid, seq := seq, own := none, ended := false, contribs := [], answers := [], told := []
    reduced := [] }

/-- Changes a group operation at a member. -/
def State.modXop (s : State) (ctx core : Nat) (gid seq : BitVec 32) (f : XOp → XOp) : State :=
  match s.xop ctx core gid seq with
  | none => { s with xops := s.xops ++ [f (.blank ctx core gid seq)] }
  | some _ =>
    { s with xops := s.xops.map (fun x => if x.ctx = ctx ∧ x.core = core ∧ x.gid = gid ∧ x.seq = seq then f x else x) }

/-- The group operation of a running core's own collective. -/
def State.ownXop (s : State) (c : Nat) (h : Contribution) : Option XOp := s.xop (s.core c).inst c h.gid h.seq

/-- The contexts that a core belongs to: the one that runs, then those that are saved (R355). -/
def State.contextsAt (s : State) (core : Nat) : List Nat :=
  (if (s.core core).inst = 0 then [] else [(s.core core).inst]) ++ s.savedAt core

/-- The core lies in a slice that admits a tag (R337). -/
def State.admitsAt (s : State) (core : Nat) (stag : BitVec 21) : Bool :=
  (s.sliceOfCore core).any (fun n => decide ((s.slices.get Slice.init n).stag = stag))

/-- The context that a contribution to a core belongs to: one whose slice admits the tag, first one that has issued the operation, then
one of which the unit holds contributions to it, then the one that runs (R337, R355). Number 0 stands for a context that is still to
come: the unit holds what comes for a core of a slice that admits the tag (R336). -/
def State.ctxAt (s : State) (core : Nat) (stag : BitVec 21) (gid seq : BitVec 32) : Option Nat :=
  let ns := (s.contextsAt core).filter (fun n =>
    decide ((s.slices.get Slice.init (s.insts.get Inst.init n).slice.toNat).stag = stag))
  (ns.find? (fun n => (s.xop n core gid seq).any (fun x => x.own.isSome && !x.ended))) <|>
    ((0 :: ns).find? (fun n => (s.xop n core gid seq).any (fun x => decide (n ≠ 0) || x.contribs.any (fun k => decide (k.stag = stag))))) <|>
    ns.head? <|> (if s.admitsAt core stag then some 0 else none)

/-- A contribution differs from the unit's own operation (R336). -/
def XOp.differs (x : XOp) (h k : Contribution) : Bool :=
  decide (k.kind ≠ h.kind) || decide (k.ty ≠ h.ty) || decide (k.op ≠ h.op) || decide (k.count ≠ h.count) ||
    (decide (h.kind ≠ .repart) && decide (k.root ≠ h.root)) || decide (k.n ≠ h.n) || decide (k.table ≠ h.table) ||
    decide ((h.table[k.rank.toNat]?).map memberPlace ≠ some (k.pkg, k.core)) ||
    x.contribs.any (fun o => decide (o.rank = k.rank) && decide ((o.pkg, o.core) ≠ (k.pkg, k.core)))

/-- Contributions that carry more than one meter region (R344 rule 4). -/
def XOp.mixed (x : XOp) : Bool :=
  match (x.contribs.map (fun k => k.regions)).flatten with
  | [] => false
  | r :: rs => rs.any (fun q => decide (q ≠ r))

/-- What the unit has found: nothing yet, or whether it found a mismatch, and whether of regions (R336, R344). -/
def XOp.verdict (x : XOp) : Option (Bool × Bool) :=
  match x.own with
  | none => none
  | some h =>
    let mreg := h.kind.reduces && x.mixed
    if mreg || x.contribs.any (fun k => x.differs h k) then some (true, mreg)
    else if (h.expects h.rank.toNat).all (fun p => x.contribs.any (fun k => decide (k.rank.toNat = p))) then
      some (false, false)
    else none

/-! ## Reduction (R342) -/

/-- Bits of the status block (R343). -/
def sNX : BitVec 8 := 1
/-- OF. -/
def sOF : BitVec 8 := 2
/-- UF. -/
def sUF : BitVec 8 := 4
/-- NV. -/
def sNV : BitVec 8 := 8
/-- SAT. -/
def sSAT : BitVec 8 := 16
/-- MISM. -/
def sMISM : BitVec 8 := 32
/-- CANC. -/
def sCANC : BitVec 8 := 64
/-- MREG. -/
def sMREG : BitVec 8 := 128

/-- Format of a float TYPE. -/
def tyFloat (t : BitVec 8) : FSpec := if t = 0 then fF32 else if t = 1 then fF16 else fBF16

/-- A signed integer TYPE. -/
def tySigned (t : BitVec 8) : Bool := decide (t = 3 ∨ t = 5)

/-- An element's value as an integer. -/
def tyInt (t : BitVec 8) (v : Nat) : Int :=
  let w := 8 * tyBytes t
  if tySigned t ∧ 2 ^ (w - 1) ≤ v then (v : Int) - 2 ^ w else v

/-- An exact sum rounded to a float TYPE, with its flags. -/
def reduceAdd (f : FSpec) (vs : List Nat) : Nat × BitVec 8 :=
  let lane := vs.foldl (fun l v => (l.add (f.decode v)).1) XLane.init
  let (r, fl) := lane.readout f .rne
  let nv := lane.pi && lane.ni && !lane.n
  (r, (if nv then sNV else 0) ||| (if fl &&& fNX ≠ 0 then sNX else 0) ||| (if fl &&& fOF ≠ 0 then sOF else 0) |||
    (if fl &&& fUF ≠ 0 then sUF else 0))

/-- The smallest or greatest number of a float TYPE (R131): NaNs are passed over. -/
def reducePick (f : FSpec) (least : Bool) (vs : List Nat) : Nat :=
  let best := vs.foldl (fun (b : Option Nat) v =>
    if f.decode v = .nan then b
    else
      match b with
      | none => some v
      | some w =>
        let first := (f.decode v).minFirst (f.decode w)
        some (if first = least then v else w)) none
  best.getD (f.nan.getD 0)

/-- reduce(e) (R342): the result's encoding and its flags. -/
def reduce (t : BitVec 8) (op : BitVec 4) (vs : List Nat) : Nat × BitVec 8 :=
  let w := 8 * tyBytes t
  if t.toNat ≤ 2 then
    if op = 0 then reduceAdd (tyFloat t) vs else (reducePick (tyFloat t) (decide (op = 1)) vs, 0)
  else if op = 0 then
    let sum := vs.foldl (fun a v => a + tyInt t v) (0 : Int)
    let lo : Int := if tySigned t then -(2 ^ (w - 1)) else 0
    let hi : Int := if tySigned t then 2 ^ (w - 1) - 1 else 2 ^ w - 1
    let r := max lo (min hi sum)
    ((BitVec.ofInt w r).toNat, if r = sum then 0 else sSAT)
  else
    match vs with
    | [] => (0, 0)
    | v :: rest =>
      (rest.foldl (fun a b =>
        if op = 1 then (if tyInt t b < tyInt t a then b else a)
        else if op = 2 then (if tyInt t a < tyInt t b then b else a)
        else if op = 3 then a &&& b
        else if op = 4 then a ||| b
        else a ^^^ b) v, 0)

/-- The values of one element in the contributions to its owner of rank `r`, by ascending rank of the sender. -/
def XOp.values (x : XOp) (h : Contribution) (e : Nat) : List Nat :=
  let sz := tyBytes h.ty
  let i := (e - h.rank.toNat * ownShare h.count.toNat h.n.toNat) * sz
  (List.range h.n.toNat).filterMap (fun p =>
    (x.contribs.find? (fun k => decide (k.rank.toNat = p))).map (fun k => leNat ((k.bytes.drop i).take sz)))

/-- Every element the member owns has been reduced. -/
def XOp.allReduced (x : XOp) : Bool :=
  match x.own with
  | none => false
  | some h =>
    !h.kind.reduces || (h.ownedBy h.rank.toNat).all (fun e => x.reduced.any (fun r => decide (r.1 = e)))

/-- Region of the reduced elements (R344 rule 4). -/
def XOp.region (x : XOp) : BitVec 12 := ((x.contribs.map (fun k => k.regions)).flatten.head?).getD 0

/-! ## The reskein (R351, R352) -/

/-- A record of the group with its sender and input index. -/
structure Rec where
  key : Nat
  weight : Nat
  rank : Nat
  idx : Nat
  bytes : List TagByte
  deriving DecidableEq, Repr

/-- The records that a member sent. -/
def recordsOf (k : Contribution) : List Rec :=
  let r := 32 * ((slice k.ty 5 3).toNat + 1)
  let ko := 8 * (slice k.ty 0 5).toNat
  let wen := k.count.getLsbD 6
  let wo := 4 * (slice k.count 0 6).toNat
  let bs : List TagByte := (k.bytes.zip k.regions).map (fun p => { b := p.1, region := p.2 })
  (List.range (bs.length / r)).map (fun i =>
    let b := (bs.drop (i * r)).take r
    let at_ (o n : Nat) : Nat := leNat (((b.drop o).take n).map (fun t => t.b))
    { key := at_ ko 8, weight := if wen then at_ wo 4 else 1, rank := k.rank.toNat, idx := i, bytes := b })

/-- Order of records at an owner: key, sender rank, input index (R352). -/
def Rec.before (a b : Rec) : Bool :=
  decide (a.key < b.key) || (decide (a.key = b.key) && (decide (a.rank < b.rank) ||
    (decide (a.rank = b.rank) && decide (a.idx < b.idx))))

/-- Inserts a record in order. -/
def insertRec (r : Rec) : List Rec → List Rec
  | [] => [r]
  | x :: xs => if r.before x then r :: x :: xs else x :: insertRec r xs

/-- Records in order. -/
def sortRecs (l : List Rec) : List Rec := l.foldr insertRec []

/-- The group's records with their weights, all ones where the sum is zero, and W (R351). -/
def groupRecs (cs : List Contribution) : List Rec × Nat :=
  let all := (cs.map recordsOf).flatten
  let w := all.foldl (fun t r => t + r.weight) 0
  if w = 0 then (all.map (fun r => { r with weight := 1 }), all.length) else (all, w)

/-- S(p) (R351): 0 or one more than some key's upper half, the least that reaches the target. -/
def splitter (recs : List Rec) (w n p : Nat) : Nat :=
  let t := (p * w + n - 1) / n
  if t = 0 then 0
  else
    recs.foldl (fun best r =>
      let x := r.key / 2 ^ 32 + 1
      let below := recs.foldl (fun a q => if q.key / 2 ^ 32 < x then a + q.weight else a) 0
      if t ≤ below ∧ x < best then x else best) (2 ^ 32)

/-- The owner of a key: the greatest p with S(p) ≤ its upper half (R351). -/
def ownerOf (recs : List Rec) (w n key : Nat) : Nat :=
  (List.range n).foldl (fun o p => if splitter recs w n p ≤ key / 2 ^ 32 then p else o) 0

/-- CAP of a rank. -/
def capOf (cs : List Contribution) (p : Nat) : Nat :=
  ((cs.find? (fun k => decide (k.rank.toNat = p))).map (fun k => k.root.toNat)).getD 0

/-- What REPART gives one member (R351 to R353). -/
structure Plan where
  wrange : Bool
  w : Nat
  lo : Nat
  hi : Nat
  demand : Nat
  govf : Nat
  out : List Rec
  ovf : List Rec
  deriving DecidableEq, Repr

/-- The plan of rank `r` from all contributions. -/
def planFor (cs : List Contribution) (n r : Nat) : Plan :=
  let (recs, w) := groupRecs cs
  if 2 ^ 64 ≤ w then { wrange := true, w := 0, lo := 0, hi := 0, demand := 0, govf := 0, out := [], ovf := [] }
  else
    let own (p : Nat) : List Rec := sortRecs (recs.filter (fun q => decide (ownerOf recs w n q.key = p)))
    let refused := ((List.range n).map (fun p => (own p).drop (capOf cs p))).flatten
    { wrange := false, w := w, lo := splitter recs w n r, hi := if r + 1 < n then splitter recs w n (r + 1) else 2 ^ 32
      demand := (own r).length, govf := refused.length, out := (own r).take (capOf cs r)
      ovf := sortRecs (refused.filter (fun q => decide (q.rank = r))) }

/-! ## Bytes at a member's own ends -/

/-- Reads the next run of a member's source of `n` bytes, from `o` on (R344 rule 1, R345). -/
def State.readRun (s : State) (c : Nat) (ch : BitVec 3) (a : W64) (o n : Nat) : Except CopyErr (List TagByte × State) :=
  let b := copyAdr (isStash a) a o
  let m := min (n - o) (min (32 - b.toNat % 32) ((s.core c).left ch.toNat))
  match s.copyRead c 0 b m none with
  | .error e => .error e
  | .ok (v, region, s) => .ok (tagged region m v, s.countMoved c ch m)

/-- The longest run of at most `n` bytes of one region. -/
def takeRun (region : BitVec 12) : Nat → List TagByte → List TagByte
  | 0, _ => []
  | _ + 1, [] => []
  | n + 1, b :: r => if b.region = region then b :: takeRun region n r else []

/-- Lands the next run of some bytes that go from an address on, within one sector and region (R344 rule 4): how many it lands. -/
def State.landNext (s : State) (c : Nat) (ch : BitVec 3) (a : W64) (o : Nat) (bs : List TagByte) : Except CopyErr (Nat × State) :=
  match bs with
  | [] => .ok (0, s)
  | b :: _ =>
    let t := copyAdr (isStash a) a o
    let run := takeRun b.region (min (32 - t.toNat % 32) ((s.core c).left ch.toNat)) bs
    match s.copyWrite c 0 t run.length (untag run) b.region none with
    | .error e => .error e
    | .ok s => .ok (run.length, s.countMoved c ch run.length)

end Sys2Proof.Machine
end

