-- ==== Sys2Proof/Machine/Collective.lean ====
section
/-!
DEFINITION. The collective instructions and REPART (R346 to R348, R354), group binding (R332 to R335, R347), and the steps of
copy channels and exchange units: landings, completions, contributions, reductions and results (R278, R279, R336, R342, R344).
-/

namespace Sys2Proof.Machine

/-! ## Groups -/

/-- A group slot of a core. -/
def Core.group (k : Core) (n : Nat) : Group := k.groups.get Group.init n

/-- A collective of a group slot is outstanding on a core. -/
def Core.slotBusy (k : Core) (n : BitVec 2) : Bool :=
  k.chans.any (fun (p : Nat × Channel) => p.2.jobs.any (fun j =>
    match j.kind with
    | .coll kind => decide (j.desc.gslot kind = n)
    | _ => false))

/-- Effect of CGRP at issue (R347): the address is formed, and the syllable kept for a fault. -/
def cgrpEffect (slot : BitVec 2) (m : MemOpnd) (w : BitVec 3) (s : State) : State :=
  s.enterOp { PendOp.of (.cgrp slot m w) (some w) with addr := s.ctx.ea m 64, val := s.sylDetail.setWidth 2048 }

/-- CGRP (R347): it waits for the operations of its slot. -/
def execCgrp (slot : BitVec 2) (m : MemOpnd) (w : BitVec 3) (s : State) : Host.Outcome State Fault Refusal :=
  s.issue { tok := some w, cond := if s.cur.slotBusy slot then some .order else none } (cgrpEffect slot m w)

/-- Reads `n` 8-byte words from a global address on, as the CE. -/
def State.readWords (s : State) (c : Nat) (sp : Space) (a : W64) (n : Nat) : Except MemErr (List W64 × State) :=
  (List.range n).foldl (fun (r : Except MemErr (List W64 × State)) k =>
    match r with
    | .error x => .error x
    | .ok (ws, s) =>
      match s.globalRead c sp (a + BitVec.ofNat 64 (8 * k)) 8 with
      | .error x => .error (match x with
        | .trap code d => .trapAt code (a + BitVec.ofNat 64 (8 * k)) d
        | x => x.of sp (a.toNat + 8 * k) .read [])
      | .ok (v, s) => .ok (ws ++ [BitVec.ofNat 64 v], s)) (.ok ([], s))

/-- A 64-byte descriptor from eight words. -/
def ofWords (ws : List W64) : Desc :=
  (ws.zipIdx).foldl (fun (d : Desc) (w : W64 × Nat) => d ||| ((w.1.setWidth 512) <<< (64 * w.2))) 0

/-- Reads a group descriptor in the stash or in global memory (R333, R347). -/
def State.readGroupDesc (s : State) (c : Nat) (a : W64) : Except MemErr (Desc × State) :=
  if isStash a then s.stashPacket c a
  else
    match globalCheck a 64 .read with
    | some x => .error x
    | none =>
      match s.readWords c (s.space c) a 8 with
      | .error x => .error x
      | .ok (ws, s) => .ok (ofWords ws, s)

/-- Reserved fields of a group descriptor (R333). -/
def groupDescBad (d : Desc) : Bool :=
  decide (slice d 160 352 ≠ 0#352) || decide (slice d 120 8 ≠ 0#8) || decide (slice d 88 8 ≠ 0#8)

/-- N of a group descriptor. -/
def Desc.groupN (d : Desc) : Nat := (slice d 64 24).toNat

/-- An entry of a member table with its virtual package mapped (R334); none where R335 refuses it. -/
def State.mapMember (s : State) (sliceNo : Nat) (w : W64) : Option W64 :=
  if !w.getLsbD 0 ∨ slice w 1 31 ≠ 0#31 then none
  else (s.pkgOf sliceNo (slice w 43 21).toNat).map (fun p => field p 43 ||| (slice w 0 43).setWidth 64)

/-- Every entry of a table mapped. -/
def State.mapTable (s : State) (sliceNo : Nat) (ws : List W64) : Option (List W64) :=
  ws.foldr (fun w r =>
    match r, s.mapMember sliceNo w with
    | some l, some v => some (v :: l)
    | _, _ => none) (some [])

/-- A list without repeats. -/
def noRepeats : List (BitVec 21 × BitVec 11) → Bool
  | [] => true
  | x :: r => !r.contains x && noRepeats r

/-- Cores of this package are exactly those of one swatch of an instance's panel, on one die or on every die of its mask
(R335). -/
def membersSwatch (i : Inst) (cs : List Nat) : Bool :=
  let px (c : Nat) : Nat := c % 16
  let py (c : Nat) : Nat := c % 256 / 16
  let dies := (List.range 8).filter (fun d => cs.any (fun c => decide (c / 256 = d)))
  let all := (List.range 8).filter (fun d => i.dmask.getLsbD d)
  let lo (f : Nat → Nat) : Nat := cs.foldl (fun m c => min m (f c)) 16
  let hi (f : Nat → Nat) : Nat := cs.foldl (fun m c => max m (f c)) 0
  let w := hi px - lo px + 1
  let h := hi py - lo py + 1
  (decide (dies.length = 1) || decide (dies = all)) && dies.all (fun d => i.dmask.getLsbD d) &&
    decide (2 ^ w.log2 = w) && decide (2 ^ h.log2 = h) && decide (i.ox.toNat ≤ lo px) && decide (i.oy.toNat ≤ lo py) &&
    i.isSwatch (lo px - i.ox.toNat) (lo py - i.oy.toNat) w.log2 h.log2 && decide (cs.length = w * h * dies.length)

/-- The checks of R335 on a mapped table, but for the issuing core's rank. -/
def State.tableGood (s : State) (i : Inst) (table : List W64) : Bool :=
  let places := table.map memberPlace
  noRepeats places &&
    membersSwatch i ((places.filter (fun p => decide (p.1 = s.pkg))).map (fun p => p.2.toNat))

/-- CGRP performs (R335, R347). -/
def performCgrp (c : Nat) (slot : BitVec 2) (o : PendOp) (s : State) : Host.Outcome State Fault Refusal :=
  let set (s : State) (g : Group) : State :=
    (s.modCore c (fun k => { k with groups := k.groups.set Group.init slot.toNat g })).finish c .ce o.num
  let ill (s : State) : State := s.opTrap c .ce o.num 0x02 o.addr (slice o.val 0 64)
  match s.readGroupDesc c o.addr with
  | .error x => s.failOp c .ce o.num o.addr .read x
  | .ok (d, s) =>
    if groupDescBad d then .next (ill s)
    else if d.groupN = 0 then .next (set s Group.init)
    else
      let mtab : W64 := slice d 0 64
      match s.readWords c (s.space c) mtab d.groupN with
      | .error x => s.failOp c .ce o.num mtab .read x
      | .ok (ws, s) =>
        match s.mapTable (s.space c).slice ws with
        | none => .next (ill s)
        | some table =>
          let rank := (slice d 96 24).toNat
          if !s.tableGood (s.instOf c) table ∨ (table[rank]?).map memberPlace ≠ some (s.pkg, BitVec.ofNat 11 c) then .next (ill s)
          else
            .next (set s { bound := true, gid := slice d 128 32, n := d.groupN, rank := rank, mtab := mtab, table := table
                           seq := 0 })

/-! ## Issue -/

/-- Group operations in flight for the cores of a die, those of stopped contexts among them (R337, R355). -/
def State.opsOnDie (s : State) (die : Nat) : Nat :=
  (s.xops.filterMap (fun x =>
    if x.core / 256 = die ∧ !x.ended then x.own.map (fun h => (h.stag, h.gid, h.seq)) else none)).eraseDups.length

/-- Bytes of a member's whole source (R341, R349). -/
def Job.sourceSize (j : Job) (k : CollKind) : Nat :=
  let d := j.desc
  let n := d.collCount * tyBytes d.collTy
  match k with
  | .car | .crs | .cag => n
  | .ca2a => j.grp.n * n
  | .cbc => if d.collRoot.toNat = j.grp.rank then n else 0
  | .repart => d.recCounts.1 * d.recSize

/-- The storage that a collective accesses at its core (R192): it reads its source, and writes its destinations and its block. -/
def Job.collStorage (j : Job) (k : CollKind) : Ends :=
  let d := j.desc
  let at_ (used : Bool) (a : W64) : SMask := if used then addrStorage a else SMask.none_
  { rd := at_ (decide (j.sourceSize k ≠ 0)) (slice d 0 64)
    wr :=
      if k = .repart then
        SMask.join (SMask.join (addrStorage (slice d 64 64)) (at_ (decide (d.recCounts.1 ≠ 0)) (slice d 128 64))) (addrStorage (d.blockAt k))
      else SMask.join (at_ (decide (d.collCount ≠ 0)) (slice d 64 64)) (at_ d.sen (d.blockAt k)) }

/-- The row of the status or result block is tagged with a meter region (R340, R350). -/
def State.blockTagged (s : State) (a : W64) : Bool :=
  let r := s.row s.focus (stashRow a)
  decide (r.owner = s.cur.inst) && decide (r.region ≠ 0)

/-- A member's own operation of a group operation is issued (R336): what is left of one that has ended is gone. -/
def XOp.issue (x : XOp) (h : Contribution) : XOp :=
  { (if x.ended then XOp.blank x.ctx x.core x.gid x.seq else x) with own := some h }

/-- What the unit has held for a core until its operation is issued belongs to the context that issues it (R336). -/
def State.adoptHeld (s : State) (n c : Nat) (h : Contribution) : State :=
  match s.xop 0 c h.gid h.seq with
  | none => s
  | some x =>
    let mine := x.contribs.filter (fun k => decide (k.stag = h.stag))
    let rest := x.contribs.filter (fun k => decide (k.stag ≠ h.stag))
    { s with xops := (s.xops.erase x) ++ (if rest.isEmpty then [] else [{ x with contribs := rest }]) }.modXop n c h.gid h.seq (fun y =>
      { y with contribs := mine ++ y.contribs })

/-- Enters a collective on its channel: it takes the slot's SEQ (R336, R348). -/
def State.startColl (s : State) (i : Instr) (k : CollKind) (ch : BitVec 3) (w : BitVec 3) (d : Desc) : State :=
  let slot := (d.gslot k).toNat
  let g := s.cur.group slot
  let j (num : Nat) : Job := { Job.fresh num (.coll k) d with grp := g }
  let s := (s.startJob i ch w ((j 0).collStorage k) j).modCur (fun c =>
    { c with groups := c.groups.set Group.init slot { g with seq := g.seq + 1 } })
  let h := s.header s.focus (j 0) k
  (s.adoptHeld s.cur.inst s.focus h).modXop s.cur.inst s.focus g.gid g.seq (fun x => x.issue h)

/-- Issue of a collective with a descriptor that has been read (R336, R348): it waits for room on its channel (R190) and at the
exchange unit (R337). -/
def collEffect (i : Instr) (k : CollKind) (ch : BitVec 3) (w : BitVec 3) (a : W64) (d : Desc) (s : State) : State :=
  let g := s.cur.group (d.gslot k).toNat
  if (if k = .repart then d.repartBad g else d.collBad k g) || s.blockTagged (d.blockAt k) then s.illDesc a
  else if 32 ≤ s.cur.chanCount ch ∨ 32 ≤ s.opsOnDie (s.focus / 256) then s.noteWait [.order]
  else s.startColl i k ch w d

/-- The common issue of the collectives. -/
def State.issueColl (s : State) (i : Instr) (k : CollKind) (c : BitVec 3) (m : MemOpnd) (w : BitVec 3) :
    Host.Outcome State Fault Refusal :=
  s.issueTo (needsCopy w) (fun s =>
    let a := s.ctx.ea m 64
    s.withDesc a (collEffect i k c w a))

/-- CAR (R348). -/
def execCar (c : BitVec 3) (m : MemOpnd) (w : BitVec 3) (s : State) : Host.Outcome State Fault Refusal :=
  s.issueColl (.car c m w) .car c m w

/-- CRS (R348). -/
def execCrs (c : BitVec 3) (m : MemOpnd) (w : BitVec 3) (s : State) : Host.Outcome State Fault Refusal :=
  s.issueColl (.crs c m w) .crs c m w

/-- CAG (R348). -/
def execCag (c : BitVec 3) (m : MemOpnd) (w : BitVec 3) (s : State) : Host.Outcome State Fault Refusal :=
  s.issueColl (.cag c m w) .cag c m w

/-- CA2A (R348). -/
def execCa2a (c : BitVec 3) (m : MemOpnd) (w : BitVec 3) (s : State) : Host.Outcome State Fault Refusal :=
  s.issueColl (.ca2a c m w) .ca2a c m w

/-- CBC (R348). -/
def execCbc (c : BitVec 3) (m : MemOpnd) (w : BitVec 3) (s : State) : Host.Outcome State Fault Refusal :=
  s.issueColl (.cbc c m w) .cbc c m w

/-- REPART (R354). -/
def execRepart (c : BitVec 3) (m : MemOpnd) (w : BitVec 3) (s : State) : Host.Outcome State Fault Refusal :=
  s.issueColl (.repart c m w) .repart c m w

/-! ## Reading the source, and contributions -/

/-- The negative reply to a contribution for a member that cannot be reached: a core that belongs to no context of the tag (R337),
an unmapped tag, or another package in reduced service (R441). -/
def State.unreachable (s : State) (h : Contribution) (w : W64) : Option (W64 × BitVec 8) :=
  let (p, k) := memberPlace w
  if p = s.pkg then (if (s.ctxAt k.toNat h.stag h.gid h.seq).isNone then some (w, 0x0B) else none)
  else if !h.stag.getLsbD 20 then some (w, 0x0B)
  else if s.dev.svc = 1 then some (w, 0x0D)
  else none

/-- The ranks on other packages to which a member has still to send (R341). -/
def State.untold (s : State) (j : Job) (h : Contribution) : List Nat :=
  (h.sendsTo h.rank.toNat).filter (fun p =>
    !j.told.contains p && ((h.table[p]?).map memberPlace).any (fun x => decide (x.1 ≠ s.pkg)))

/-- Slots that carry some bytes (R301). -/
def slotsFor (n : Nat) : Nat := max 1 ((n + 127) / 128)

/-- The message that carries a contribution or an answer from a core's exchange unit to another package's (R302, R337). -/
def State.partMsg (s : State) (k : Contribution) (to_ : BitVec 21) (core : Nat) (who : Option Claimant) : Msg :=
  { Msg.make s to_ (unitEnd (core / 256)) (unitEnd (k.core.toNat / 256)) 3 k.stag (.part k) (slotsFor k.bytes.length) with who := who }

/-- The message of a member's contribution to a rank. -/
def State.memberMsg (s : State) (ch : BitVec 3) (h : Contribution) (src : List TagByte) (p : Nat) : Option Msg :=
  match h.table[p]?, h.to src p with
  | some w, some k => some (s.partMsg k (memberPlace w).1 k.dest.toNat (some (.chan ch.toNat)))
  | _, _ => none

/-- A member's contributions leave for the ranks on other packages that have had none (R341, R344). -/
def State.tellFar (s : State) (c : Nat) (ch : BitVec 3) (j : Job) (h : Contribution) (src : List TagByte) : State :=
  let ps := s.untold j h
  (ps.foldl (fun (s : State) p =>
    match s.memberMsg ch h src p with
    | none => s
    | some m => s.post m) s).modJob c ch (fun j => { j with told := j.told ++ ps })

/-- The channel reads the next run of a member's source (R344 rule 1, R345); a member that cannot be reached stops it first. -/
def State.readSource (s : State) (c : Nat) (ch : BitVec 3) (j : Job) (k : CollKind) : Host.Outcome State Fault Refusal :=
  let h := s.header c j k
  match ((h.sendsTo j.grp.rank).filterMap (fun p => h.table[p]?)).findSome? (fun w => s.unreachable h w) with
  | some (w, code) => .next (s.chanTrap c ch 0x30 w (code.setWidth 64))
  | none =>
    let n := j.sourceSize k
    if n = 0 then .next (s.modJob c ch (fun j => { j with src := some [] }))
    else if (s.core c).left ch.toNat = 0 then .next s
    else
      match s.readRun c ch (slice j.desc 0 64) j.got.length n with
      | .error e => s.chanFail c ch e
      | .ok (bs, s) =>
        let got := j.got ++ bs
        .next ((s.modJob c ch (fun j => { j with got := got, src := if n ≤ got.length then some got else none })).modChan c ch
          (fun x => { x with prog := got.length }))

/-- A step of a collective on its channel before results land: its source is read, and what goes to other packages leaves. -/
def State.feed (s : State) (c : Nat) (ch : BitVec 3) (j : Job) (k : CollKind) : Host.Outcome State Fault Refusal :=
  match j.src with
  | none => s.readSource c ch j k
  | some src => .next (if (s.untold j (s.header c j k)).isEmpty then s else s.tellFar c ch j (s.header c j k) src)

/-- A channel waits for another package's answer to its copy's message, and none is kept yet. -/
def Channel.awaitsFar (x : Channel) : Bool := x.jobs.head?.any (fun j => j.kind.copies && j.asked.isSome) && x.kept.isNone

/-- An answer for a channel that cannot go on, or of a saved context, is kept (R393). -/
def State.keepCopy (s : State) (c : Nat) (ch : BitVec 3) (far : Option FarReply) : State :=
  let keep (f : FarReply) (s : State) : State := s.modChan c ch (fun x => { x with kept := some f })
  match far with
  | none => s
  | some f =>
    if ((s.core c).chan ch).awaitsFar then (if s.stillHere c (.chan ch.toNat) then s else keep f s)
    else
      match (s.savedAt c).find? (fun n => ((s.savedCore n c).chan ch).awaitsFar) with
      | none => s
      | some n => s.atSaved n c (keep f)

/-- A cancelled copy whose message was under way is released when that has been answered: its landings have stopped (R295). -/
def State.releaseCancelled (s : State) (c : Nat) (ch : BitVec 3) (j : Job) (far : Option FarReply) : State :=
  if (far <|> ((s.core c).chan ch).kept).isSome ∧ !s.stillHere c (.chan ch.toNat) then (s.endJob c ch j true).accepted c (.chan ch.toNat)
  else s

/-- COPY_LANDING (R278, R344): the next run of a copy, multicast or peer put lands; of a collective, the source is read. -/
def execCopyLanding (core : Nat) (c : BitVec 3) (far : Option FarReply) (s : State) : Host.Outcome State Fault Refusal :=
  match s.movingJob core c with
  | none => .next (s.keepCopy core c far)
  | some j =>
    if j.cancelled then .next (s.releaseCancelled core c j far)
    else if j.asked.isSome ∧ (s.core core).left c.toNat < j.part then .next (s.keepCopy core c far)
    else s.served core (.chan c.toNat)
      (match j.kind with
      | .coll k => s.feed core c j k
      | _ =>
        if !j.landedAll ((s.core core).chan c).prog then
          ({ s with claims := [] } : State).landCopy core c j (far <|> ((s.core core).chan c).kept)
        else .next s)

/-- COPY_COMPLETE (R275, R279, R290). -/
def execCopyComplete (core : Nat) (c : BitVec 3) (s : State) : Host.Outcome State Fault Refusal :=
  match s.movingJob core c with
  | none => .next s
  | some j =>
    let word := j.desc.remoteWord j.desc.dst
    if !j.kind.copies ∨ !j.landedAll ((s.core core).chan c).prog ∨ ((s.core core).chan c).owed ≠ [] then .next s
    else if s.homeDenied core j then .next (s.chanTrap core c 0x11 j.desc.boff (permDetail .rw false))
    else
      match s.emptyFlag core j with
      | some (.nack code) => .next (s.chanTrap core c 0x30 word (code.setWidth 64))
      | some .away => .next (if s.grantDenied core j then s.chanTrap core c 0x11 word (permDetail .write false) else s.completeCopy core c j)
      | some .here | none => .next (s.completeCopy core c j)

/-- The contributions of the current collective of a channel that go to cores of this package and have not arrived. -/
def State.outgoing (s : State) (c : Nat) (ch : BitVec 3) : List Contribution :=
  match s.movingJob c ch with
  | none => []
  | some j =>
    match j.kind, j.src with
    | .coll k, some src =>
      let h := s.header c j k
      (h.sendsTo h.rank.toNat).filterMap (fun p =>
        match h.to src p with
        | none => none
        | some d =>
          if (h.table[p]?).map (fun w => (memberPlace w).1) = some s.pkg then
            (match s.ctxAt d.dest.toNat d.stag d.gid d.seq with
              | none => none
              | some n => if (s.xop n d.dest.toNat d.gid d.seq).any (fun x => x.contribs.contains d) then none else some d)
          else none)
    | _, _ => []

/-- A contribution that reaches no member goes back with a code (R337). -/
def State.partBack (s : State) (k : Contribution) (code : BitVec 8) : State :=
  s.post { s.partMsg { k with bytes := [], regions := [], code := code, pkg := s.pkg, core := k.dest } k.pkg k.core.toNat none with code := code }

/-- A contribution reaches an exchange unit, where its operation waits for it or it is held until its operation is issued (R336). -/
def State.takePart (s : State) (k : Contribution) : State :=
  match s.ctxAt k.dest.toNat k.stag k.gid k.seq with
  | none => s.partBack k 0x0B
  | some n =>
    if (s.xop n k.dest.toNat k.gid k.seq).any (fun x => x.contribs.contains k) then s
    else s.modXop n k.dest.toNat k.gid k.seq (fun x => { x with contribs := x.contribs ++ [k] })

/-- CONTRIBUTION_ARRIVAL (R336): from a member here, what it sends; from another package, what comes. -/
def execContributionArrival (die : BitVec 3) (k : Contribution) (s : State) : Host.Outcome State Fault Refusal :=
  let sent := (List.range 8).any (fun ch => (s.outgoing k.core.toNat (BitVec.ofNat 3 ch)).contains k)
  if k.dest.toNat / 256 ≠ die.toNat ∨ k.code ≠ 0 ∨ (k.pkg = s.pkg ∧ !sent) then .next s
  else .next (s.takePart k)

/-- The element that an owner can reduce: its group operation is matched and complete, and it has not been reduced. -/
def XOp.reducible (x : XOp) (e : Nat) : Bool :=
  match x.own with
  | none => false
  | some h =>
    h.kind.reduces && decide (x.verdict = some (false, false)) && (h.ownedBy h.rank.toNat).contains e &&
      !x.reduced.any (fun r => decide (r.1 = e))

/-- Reduces an element at its owner (R342). -/
def XOp.reduceAt (x : XOp) (e : Nat) : XOp :=
  match x.own with
  | none => x
  | some h =>
    let (v, f) := reduce h.ty h.op (x.values h e)
    { x with reduced := x.reduced ++ [(e, BitVec.ofNat 64 v, f)] }

/-- ELEMENT_REDUCE (R342). -/
def execElementReduce (die : BitVec 3) (gid seq : BitVec 32) (elem : Nat) (s : State) : Host.Outcome State Fault Refusal :=
  match s.xops.find? (fun x => decide (x.core / 256 = die.toNat ∧ x.gid = gid ∧ x.seq = seq) && x.reducible elem) with
  | none => .next s
  | some x => .next (s.modXop x.ctx x.core gid seq (fun x => x.reduceAt elem))

/-! ## Results -/

/-- What an owner answers a member, with the reduced elements it sends for CAR: element, value and flags. -/
structure OwnerAnswer where
  mism : Bool
  mreg : Bool
  elems : List (Nat × W64 × BitVec 8)
  region : BitVec 12
  deriving DecidableEq, Repr

/-- The answer of an owner on another package (R344). -/
def farAnswer (h : Contribution) (f : Contribution) (p : Nat) : OwnerAnswer :=
  let sz := tyBytes h.ty
  { mism := f.mism, mreg := f.mreg, region := f.regions.head?.getD 0
    elems := ((h.ownedBy p).zipIdx).map (fun e =>
      let b := f.bytes.drop (e.2 * (sz + 1))
      (e.1, BitVec.ofNat 64 (leNat (b.take sz)), (b[sz]?).getD 0)) }

/-- What a unit answers those that sent to it, once it has a verdict and, for CAR, its elements reduced (R336, R344). -/
def XOp.answer (x : XOp) (h : Contribution) : Option OwnerAnswer :=
  match x.verdict with
  | none => none
  | some (mism, mreg) =>
    if !mism && decide (h.kind = .car) && !h.empty && !x.allReduced then none
    else some { mism := mism, mreg := mreg, elems := if h.kind = .car then x.reduced else [], region := x.region }

/-- The answer of rank `p` to a member of a core, once it has one. -/
def State.ownerAnswer (s : State) (c : Nat) (h : Contribution) (p : Nat) : Option OwnerAnswer :=
  match h.table[p]? with
  | none => none
  | some w =>
    let (pkg, core) := memberPlace w
    if pkg = s.pkg then
      ((s.ctxAt core.toNat h.stag h.gid h.seq).bind (fun n => s.xop n core.toNat h.gid h.seq)).bind (fun x => x.answer h)
    else
      ((s.ownXop c h).bind (fun x => x.answers.find? (fun f => decide (f.rank.toNat = p) && decide (f.code = 0)))).map (fun f => farAnswer h f p)

/-- The message with which a unit answers a contribution of another package (R336, R344): for CAR each reduced element with its flags. -/
def State.answerMsg (s : State) (h : Contribution) (k : Contribution) (a : OwnerAnswer) : Msg :=
  let sz := tyBytes h.ty
  let es := if a.mism then [] else a.elems
  let bytes : List Byte := (es.map (fun e => (List.range sz).map (fun i => (BitVec.ofNat 8 (e.2.1.toNat / 2 ^ (8 * i)) : Byte)) ++ [e.2.2])).flatten
  s.partMsg { h with dest := k.core, bytes := bytes, regions := [a.region], mism := a.mism, mreg := a.mreg } k.pkg k.core.toNat none

/-- A contribution of another package that a unit can answer now, by its place among those that have come. -/
def XOp.toAnswer (x : XOp) (pkg : BitVec 21) : Option (Contribution × Contribution × Nat × OwnerAnswer) :=
  match x.own with
  | none => none
  | some h =>
    (x.answer h).bind (fun a =>
      ((x.contribs.zipIdx).find? (fun k => decide (k.1.pkg ≠ pkg) && !x.told.contains k.2)).map (fun k => (h, k.1, k.2, a)))

/-- A unit of this package answers a contribution of another (R336, R344). -/
def State.answerFar (s : State) : Option State :=
  s.xops.findSome? (fun x => (x.toAnswer s.pkg).map (fun (h, k, n, a) =>
    (s.modXop x.ctx x.core x.gid x.seq (fun x => { x with told := x.told ++ [n] })).post (s.answerMsg h k a)))

/-- Notes the flags of a landed element (R343). -/
def Job.flagged (j : Job) (f : BitVec 8) : Job :=
  { j with
    stat := j.stat ||| f
    nvn := if f &&& sNV ≠ 0 then min (j.nvn + 1) (2 ^ 32 - 1) else j.nvn
    ovn := if f &&& (sOF ||| sSAT) ≠ 0 then min (j.ovn + 1) (2 ^ 32 - 1) else j.ovn }

/-- Lands the next run of an item's bytes (R344 rule 4); `note` says what the job notes as its progress moves to a byte. The answer
says whether the item has landed whole. -/
def State.landPart (s : State) (c : Nat) (ch : BitVec 3) (j : Job) (a : W64) (off : Nat) (bs : List TagByte) (note : Nat → Job → Job) :
    Except CopyErr (State × Bool) :=
  match s.landNext c ch a (off + j.part) (bs.drop j.part) with
  | .error e => .error e
  | .ok (n, s) => .ok (s.modJob c ch (fun j => { note (j.part + n) j with part := j.part + n }), decide (bs.length ≤ j.part + n))

/-- The elements that a member receives, in order. -/
def sortElems (h : Contribution) (es : List (Nat × W64 × BitVec 8)) : List (Nat × W64 × BitVec 8) :=
  (List.range h.count.toNat).filterMap (fun e => es.find? (fun x => decide (x.1 = e)))

/-- Notes the flags of the elements whose last byte lands as progress moves to a byte (R343). -/
def noteElems (sz : Nat) (es : List (Nat × W64 × BitVec 8)) (upto : Nat) (j : Job) : Job :=
  (es.zipIdx).foldl (fun (t : Job) e => if j.part < (e.2 + 1) * sz ∧ (e.2 + 1) * sz ≤ upto then t.flagged e.1.2.2 else t) j

/-- Lands the next run of reduced elements, from an offset of DST on. -/
def State.landElems (s : State) (c : Nat) (ch : BitVec 3) (j : Job) (h : Contribution) (off : Nat) (es : List (Nat × W64 × BitVec 8))
    (region : BitVec 12) : Except CopyErr (State × Bool) :=
  let sz := tyBytes h.ty
  let es := sortElems h es
  s.landPart c ch j (slice j.desc 64 64) off (es.map (fun e => tagged region sz e.2.1.toNat)).flatten (noteElems sz es)

/-- Rank `p` has answered a member (R344). -/
def State.markAnswer (s : State) (c : Nat) (ch : BitVec 3) (p : Nat) (f : BitVec 8) : State :=
  (s.modJob c ch (fun j => { j with
    answered := j.answered ++ [p], stat := j.stat ||| f, part := if p ∈ j.landed then 0 else j.part
    landed := if p ∈ j.landed then [] else j.landed }))

/-- Takes the answer of rank `p` to a CAR: its elements land, run by run; until they have, `landed` names the rank. -/
def State.takeElems (s : State) (c : Nat) (ch : BitVec 3) (j : Job) (h : Contribution) (p : Nat) (a : OwnerAnswer) : Except CopyErr State :=
  match s.landElems c ch j h (p * ownShare h.count.toNat h.n.toNat * tyBytes h.ty) a.elems a.region with
  | .error e => .error e
  | .ok (s, whole) =>
    let s := s.modJob c ch (fun j => { j with landed := [p] })
    .ok (if whole then s.markAnswer c ch p 0 else s)

/-- Takes the answer of rank `p` (R336, R344). -/
def State.takeAnswer (s : State) (c : Nat) (ch : BitVec 3) (j : Job) (h : Contribution) (p : Nat) (a : OwnerAnswer) :
    Except CopyErr State :=
  if a.mism then
    let s := if h.kind = .car then s.modJob c ch (fun j => { j with landed := [], part := 0 }) else s
    .ok (s.modJob c ch (fun j => { j with answered := j.answered ++ [p], stat := j.stat ||| sMISM ||| (if a.mreg then sMREG else 0) }))
  else if h.kind = .car then s.takeElems c ch j h p a
  else
    .ok (s.modJob c ch (fun j => { j with answered := j.answered ++ [p] }))

/-- What lands at a member from its own exchange unit: CRS its own elements, the others one block for each rank they expect,
REPART its records (item 0) and those refused of its own (item 1). -/
def itemsOf (h : Contribution) (r : Nat) : List Nat :=
  if h.empty then []
  else
    match h.kind with
    | .car => []
    | .crs => if h.owns r then [0] else []
    | .cag | .ca2a => List.range h.n.toNat
    | .cbc => [h.root.toNat]
    | .repart => [0, 1]

/-- The plan of a REPART at a member. -/
def XOp.plan (x : XOp) (h : Contribution) : Plan := planFor x.contribs h.n.toNat h.rank.toNat

/-- A job whose item has landed. -/
def Job.itemDone (j : Job) (k : Nat) : Job := { j with landed := j.landed ++ [k], part := 0 }

/-- Lands the next run of an item of a member's own unit. -/
def State.landItem (s : State) (c : Nat) (ch : BitVec 3) (j : Job) (h : Contribution) (x : XOp) (k : Nat) :
    Except CopyErr State :=
  let d := j.desc
  let dst : W64 := slice d 64 64
  let put (a : W64) (off : Nat) (bs : List TagByte) : Except CopyErr (State × Bool) := s.landPart c ch j a off bs (fun _ j => j)
  let done : Except CopyErr (State × Bool) :=
    match h.kind with
    | .car => .ok (s, true)
    | .crs => s.landElems c ch j h 0 x.reduced x.region
    | .cag | .ca2a | .cbc =>
      match x.contribs.find? (fun o => decide (o.rank.toNat = k)) with
      | none => .ok (s, true)
      | some o =>
        put dst (if h.kind = .cbc then 0 else k * h.count.toNat * tyBytes h.ty)
          ((o.bytes.zip o.regions).map (fun p => { b := p.1, region := p.2 }))
    | .repart =>
      let p := x.plan h
      if k = 0 then put dst 0 (p.out.map (fun r => r.bytes)).flatten
      else put (slice d 128 64) 0 (p.ovf.map (fun r => r.bytes)).flatten
  match done with
  | .error e => .error e
  | .ok (s, whole) => .ok (if whole then s.modJob c ch (fun j => j.itemDone k) else s)

/-- Every exchange unit has answered a REPART and none found a mismatch, so its records may land (R354). -/
def Job.groupAgrees (j : Job) (h : Contribution) : Bool :=
  decide (j.stat &&& sMISM = 0) && (h.sendsTo h.rank.toNat).all (fun p => j.answered.contains p)

/-- The item that can land next at a member. -/
def State.nextItem (s : State) (c : Nat) (j : Job) (h : Contribution) : Option (XOp × Nat) :=
  match s.ownXop c h with
  | none => none
  | some x =>
    if x.verdict = some (false, false) ∧ x.allReduced ∧ (h.kind = .repart → j.groupAgrees h) then
      ((itemsOf h h.rank.toNat).find? (fun k => !j.landed.contains k)).map (fun k => (x, k))
    else none

/-- The rank whose answer can be taken next: first the one whose elements have begun to land. -/
def State.nextAnswer (s : State) (c : Nat) (j : Job) (h : Contribution) : Option (Nat × OwnerAnswer) :=
  ((if h.kind = .car then j.landed else []) ++ h.sendsTo h.rank.toNat).findSome? (fun p =>
    if j.answered.contains p then none else (s.ownerAnswer c h p).map (fun a => (p, a)))

/-- A negative answer that the unit holds for a member's contribution, with its rank (R337, R345). -/
def State.heldRefusal (s : State) (c : Nat) (j : Job) (h : Contribution) : Option Contribution :=
  (s.ownXop c h).bind (fun x => x.answers.find? (fun f => decide (f.code ≠ 0) && !j.answered.contains f.rank.toNat))

/-- The collective that may take results on a channel: the current one, its source read (R344 rule 2). -/
def State.collJob (s : State) (c : Nat) (ch : BitVec 3) : Option (Job × Contribution) :=
  match s.movingJob c ch with
  | none => none
  | some j =>
    match j.kind with
    | .coll k => if j.src.isSome then some (j, s.header c j k) else none
    | _ => none

/-- A negative answer of the fabric to a member's contribution (R337, R345): REMOTE_NACK at its channel; what it sent that rank is sent
again where the channel goes on. -/
def State.partRefused (s : State) (core : Nat) (c : BitVec 3) (j : Job) (h : Contribution) (p : Nat) (code : BitVec 8) : State :=
  let s := s.modXop (s.core core).inst core h.gid h.seq (fun x =>
    { x with answers := x.answers.filter (fun f => decide (f.rank.toNat ≠ p)) })
  (s.modJob core c (fun j => { j with
    told := j.told.filter (fun q => decide (q ≠ p)) })).chanTrap core c 0x30
      ((j.grp.table[p]?).getD 0) (code.setWidth 64)

/-- The next result of a member's collective lands, or an answer without bytes is taken (R344); a negative answer comes first (R345). -/
def State.landResult (s : State) (core : Nat) (c : BitVec 3) (j : Job) (h : Contribution) : Host.Outcome State Fault Refusal :=
  match s.heldRefusal core j h with
  | some f => .next (s.partRefused core c j h f.rank.toNat f.code)
  | none =>
    match s.nextAnswer core j h with
    | some (p, a) =>
      match s.takeAnswer core c j h p a with
      | .error e => s.chanFail core c e
      | .ok s => .next s
    | none =>
      match s.nextItem core j h with
      | none => .next s
      | some (x, k) =>
        match s.landItem core c j h x k with
        | .error e => s.chanFail core c e
        | .ok s => .next s

/-- The answer of an owner on another package to a member's contribution comes to its exchange unit, which holds it (R344, R355). -/
def State.takeFar (s : State) (core : Nat) (c : BitVec 3) (f : Contribution) : State :=
  if f.pkg = s.pkg ∨ s.stillHere core (.chan c.toNat) then s
  else
    match s.ctxAt core f.stag f.gid f.seq with
    | none => s
    | some n =>
      if (s.xop n core f.gid f.seq).any (fun x => x.own.isSome && !x.ended && !x.answers.any (fun a => decide (a.rank = f.rank))) then
        s.modXop n core f.gid f.seq (fun x => { x with answers := x.answers ++ [f] })
      else s

/-- COLLECTIVE_RESULT_LANDING (R344): an owner's answer is taken, or what the member's own unit holds for it lands, a run at a time; or
the answer of another package comes. -/
def execCollectiveResultLanding (core : Nat) (c : BitVec 3) (far : Option Contribution) (s : State) :
    Host.Outcome State Fault Refusal :=
  match far with
  | some f => .next (s.takeFar core c f)
  | none =>
    match s.collJob core c with
    | none => .next s
    | some (j, h) =>
      if (s.core core).left c.toNat = 0 then .next s
      else s.served core (.chan c.toNat) (({ s with claims := [] } : State).landResult core c j h)

/-- The status block (R343). -/
def Job.statusBlock (j : Job) (stat : BitVec 8) : BitVec 128 :=
  field (BitVec.ofNat 32 j.nvn) 96 ||| field (BitVec.ofNat 32 j.ovn) 64 ||| field j.grp.seq 32 ||| field stat 0

/-- Records of a REPART's item that have landed: all, or those of the item under way that have whole (R353, R354). -/
def Job.recsLanded (j : Job) (k n : Nat) : Nat :=
  if j.landed.contains k then n else if decide (j.landed.length = k) then min n (j.part / j.desc.recSize) else 0

/-- REPART's result block (R353), from its plan where one was formed and the items that have landed. -/
def Job.resultBlock (j : Job) (p : Option Plan) (stat : BitVec 8) : BitVec 512 :=
  let p : Plan := p.getD { wrange := false, w := 0, lo := 0, hi := 0, demand := 0, govf := 0, out := [], ovf := [] }
  let flags : W64 := bit p.wrange 3 ||| bit (decide (stat &&& sCANC ≠ 0)) 2 ||| bit (decide (stat &&& sMISM ≠ 0)) 1 |||
    bit (decide (0 < p.govf)) 0
  let w (v k : Nat) : BitVec 512 := field (BitVec.ofNat 64 v) (64 * k)
  field (flags ||| field j.grp.seq 32) 0 ||| w p.w 1 ||| w p.lo 2 ||| w p.hi 3 ||| w p.demand 4 |||
    w (j.recsLanded 0 p.out.length) 5 ||| w (j.recsLanded 1 p.ovf.length) 6 ||| w p.govf 7

/-- Writes the status block, where the descriptor asks for one, or the result block (R343, R353). -/
def State.writeBlock (s : State) (c : Nat) (j : Job) (k : CollKind) (plan : Option Plan) (stat : BitVec 8) :
    Except MemErr State :=
  let a := j.desc.blockAt k
  if k = .repart then s.putPacket c a (j.resultBlock plan stat)
  else if j.desc.sen then s.stashWrite c a 16 (j.statusBlock stat).toNat
  else .ok s

/-- What a member's own unit found, as status bits (R336, R344). -/
def State.ownStat (s : State) (c : Nat) (h : Contribution) : BitVec 8 :=
  match (s.ownXop c h).bind XOp.verdict with
  | some (true, r) => sMISM ||| (if r then sMREG else 0)
  | _ => 0

/-- The plan of a member whose REPART no exchange unit found mismatched (R354). -/
def State.ownPlan (s : State) (c : Nat) (j : Job) (h : Contribution) : Option Plan :=
  match s.ownXop c h with
  | none => none
  | some x => if h.kind = .repart ∧ x.verdict = some (false, false) ∧ j.stat &&& sMISM = 0 then some (x.plan h) else none

/-- A collective is complete at a member but for its block and flag (R344 rule 5); a mismatch that any unit found ends a REPART
(R354). -/
def State.collDone (s : State) (c : Nat) (j : Job) (h : Contribution) : Bool :=
  let r := h.rank.toNat
  let verdict := (s.ownXop c h).bind XOp.verdict
  let mism := verdict.any (fun v => v.1)
  (decide (h.kind = .repart) && (mism || decide (j.stat &&& sMISM ≠ 0)) && (s.untold j h).isEmpty) ||
    (h.sendsTo r).all (fun p => j.answered.contains p) && ((h.expects r).isEmpty || verdict.isSome) &&
      (mism || (itemsOf h r).all (fun k => j.landed.contains k))

/-- A group operation has nothing more to do at a unit (R348): its member has completed or cancelled it, and other packages have had
their answers. -/
def XOp.over_ (x : XOp) (pkg : BitVec 21) : Bool :=
  x.ended && x.own.any (fun h =>
    (h.expects h.rank.toNat).all (fun p =>
      ((h.table[p]?).map memberPlace).all (fun m => decide (m.1 = pkg) || x.contribs.any (fun k => decide (k.rank.toNat = p)))) &&
      (x.contribs.zipIdx).all (fun k => decide (k.1.pkg = pkg) || x.told.contains k.2))

/-- Forgets a group operation that every member here has completed or cancelled (R348). -/
def State.forgetXop (s : State) (h : Contribution) : State :=
  let mine (x : XOp) : Bool := decide (x.gid = h.gid) && decide (x.seq = h.seq) && x.own.any (fun o => decide (o.stag = h.stag))
  let here := (h.table.map memberPlace).filter (fun p => decide (p.1 = s.pkg))
  if here.all (fun p => s.xops.any (fun x => decide (x.core = p.2.toNat) && mine x && x.over_ s.pkg)) then
    { s with xops := s.xops.filter (fun x => !mine x) }
  else s

/-- A member's part in a group operation is over (R348). -/
def State.endXop (s : State) (c : Nat) (h : Contribution) : State :=
  (s.modXop (s.core c).inst c h.gid h.seq (fun x => { x with ended := true })).forgetXop h

/-- COLLECTIVE_COMPLETE (R343, R344, R353). -/
def execCollectiveComplete (core : Nat) (c : BitVec 3) (s : State) : Host.Outcome State Fault Refusal :=
  match s.collJob core c with
  | none => .next s
  | some (j, h) =>
    if !s.collDone core j h then .next s
    else
      match s.writeBlock core j h.kind (s.ownPlan core j h) (j.stat ||| s.ownStat core h) with
      | .error x => s.chanFail core c (.mem (j.desc.blockAt h.kind) .write x)
      | .ok s =>
        let s := if j.desc.collFen h.kind then s.later core (.fadd (j.desc.collFidx h.kind) 1) else s
        .next ((s.endJob core c j false).endXop core h)

/-! ## Cancellation (R295, R348) -/

/-- Cancels one copy or collective; a collective's block is written with CANC, or abandoned where that meets a fault. A copy whose message
is under way to another package keeps its token until the answer comes (R295). -/
def State.cancelJob (s : State) (c : Nat) (ch : BitVec 3) (j : Job) : State :=
  match j.kind with
  | .coll k =>
    let h := s.header c j k
    let s :=
      match s.writeBlock c j k (s.ownPlan c j h) (j.stat ||| s.ownStat c h ||| sCANC) with
      | .error _ => s
      | .ok s => s
    (s.endJob c ch j true).endXop c h
  | _ =>
    if j.asked.isNone ∨ ((s.core c).chan ch).kept.isSome ∨ s.stillHere c (.chan ch.toNat) then s.endJob c ch j true
    else (s.modJob c ch (fun j => { j with cancelled := true })).modChan c ch (fun x => { x with owed := [] })

/-- Cancels the copies of a channel issued before a number (R295). -/
def State.cancelChan (s : State) (c tnum : Nat) (ch : BitVec 3) : State :=
  let js := (s.core c).jobsBefore ch tnum
  let s := if js.isEmpty then s else s.withdraw c ch
  js.foldl (fun s j => s.cancelJob c ch j) s

/-- The channels that a CCAN names (R295). -/
def ccanChans (all : Bool) (ch : BitVec 3) : List (BitVec 3) := if all then (List.range 8).map (fun n => BitVec.ofNat 3 n) else [ch]

/-- A CCAN that has acted waits for copies that it cancelled (R295). -/
def State.ccanWaits (s : State) (c : Nat) (o : PendOp) : Bool :=
  match o.instr with
  | .ccan all ch _ => decide (o.mask ≠ 0) && (ccanChans all ch).any (fun ch => !((s.core c).jobsBefore ch o.tnum).isEmpty)
  | _ => false

/-- CCAN acts, and completes when every copy that it cancels has been released (R295). -/
def performCcan (c : Nat) (all : Bool) (ch : BitVec 3) (o : PendOp) (s : State) : State :=
  let t := if o.mask = 0 then (ccanChans all ch).foldl (fun (s : State) ch => s.cancelChan c o.tnum ch) s else s
  if t.ccanWaits c { o with mask := 1 } then t.modOp c .ce o.num (fun o => { o with mask := 1 }) else t.finish c .ce o.num

end Sys2Proof.Machine
end

