-- ==== Sys2Proof/Machine/Group.lean ====
section
/-!
DEFINITION. What an instruction of a group names: the registers it reads and writes, its queues, flags and special
registers, and its slot (R31 to R33), with the checks a group must pass (ILL_GROUP).
-/

namespace Sys2Proof.Machine

/-- A register as the dependence check names it (R31). -/
inductive Reg where
  | g (n : BitVec 6) | p (n : BitVec 3) | a (n : BitVec 4) | v (n : BitVec 5) | x (n : BitVec 2) | vp (n : BitVec 3)
  | m (d : Bool)
  deriving DecidableEq, Repr

/-- Slots (R32, R33, R127, R128). -/
inductive SlotClass where
  /-- NOP -/
  | free
  | waitk | slack | rep
  /-- stands alone, with at most a WAITK before it -/
  | alone
  | alu | control | memory
  | compute | floating | exact
  | load | product
  /-- the single slot of the CE -/
  | copy
  deriving DecidableEq, Repr

/-- What an instruction names. -/
structure Uses where
  slot : SlotClass
  rd : List Reg := []
  wr : List Reg := []
  /-- queue sources in reading order, and the queue it pushes -/
  srcs : List (Option (Bool × BitVec 3)) := []
  dst : Option (BitVec 3) := none
  /-- a queue it closes or reads the state of (R117) -/
  names : Option (BitVec 3) := none
  /-- the flag it writes (R31) -/
  flag : Option (BitVec 4) := none
  /-- the special register it names, and whether by MTS -/
  sreg : Option (SReg × Bool) := none
  /-- its scalar guard (R34) -/
  guard : Option Guard := none
  deriving DecidableEq, Repr

/-- The slot of a common major on an engine (R42). -/
def commonSlot (e : Engine) (special : Bool) : SlotClass :=
  match e with
  | .scu => if special then .alu else .memory
  | .ve => if special then .compute else .memory
  | .ce => .copy
  | .mx => .product

end Sys2Proof.Machine

namespace Sys2Proof

open Machine

/-- The register a g-field reads or writes; g0 makes no dependence (R31). -/
def GField.regs : GField → List Reg
  | .r n => if n = 0 then [] else [.g n]
  | .pop _ => []
  | .peek _ => []

/-- A pair of registers (R182). -/
def GField.pairRegs : GField → List Reg
  | .r n => [.g n, .g (n + 1)]
  | .pop _ => []
  | .peek _ => []

/-- The register a vector field names. -/
def VField.regs : VField → List Reg
  | .r n => [.v n]
  | .pop _ => []
  | .peek _ => []

/-- The register a common major's operand names. -/
def RF.regs : RF → List Reg
  | .g f => f.regs
  | .a n => [.a n]

/-- The predicate a guard reads: an SCU predicate, of which p0 makes no dependence, or a vector predicate on the VE (R31, R34). -/
def Guard.regs (e : Engine) (g : Guard) : List Reg :=
  if e = .scu then (if g.p = 0 then [] else [.p g.p]) else if e = .ve then [.vp g.p] else []

/-- A vector predicate; vp0 too makes a dependence: R31 exempts g0 and p0 alone. -/
def vpRegs (g : BitVec 3) : List Reg := [.vp g]

/-- Registers of a memory operand on the SCU. -/
def MemOpnd.gRegs (m : MemOpnd) : List Reg :=
  .a m.base ::
    (match m.mode with
      | .idx => (GField.ofCode m.field).regs
      | .idxShift => (GField.ofCode m.field).regs
      | .off => []
      | .swz => [])

/-- Registers of a memory operand on another engine. -/
def MemOpnd.aRegs (m : MemOpnd) : List Reg :=
  .a m.base ::
    (match m.mode with
      | .idx => [.a (m.field.setWidth 4)]
      | .idxShift => [.a (m.field.setWidth 4)]
      | .off => []
      | .swz => [])

/-- What an instruction of engine `e` names (R31, R32). A step without an encoding names nothing. -/
def Instr.uses (e : Engine) (i : Instr) : Uses :=
  match i with
  | .nop => { slot := .free }
  | .halt => { slot := .alone }
  | .waitk _ => { slot := .waitk }
  | .slack _ => { slot := .slack }
  | .mfs d r g => { slot := commonSlot e true, wr := d.regs, rd := g.regs e, dst := d.push, sreg := some (r, false), guard := some g }
  | .mts r a g => { slot := commonSlot e true, rd := a.regs ++ g.regs e, srcs := [a.qref], sreg := some (r, true), guard := some g }
  | .fset f a _ => { slot := commonSlot e false, rd := a.regs, srcs := [a.qref], flag := some f }
  | .fwait f a _ => { slot := commonSlot e false, rd := a.regs, srcs := [a.qref], flag := some f }
  | .fclr f => { slot := commonSlot e false, flag := some f }
  | .fence _ _ _ _ => { slot := commonSlot e false }
  | .mark g => { slot := commonSlot e false, rd := g.regs e, guard := some g }
  | .tlsig d _ => { slot := commonSlot e false, wr := d.regs, dst := d.push }
  | .tlwait t n _ => { slot := commonSlot e false, rd := t.regs ++ n.regs, srcs := [t.qref, n.qref] }
  | .tlrd d t _ => { slot := commonSlot e false, wr := d.regs, rd := t.regs, srcs := [t.qref], dst := d.push }
  | .binit r b _ _ => { slot := commonSlot e false, rd := .a b :: r.regs }
  | .bwait r b _ _ => { slot := commonSlot e false, rd := .a b :: r.regs }
  | .binv r b _ _ => { slot := commonSlot e false, rd := .a b :: r.regs }
  | .barr r b _ _ => { slot := commonSlot e false, rd := .a b :: r.regs, wr := r.regs }
  | .btry r b _ _ => { slot := commonSlot e false, rd := .a b :: r.regs, wr := r.regs }
  | .trap _ g => { slot := .alone, rd := g.regs e, guard := some g }
  | .brk _ g => { slot := .alone, rd := g.regs e, guard := some g }
  | .faultrd d _ g => { slot := .alone, wr := d.regs, rd := g.regs e, dst := d.push, guard := some g }
  | .hcall d a _ _ => { slot := .alone, wr := d.regs, rd := a.regs }
  | .eret a _ _ => { slot := .alone, rd := a.regs, srcs := [a.qref] }
  | .icinv _ a b _ => { slot := .alone, rd := a.regs ++ b.regs, srcs := [a.qref, b.qref] }
  | .mtrrd d a _ => { slot := .alone, wr := d.regs, rd := a.regs, srcs := [a.qref], dst := d.push }
  | .add d a b g => { slot := .alu, wr := d.regs, rd := a.regs ++ b.regs ++ g.regs e, srcs := [a.qref, b.qref], dst := d.push, guard := some g }
  | .sub d a b g => { slot := .alu, wr := d.regs, rd := a.regs ++ b.regs ++ g.regs e, srcs := [a.qref, b.qref], dst := d.push, guard := some g }
  | .and d a b g => { slot := .alu, wr := d.regs, rd := a.regs ++ b.regs ++ g.regs e, srcs := [a.qref, b.qref], dst := d.push, guard := some g }
  | .or d a b g => { slot := .alu, wr := d.regs, rd := a.regs ++ b.regs ++ g.regs e, srcs := [a.qref, b.qref], dst := d.push, guard := some g }
  | .xor d a b g => { slot := .alu, wr := d.regs, rd := a.regs ++ b.regs ++ g.regs e, srcs := [a.qref, b.qref], dst := d.push, guard := some g }
  | .andn d a b g => { slot := .alu, wr := d.regs, rd := a.regs ++ b.regs ++ g.regs e, srcs := [a.qref, b.qref], dst := d.push, guard := some g }
  | .shl d a b g => { slot := .alu, wr := d.regs, rd := a.regs ++ b.regs ++ g.regs e, srcs := [a.qref, b.qref], dst := d.push, guard := some g }
  | .shr d a b g => { slot := .alu, wr := d.regs, rd := a.regs ++ b.regs ++ g.regs e, srcs := [a.qref, b.qref], dst := d.push, guard := some g }
  | .sra d a b g => { slot := .alu, wr := d.regs, rd := a.regs ++ b.regs ++ g.regs e, srcs := [a.qref, b.qref], dst := d.push, guard := some g }
  | .rotl d a b g => { slot := .alu, wr := d.regs, rd := a.regs ++ b.regs ++ g.regs e, srcs := [a.qref, b.qref], dst := d.push, guard := some g }
  | .min d a b g => { slot := .alu, wr := d.regs, rd := a.regs ++ b.regs ++ g.regs e, srcs := [a.qref, b.qref], dst := d.push, guard := some g }
  | .max d a b g => { slot := .alu, wr := d.regs, rd := a.regs ++ b.regs ++ g.regs e, srcs := [a.qref, b.qref], dst := d.push, guard := some g }
  | .minn d a b g => { slot := .alu, wr := d.regs, rd := a.regs ++ b.regs ++ g.regs e, srcs := [a.qref, b.qref], dst := d.push, guard := some g }
  | .maxn d a b g => { slot := .alu, wr := d.regs, rd := a.regs ++ b.regs ++ g.regs e, srcs := [a.qref, b.qref], dst := d.push, guard := some g }
  | .sel d a b g => { slot := .alu, wr := d.regs, rd := a.regs ++ b.regs ++ g.regs e, srcs := [a.qref, b.qref], dst := d.push }
  | .mul d a b g => { slot := .alu, wr := d.regs, rd := a.regs ++ b.regs ++ g.regs e, srcs := [a.qref, b.qref], dst := d.push, guard := some g }
  | .mulh d a b g => { slot := .alu, wr := d.regs, rd := a.regs ++ b.regs ++ g.regs e, srcs := [a.qref, b.qref], dst := d.push, guard := some g }
  | .mulhn d a b g => { slot := .alu, wr := d.regs, rd := a.regs ++ b.regs ++ g.regs e, srcs := [a.qref, b.qref], dst := d.push, guard := some g }
  | .bext d a b g => { slot := .alu, wr := d.regs, rd := a.regs ++ b.regs ++ g.regs e, srcs := [a.qref, b.qref], dst := d.push, guard := some g }
  | .bins d a b g => { slot := .alu, wr := d.regs, rd := a.regs ++ b.regs ++ g.regs e, srcs := [a.qref, b.qref], dst := d.push, guard := some g }
  | .clz d a g => { slot := .alu, wr := d.regs, rd := a.regs ++ g.regs e, srcs := [a.qref], dst := d.push, guard := some g }
  | .ctz d a g => { slot := .alu, wr := d.regs, rd := a.regs ++ g.regs e, srcs := [a.qref], dst := d.push, guard := some g }
  | .popc d a g => { slot := .alu, wr := d.regs, rd := a.regs ++ g.regs e, srcs := [a.qref], dst := d.push, guard := some g }
  | .addi d a _ => { slot := .alu, wr := d.regs, rd := a.regs, srcs := [a.qref], dst := d.push }
  | .andi d a _ => { slot := .alu, wr := d.regs, rd := a.regs, srcs := [a.qref], dst := d.push }
  | .ori d a _ => { slot := .alu, wr := d.regs, rd := a.regs, srcs := [a.qref], dst := d.push }
  | .xori d a _ => { slot := .alu, wr := d.regs, rd := a.regs, srcs := [a.qref], dst := d.push }
  | .shli d a _ => { slot := .alu, wr := d.regs, rd := a.regs, srcs := [a.qref], dst := d.push }
  | .shri d a _ => { slot := .alu, wr := d.regs, rd := a.regs, srcs := [a.qref], dst := d.push }
  | .srai d a _ => { slot := .alu, wr := d.regs, rd := a.regs, srcs := [a.qref], dst := d.push }
  | .div d a b _ => { slot := .alu, wr := d.regs, rd := a.regs ++ b.regs, srcs := [a.qref, b.qref], dst := d.push }
  | .divn d a b _ => { slot := .alu, wr := d.regs, rd := a.regs ++ b.regs, srcs := [a.qref, b.qref], dst := d.push }
  | .rem d a b _ => { slot := .alu, wr := d.regs, rd := a.regs ++ b.regs, srcs := [a.qref, b.qref], dst := d.push }
  | .remn d a b _ => { slot := .alu, wr := d.regs, rd := a.regs ++ b.regs, srcs := [a.qref, b.qref], dst := d.push }
  | .divideComplete _ => { slot := .free }
  | .cmp p _ a b g => { slot := .alu, wr := if p = 0 then [] else [.p p], rd := a.regs ++ b.regs ++ g.regs e, srcs := [a.qref, b.qref], guard := some g }
  | .cmpi p _ a _ => { slot := .alu, wr := if p = 0 then [] else [.p p], rd := a.regs, srcs := [a.qref] }
  | .movi d _ => { slot := .alu, wr := d.regs, dst := d.push }
  | .movk d _ _ => { slot := .alu, wr := d.regs, rd := d.regs }
  | .ldi d _ => { slot := .alu, wr := d.regs, dst := d.push }
  | .aadd d s g => { slot := .alu, wr := [.a d], rd := .a s :: g.regs, srcs := [g.qref] }
  | .aaddi d s _ => { slot := .alu, wr := [.a d], rd := [.a s] }
  | .amov d a => { slot := .alu, wr := [.a d], rd := a.regs, srcs := [a.qref] }
  | .aget d s => { slot := .alu, wr := d.regs, rd := [.a s], dst := d.push }
  | .amesh d _ => { slot := .alu, wr := d.regs, dst := d.push }
  | .br _ _ g => { slot := .control, rd := g.regs e, guard := some g }
  | .jmp _ _ => { slot := .control }
  | .call _ _ g => { slot := .control, wr := [.a 15], rd := g.regs e, guard := some g }
  | .jmpr a g => { slot := .control, rd := a.regs ++ g.regs e, srcs := [a.qref], guard := some g }
  | .ret g => { slot := .control, rd := .a 15 :: g.regs e, guard := some g }
  | .loopImmediate _ _ _ _ => { slot := .control }
  | .loopRegister _ a _ _ => { slot := .control, rd := a.regs, srcs := [a.qref] }
  | .join _ _ _ g => { slot := .control, rd := g.regs e, guard := some g }
  | .fork _ _ _ g => { slot := .control, rd := g.regs e, guard := some g }
  | .qclose q g => { slot := .memory, names := some q, rd := g.regs e, guard := some g }
  | .qstat d q g => { slot := .memory, wr := d.regs, names := some q, dst := d.push, rd := g.regs e, guard := some g }
  | .ld _ d m _ => { slot := .memory, wr := d.regs, rd := m.gRegs, srcs := [m.qref], dst := d.push }
  | .ldn _ d m _ => { slot := .memory, wr := d.regs, rd := m.gRegs, srcs := [m.qref], dst := d.push }
  | .lda _ d m _ => { slot := .memory, wr := d.regs, rd := m.gRegs, srcs := [m.qref], dst := d.push }
  | .st _ s m _ => { slot := .memory, rd := s.regs ++ m.gRegs, srcs := [s.qref, m.qref] }
  | .atm _ _ d b s _ => { slot := .memory, wr := d.regs, rd := .a b :: s.regs, srcs := [s.qref], dst := d.push }
  | .acas _ d b s _ => { slot := .memory, wr := d.regs, rd := .a b :: s.regs, srcs := [s.qref] }
  | .acas2 d b s _ => { slot := .memory, wr := d.pairRegs, rd := .a b :: s.pairRegs }
  | .stbind r b _ => { slot := .memory, rd := .a b :: r.regs, srcs := [r.qref] }
  | .cflsh r b _ => { slot := .memory, rd := .a b :: r.regs, srcs := [r.qref] }
  | .cinv r b _ => { slot := .memory, rd := .a b :: r.regs, srcs := [r.qref] }
  | .cdisc r b _ => { slot := .memory, rd := .a b :: r.regs, srcs := [r.qref] }
  | .stunbd r _ => { slot := .memory, rd := r.regs, srcs := [r.qref] }
  | .stflsh r _ => { slot := .memory, rd := r.regs, srcs := [r.qref] }
  | .stdrop r _ => { slot := .memory, rd := r.regs, srcs := [r.qref] }
  | .sttch r _ => { slot := .memory, rd := r.regs, srcs := [r.qref] }
  | .rld _ d b _ => { slot := .memory, wr := d.regs, rd := [.a b], dst := d.push }
  | .rst _ s b _ => { slot := .memory, rd := .a b :: s.regs, srcs := [s.qref] }
  | .ratm _ d b s _ => { slot := .memory, wr := d.regs, rd := .a b :: s.regs, srcs := [s.qref], dst := d.push }
  | .rcas t d b s _ =>
    if t = .pair then { slot := .memory, wr := d.pairRegs, rd := .a b :: s.pairRegs }
    else { slot := .memory, wr := d.regs, rd := .a b :: s.regs, srcs := [s.qref] }
  | .casn d b s _ => { slot := .memory, wr := d.regs, rd := .a b :: s.regs, srcs := [s.qref] }
  | .enq d b s _ => { slot := .memory, wr := d.regs, rd := .a b :: s.regs, srcs := [s.qref] }
  | .deq d b s _ => { slot := .memory, wr := d.regs, rd := .a b :: s.regs, srcs := [s.qref] }
  | .chase d b s _ => { slot := .memory, wr := d.regs, rd := .a b :: s.regs, srcs := [s.qref] }
  | .fadd d b s _ => { slot := .memory, wr := d.regs, rd := .a b :: s.regs, srcs := [s.qref] }
  | .fminloc d b s _ => { slot := .memory, wr := d.regs, rd := .a b :: s.regs, srcs := [s.qref] }
  | .rfence _ => { slot := .memory }
  | .vadd _ d a b g => { slot := .floating, wr := d.regs, rd := a.regs ++ b.regs ++ vpRegs g, srcs := [a.qref, b.qref], dst := d.push }
  | .vsub _ d a b g => { slot := .floating, wr := d.regs, rd := a.regs ++ b.regs ++ vpRegs g, srcs := [a.qref, b.qref], dst := d.push }
  | .vmul _ d a b g => { slot := .floating, wr := d.regs, rd := a.regs ++ b.regs ++ vpRegs g, srcs := [a.qref, b.qref], dst := d.push }
  | .vmin _ d a b g => { slot := .floating, wr := d.regs, rd := a.regs ++ b.regs ++ vpRegs g, srcs := [a.qref, b.qref], dst := d.push }
  | .vmax _ d a b g => { slot := .floating, wr := d.regs, rd := a.regs ++ b.regs ++ vpRegs g, srcs := [a.qref, b.qref], dst := d.push }
  | .vfma _ d a b g => { slot := .floating, wr := d.regs, rd := a.regs ++ b.regs ++ vpRegs g, srcs := [a.qref, b.qref], dst := d.push }
  | .vfms _ d a b g => { slot := .floating, wr := d.regs, rd := a.regs ++ b.regs ++ vpRegs g, srcs := [a.qref, b.qref], dst := d.push }
  | .vfnma _ d a b g => { slot := .floating, wr := d.regs, rd := a.regs ++ b.regs ++ vpRegs g, srcs := [a.qref, b.qref], dst := d.push }
  | .vdiv _ d a b _ => { slot := .compute, wr := d.regs, rd := a.regs ++ b.regs, srcs := [a.qref, b.qref], dst := d.push }
  | .vabs _ d a g => { slot := .compute, wr := d.regs, rd := a.regs ++ vpRegs g, srcs := [a.qref], dst := d.push }
  | .vneg _ d a g => { slot := .compute, wr := d.regs, rd := a.regs ++ vpRegs g, srcs := [a.qref], dst := d.push }
  | .vsqrt _ d a _ => { slot := .compute, wr := d.regs, rd := a.regs, srcs := [a.qref], dst := d.push }
  | .vrcp _ d a _ => { slot := .compute, wr := d.regs, rd := a.regs, srcs := [a.qref], dst := d.push }
  | .vrsq _ d a _ => { slot := .compute, wr := d.regs, rd := a.regs, srcs := [a.qref], dst := d.push }
  | .vexp2 _ d a _ => { slot := .compute, wr := d.regs, rd := a.regs, srcs := [a.qref], dst := d.push }
  | .vlog2 _ d a _ => { slot := .compute, wr := d.regs, rd := a.regs, srcs := [a.qref], dst := d.push }
  | .veUnitComplete _ => { slot := .free }
  | .viadd _ d a b g => { slot := .compute, wr := d.regs, rd := a.regs ++ b.regs ++ vpRegs g, srcs := [a.qref, b.qref], dst := d.push }
  | .visub _ d a b g => { slot := .compute, wr := d.regs, rd := a.regs ++ b.regs ++ vpRegs g, srcs := [a.qref, b.qref], dst := d.push }
  | .vimul _ d a b g => { slot := .compute, wr := d.regs, rd := a.regs ++ b.regs ++ vpRegs g, srcs := [a.qref, b.qref], dst := d.push }
  | .vimulh _ d a b g => { slot := .compute, wr := d.regs, rd := a.regs ++ b.regs ++ vpRegs g, srcs := [a.qref, b.qref], dst := d.push }
  | .vimin _ d a b g => { slot := .compute, wr := d.regs, rd := a.regs ++ b.regs ++ vpRegs g, srcs := [a.qref, b.qref], dst := d.push }
  | .vimax _ d a b g => { slot := .compute, wr := d.regs, rd := a.regs ++ b.regs ++ vpRegs g, srcs := [a.qref, b.qref], dst := d.push }
  | .vclamp _ d a b g => { slot := .compute, wr := d.regs, rd := a.regs ++ b.regs ++ vpRegs g, srcs := [a.qref, b.qref], dst := d.push }
  | .vwadd _ d a b g => { slot := .compute, wr := d.regs, rd := a.regs ++ b.regs ++ vpRegs g, srcs := [a.qref, b.qref], dst := d.push }
  | .vand _ d a b g => { slot := .compute, wr := d.regs, rd := a.regs ++ b.regs ++ vpRegs g, srcs := [a.qref, b.qref], dst := d.push }
  | .vor _ d a b g => { slot := .compute, wr := d.regs, rd := a.regs ++ b.regs ++ vpRegs g, srcs := [a.qref, b.qref], dst := d.push }
  | .vxor _ d a b g => { slot := .compute, wr := d.regs, rd := a.regs ++ b.regs ++ vpRegs g, srcs := [a.qref, b.qref], dst := d.push }
  | .vshl _ d a b g => { slot := .compute, wr := d.regs, rd := a.regs ++ b.regs ++ vpRegs g, srcs := [a.qref, b.qref], dst := d.push }
  | .vshr _ d a b g => { slot := .compute, wr := d.regs, rd := a.regs ++ b.regs ++ vpRegs g, srcs := [a.qref, b.qref], dst := d.push }
  | .vsra _ d a b g => { slot := .compute, wr := d.regs, rd := a.regs ++ b.regs ++ vpRegs g, srcs := [a.qref, b.qref], dst := d.push }
  | .vrshr _ d a b g => { slot := .compute, wr := d.regs, rd := a.regs ++ b.regs ++ vpRegs g, srcs := [a.qref, b.qref], dst := d.push }
  | .vmacb _ d a b g => { slot := .compute, wr := d.regs, rd := a.regs ++ b.regs ++ vpRegs g, srcs := [a.qref, b.qref], dst := d.push }
  | .vimulr _ d a b g => { slot := .compute, wr := d.regs, rd := a.regs ++ b.regs ++ vpRegs g, srcs := [a.qref, b.qref], dst := d.push }
  | .vsel _ d a b g => { slot := .compute, wr := d.regs, rd := a.regs ++ b.regs ++ vpRegs g, srcs := [a.qref, b.qref], dst := d.push }
  | .vperm _ d a b g => { slot := .compute, wr := d.regs, rd := a.regs ++ b.regs ++ vpRegs g, srcs := [a.qref, b.qref], dst := d.push }
  | .vkey _ d a b g => { slot := .compute, wr := d.regs, rd := a.regs ++ b.regs ++ vpRegs g, srcs := [a.qref, b.qref], dst := d.push }
  | .vnot _ d a g => { slot := .compute, wr := d.regs, rd := a.regs ++ vpRegs g, srcs := [a.qref], dst := d.push }
  | .vnarb _ d a g => { slot := .compute, wr := d.regs, rd := a.regs ++ vpRegs g, srcs := [a.qref], dst := d.push }
  | .vcmp _ _ p a b g => { slot := .compute, wr := vpRegs p, rd := a.regs ++ b.regs ++ vpRegs g, srcs := [a.qref, b.qref] }
  | .vfcmp _ _ p a b g => { slot := .compute, wr := vpRegs p, rd := a.regs ++ b.regs ++ vpRegs g, srcs := [a.qref, b.qref] }
  | .vpand p a b g => { slot := .compute, wr := vpRegs p, rd := vpRegs a ++ vpRegs b ++ vpRegs g }
  | .vpor p a b g => { slot := .compute, wr := vpRegs p, rd := vpRegs a ++ vpRegs b ++ vpRegs g }
  | .vpnot p a g => { slot := .compute, wr := vpRegs p, rd := vpRegs a ++ vpRegs g }
  | .vcvtLow _ _ d a _ => { slot := .compute, wr := d.regs, rd := a.regs, srcs := [a.qref], dst := d.push }
  | .vcvtHigh _ _ d a _ => { slot := .compute, wr := d.regs, rd := a.regs, srcs := [a.qref], dst := d.push }
  | .vqnt _ d a b _ => { slot := .compute, wr := d.regs, rd := a.regs ++ b.regs, srcs := [a.qref, b.qref], dst := d.push }
  | .vrot _ d a g => { slot := .compute, wr := d.regs, rd := a.regs ++ vpRegs g, srcs := [a.qref], dst := d.push }
  | .vrmrg _ d a g => { slot := .compute, wr := d.regs, rd := a.regs ++ vpRegs g, srcs := [a.qref], dst := d.push }
  | .vshuf _ _ d a g => { slot := .compute, wr := d.regs, rd := a.regs ++ vpRegs g, srcs := [a.qref], dst := d.push }
  | .vbcast _ _ d a g => { slot := .compute, wr := d.regs, rd := a.regs ++ vpRegs g, srcs := [a.qref], dst := d.push }
  | .vextr _ _ d a g => { slot := .compute, wr := d.regs, rd := a.regs ++ vpRegs g, srcs := [a.qref], dst := d.push }
  | .viota _ _ d g => { slot := .compute, wr := d.regs, rd := vpRegs g, dst := d.push }
  | .vscan _ d a g => { slot := .compute, wr := d.regs, rd := a.regs ++ vpRegs g, srcs := [a.qref], dst := d.push }
  | .xclr x g => { slot := .exact, wr := [.x x], rd := vpRegs g }
  | .xacc x a g => { slot := .exact, wr := [.x x], rd := a.regs ++ vpRegs g, srcs := [a.qref] }
  | .xsca _ x a b g => { slot := .exact, wr := [.x x], rd := a.regs ++ b.regs ++ vpRegs g, srcs := [a.qref, b.qref] }
  | .xred _ x a g => { slot := .exact, wr := [.x x], rd := .x a :: vpRegs g }
  | .xrnd _ d a g => { slot := .exact, wr := d.regs, rd := .x a :: vpRegs g, dst := d.push }
  | .xld x m _ => { slot := .memory, wr := [.x x], rd := m.aRegs }
  | .xst x m _ => { slot := .memory, rd := .x x :: m.aRegs }
  | .vld d m _ => { slot := .memory, wr := d.regs, rd := m.aRegs, dst := d.push }
  | .vst s m _ => { slot := .memory, rd := s.regs ++ m.aRegs, srcs := [s.qref] }
  | .vstm s m p _ => { slot := .memory, rd := s.regs ++ m.aRegs ++ vpRegs p, srcs := [s.qref] }
  | .vldq q m p _ => { slot := .memory, wr := [.a m.base], rd := m.aRegs ++ vpRegs p, dst := some q }
  | .vldt d m p _ => { slot := .memory, wr := d.regs, rd := m.aRegs ++ vpRegs p, dst := d.push }
  | .vgath d b _ i p _ => { slot := .memory, wr := [.v d], rd := .a b :: .v i :: vpRegs p }
  | .vscat s b _ i p _ => { slot := .memory, rd := s.regs ++ .a b :: .v i :: vpRegs p, srcs := [s.qref] }
  | .vpref b _ i p _ => { slot := .memory, rd := .a b :: .v i :: vpRegs p }
  | .cpy _ m _ => { slot := .copy, rd := m.aRegs }
  | .cpyt _ m _ => { slot := .copy, rd := m.aRegs }
  | .cpym _ _ m _ => { slot := .copy, rd := m.aRegs }
  | .cbuf _ _ m _ => { slot := .copy, rd := m.aRegs }
  | .cgrp _ m _ => { slot := .copy, rd := m.aRegs }
  | .car _ m _ => { slot := .copy, rd := m.aRegs }
  | .crs _ m _ => { slot := .copy, rd := m.aRegs }
  | .cag _ m _ => { slot := .copy, rd := m.aRegs }
  | .ca2a _ m _ => { slot := .copy, rd := m.aRegs }
  | .cbc _ m _ => { slot := .copy, rd := m.aRegs }
  | .repart _ m _ => { slot := .copy, rd := m.aRegs }
  | .pput _ b m _ => { slot := .copy, rd := [.a b, .a m] }
  | .cwprd d _ _ _ => { slot := .copy, wr := [.a d] }
  | .ccan _ _ _ => { slot := .copy }
  | .cstat d _ _ _ => { slot := .copy, wr := [.a d] }
  | .mlease _ => { slot := .alone }
  | .mfree => { slot := .alone }
  | .mlda r _ m _ => { slot := .load, wr := [.a m.base], rd := .a r :: m.aRegs }
  | .mldb r _ m _ => { slot := .load, wr := [.a m.base], rd := .a r :: m.aRegs }
  | .mldbt r _ m _ => { slot := .load, wr := [.a m.base], rd := .a r :: m.aRegs }
  | .mldp r stp _ m _ => { slot := .load, wr := .a m.base :: (if stp then [.a r] else []), rd := .a r :: m.aRegs }
  | .mldu _ m _ => { slot := .load, wr := [.a m.base], rd := m.aRegs }
  | .mmul _ d _ _ _ _ => { slot := .product, wr := [.m d] }
  | .mzero d _ => { slot := .product, wr := [.m d] }
  | .mrd d m _ => { slot := .product, wr := [.a m.base], rd := .m d :: m.aRegs }
  | .mrdx d q _ => { slot := .product, rd := [.m d], names := some q }
  | .mstat d _ _ => { slot := .alone, wr := [.a d] }
  | .rep _ => { slot := .rep }
  | .mmulp d _ _ _ _ _ _ => { slot := .product, wr := [.m d] }
  | .mmulpt d _ _ _ _ _ _ => { slot := .product, wr := [.m d] }
  | .meps r _ _ m _ => { slot := .product, wr := [.a m.base], rd := .a r :: m.aRegs }
  | .mseed a b => { slot := .alone, rd := [.a a, .a b] }
  | _ => { slot := .free }

end Sys2Proof

namespace Sys2Proof.Machine

/-- Every queue an instruction names (R31, R117). -/
def Uses.queues (u : Uses) : List (BitVec 3) :=
  u.srcs.filterMap (fun r => r.map (fun x => x.2)) ++ u.dst.toList ++ u.names.toList

/-- Two members of a group depend on each other (R31). -/
def conflict (a b : Uses) : Bool :=
  a.wr.any (fun r => b.wr.contains r || b.rd.contains r) || b.wr.any (fun r => a.rd.contains r) ||
    a.queues.any (fun q => b.queues.contains q) ||
    (a.flag.isSome && decide (a.flag = b.flag)) ||
    (match a.sreg, b.sreg with
      | some (r, w), some (r', w') => decide (r = r') && (w || w')
      | _, _ => false)

/-- A prefix (R33). -/
def SlotClass.prefix_ : SlotClass → Bool
  | .waitk | .slack | .rep => true
  | .free | .alone | .alu | .control | .memory | .compute | .floating | .exact | .load | .product | .copy => false

/-- Place of a prefix in the order WAITK, SLACK, REP (R33). -/
def SlotClass.place : SlotClass → Nat
  | .waitk => 1
  | .slack => 2
  | .rep => 3
  | .free | .alone | .alu | .control | .memory | .compute | .floating | .exact | .load | .product | .copy => 4

/-- How many members stand in slots of a kind. -/
def slotCount (us : List Uses) (f : SlotClass → Bool) : Nat := (us.filter (fun u => f u.slot)).length

/-- An instruction that takes a slot. -/
def SlotClass.counts : SlotClass → Bool
  | .free | .waitk | .slack | .rep => false
  | .alone | .alu | .control | .memory | .compute | .floating | .exact | .load | .product | .copy => true

/-- The slot limits of an engine (R32, R127, R128). -/
def slotsOk (e : Engine) (us : List Uses) : Bool :=
  let n (f : SlotClass → Bool) : Nat := slotCount us f
  let fp (c : SlotClass) : Bool := decide (c = .floating)
  let ex (c : SlotClass) : Bool := decide (c = .exact)
  match e with
  | .scu =>
    decide (n SlotClass.counts ≤ 3) && decide (n (fun c => decide (c = .alu)) ≤ 2) &&
      decide (n (fun c => decide (c = .control)) ≤ 1) && decide (n (fun c => decide (c = .memory)) ≤ 1)
  | .ve =>
    decide (n SlotClass.counts ≤ 3) && decide (n (fun c => decide (c = .compute) || fp c || ex c) ≤ 2) &&
      decide (n fp ≤ 1) && decide (n ex ≤ 1) && decide (n (fun c => decide (c = .memory)) ≤ 1)
  | .ce => decide (n SlotClass.counts ≤ 1)
  | .mx =>
    decide (n SlotClass.counts ≤ 2) && decide (n (fun c => decide (c = .load)) ≤ 1) &&
      decide (n (fun c => decide (c = .product)) ≤ 1)

/-- The rules of prefixes and stand-alone instructions (R33); NOP may stand anywhere. The members after the first `n` that
break nothing: true when the group up to its last member is legal. -/
def prefixesOk (us : List Uses) : Bool :=
  let slots := (us.map (fun u => u.slot)).filter (fun c => decide (c ≠ .free))
  -- prefixes come first, each at most once, in their order
  decide ((slots.map SlotClass.place).Pairwise (fun a b => a < b ∨ (a = 4 ∧ b = 4))) &&
    (!slots.contains .alone || decide ((slots.filter (fun c => decide (c ≠ .waitk))).length ≤ 1))

/-- A group of prefixes alone that contains REP is illegal (R33). -/
def repAlone (us : List Uses) : Bool :=
  us.any (fun u => decide (u.slot = .rep)) && us.all (fun u => u.slot.prefix_)

/-- The index of the first member that breaks a group rule together with those before it (R31 to R33, R35): the later of the
members in conflict. -/
def groupFault (e : Engine) (us : List Uses) : Option Nat :=
  match (List.range us.length).find? (fun n =>
      let upto := us.take (n + 1)
      !slotsOk e upto || !prefixesOk upto ||
        (us.take n).any (fun a => us[n]?.any (fun b => conflict a b))) with
  | some n => some n
  | none => if repAlone us then some (us.length - 1) else none

end Sys2Proof.Machine
end

