-- ==== Sys2Proof/Machine/Fetch.lean ====
section
/-!
DEFINITION. An engine's group as its sequencer sees it, and the engine's own steps besides issue: instruction fetch (R48),
landing (R84), the end of a HALT (R120), queue time-outs (R97) and stalls (R90).
-/

namespace Sys2Proof.Machine

/-- Points the model at an engine. -/
def State.at_ (s : State) (c : Nat) (e : Engine) : State := { s with focus := c, eng := e }

/-- The members of the group at syllable `y` of a line, each with its syllable and what it decodes to. -/
def Line.members (l : Line) (e : Engine) (y : Nat) : List (Nat × Syl × Except DecodeFault Instr) :=
  (Line.group l y).map (fun n => (n, Line.word l n, decode e (Line.word l n) (Line.word l (n + 1))))

/-- The instructions of the group an engine stands at; empty where its line is not cached. -/
def State.groupAt (s : State) (c : Nat) (e : Engine) : List Instr :=
  let p := ((s.core c).ctx e).pt
  match s.cached c p with
  | none => []
  | some l => (Line.members l e (ptSyl p).toNat).filterMap (fun m => m.2.2.toOption)

/-- A member acts: its scalar guard holds (R34). -/
def Core.active (k : Core) (e : Engine) (u : Uses) : Bool := u.guard.all (fun g => k.guardOn e g)

/-- The first queue condition of a group that is not met, in syllable order and then s1, s2 and the push (R96, R97). -/
def Core.unmetQueue (k : Core) (e : Engine) (is : List Instr) : Option (BitVec 3) :=
  is.findSome? (fun i =>
    let u := i.uses e
    if !k.active e u then none
    else
      (queueWaits k { srcs := u.srcs, dst := u.dst }).findSome? (fun c =>
        match c with
        | .pop q => some q
        | .push q => some q
        | .flag | .token | .fork | .join | .order | .hold | .bank => none))

/-! ## Landing and halting -/

/-- The landing buffer of an engine counts in this cycle (R86). It stops from the cycle in which a group traps or parks, or in
which the engine's instance stops, and from the cycle after one in which an operation's trap or a fetch's page request parks it;
and it goes on with the first group that comes to issue (log 25). -/
def State.counts (s : State) (c : Nat) (e : Engine) : Bool := decide ((s.core c).inst ≠ 0) && !((s.core c).ctx e).frozen

/-- Whether an engine's landing buffer stands still in the next cycle (R86): a trap or a page request parks it, or its instance
does not run. -/
def State.stands (s : State) (c : Nat) (e : Engine) : Bool :=
  ((s.core c).ctx e).frozen || (s.core c).parked e || decide ((s.instOf c).status ≠ .running) ||
    (match ((s.core c).ctx e).run with
      | .fetchParked _ _ _ => true
      | .halted | .halting | .running => false)

/-- Results of an engine land at the end of this cycle (R84, R85): every group of the cycle has issued. -/
def State.landsNow (s : State) (c : Nat) (e : Engine) : Bool :=
  let (due, go, _) := (s.core c).landing e (s.counts c e) s.cycle
  s.turn.isEmpty && (!due.isEmpty || !go.isEmpty)

/-- RESULT_LANDING (R84). -/
def execResultLanding (core : Nat) (e : Engine) (s : State) : Host.Outcome State Fault Refusal :=
  if s.landsNow core e then .next (s.modCore core (fun k => k.landDue e (s.counts core e) s.cycle)) else .next s

/-- A HALT is complete: every token reads zero, and the landing buffer and the queues are empty (R120). -/
def Ctx.drained (x : Ctx) : Bool :=
  decide (x.run = .halting) && x.tok.isEmpty && x.land.isEmpty && x.ops.isEmpty

/-- ENGINE_HALTED (R120). -/
def execEngineHalted (core : Nat) (e : Engine) (s : State) : Host.Outcome State Fault Refusal :=
  if ((s.core core).ctx e).drained then .next (s.modCore core (fun k => k.modCtx e (fun x => { x with run := .halted })))
  else .next s

/-! ## Fetch -/

/-- An engine may issue: it runs, no trap of its own parks it, and its instance runs (R358, R392). -/
def State.mayIssue (s : State) (c : Nat) (e : Engine) : Bool :=
  decide (((s.core c).ctx e).run = .running) && !(s.core c).parked e && decide ((s.core c).inst ≠ 0) &&
    decide ((s.instOf c).status = .running)

/-- The line an engine needs and does not find in the instruction cache: that of its group, or of a target the group names, unless
that has been tried already. -/
def State.wantedLine (s : State) (c : Nat) (e : Engine) : Option W64 :=
  if !s.mayIssue c e then none
  else
    let x := (s.core c).ctx e
    let p := ptLine (if x.stuck then x.target.getD x.pt else x.pt)
    if x.stuck && x.reach.bars p then none
    else
      match s.cached c p with
      | none => some p
      | some _ => none

/-- Checks of a fetch that need no translation: an instance whose image was measured fetches only within it (R410), and a
line lies in global memory (R171). -/
def State.fetchDenied (s : State) (c : Nat) (p : W64) : Bool :=
  decide (slice p 48 16 ≠ 0#16) ||
    (match (s.instOf c).image with
      | none => false
      | some (b, n) => !(decide (b.toNat ≤ p.toNat) && decide (p.toNat + 64 ≤ b.toNat + n.toNat)))

/-- Reads a line for a fetch (R48): translated with execute permission, in a frame without a meter region, not poisoned. One that a
stash holds claims that stash's banks (R159). -/
def State.readLine (s : State) (c : Nat) (p : W64) : Except MemErr (Line × State) :=
  if s.fetchDenied c p then .error (.trap 0x11 (permDetail .fetch false))
  else
    match ({ s with claims := [] } : State).locate c (s.space c) p.toNat .fetch false with
    | .error x => .error x
    | .ok (l, t) =>
      let (a, pa, fa) := s.sector (l.pa / 32)
      let (b, pb, fb) := s.sector (l.pa / 32 + 1)
      if !t.banksFree then .error .later
      else if l.region ≠ 0 then .error (.trap 0x13 (meterDetail l.region 0))
      else if pa || pb then .error (.trap 0x14 (BitVec.ofNat 64 (if pa then fa else fb)))
      else .ok (a.setWidth 512 ||| ((b.setWidth 512) <<< 256), t.takeBanks)

/-- Effect of a fetch that brings a line. -/
def fetchEffect (core : Nat) (e : Engine) (p : W64) (l : Line) (s : State) : State :=
  (s.cache core p l).modCore core (fun k => k.modCtx e (fun x => { x with reach := .idle }))

/-- A fetch that faults: it traps at the group fetched; where a transfer waits for the line of its target, the transfer is taken
first, and the target's fetch traps (R48, R111; log 25). -/
def State.fetchFault (s : State) (c : Nat) (e : Engine) (p : W64) (code : BitVec 8) (addr detail : W64)
    (fail : Option (W64 × W64)) : State :=
  let x := (s.core c).ctx e
  if x.stuck ∧ x.reach = .asked then
    s.modCore c (fun k => k.modCtx e (fun x => { x with reach := .barred (ptLine p) fail }))
  else ((s.modCore c (fun k => k.modCtx e (fun x => { x with reach := .idle }))).at_ c e).groupTrap code addr detail

/-- An engine parked on a page request that has been answered (R374), with the answer and what missed. -/
def State.fetchAnswer (s : State) (c : Nat) (e : Engine) : Option (Bool × W64 × Access) :=
  match ((s.core c).ctx e).run with
  | .fetchParked r va acc =>
    if (s.instOf c).status = .running then ((s.reqs.get PageReq.init r).reply).map (fun x => (x, va, acc)) else none
  | .halted | .halting | .running => none

/-- DETAIL of an access that a FAIL reply ends (R363, R374). -/
def failDetail (acc : Access) : W64 := field acc.code 1 ||| 1

/-- A fetch whose page request has been answered: RETRY fetches its group again, FAIL makes it trap PERM with XFAIL (R374). -/
def answerFetch (core : Nat) (e : Engine) (retry : Bool) (va : W64) (acc : Access) (s : State) : State :=
  let s := s.modCore core (fun k => k.modCtx e (fun x => { x with run := .running }))
  if retry then s
  else
    let x := (s.core core).ctx e
    s.fetchFault core e (if x.stuck then x.target.getD x.pt else x.pt) 0x11 va (failDetail acc) (some (va, failDetail acc))

/-- The fetch of a group that a FAIL reply has already ended, met when its transfer was taken. -/
def State.failedFetch (s : State) (c : Nat) (e : Engine) (p : W64) : Option (W64 × W64) :=
  let x := (s.core c).ctx e
  match x.reach with
  | .barred q f => if !x.stuck && decide (q = ptLine p) then f else none
  | .idle | .asked => none

/-- INSTRUCTION_FETCH (R48): the line comes into the instruction cache, or the engine parks on a page request, or its group
traps; an engine whose page request has been answered goes on (R374). A fetch that finds a stash bank taken, or its die's miss-merge
table full, waits for the next cycle, with the age of its first try (R159, R370). -/
def execInstructionFetch (core : Nat) (e : Engine) (s : State) : Host.Outcome State Fault Refusal :=
  match s.fetchAnswer core e with
  | some (retry, va, acc) => .next (answerFetch core e retry va acc s)
  | none =>
  match s.wantedLine core e with
  | none => .next s
  | some p =>
    match s.failedFetch core e p with
    | some (va, d) => .next (s.fetchFault core e p 0x11 va d none)
    | none =>
    match s.readLine core p with
    | .ok (l, s) => .next (fetchEffect core e p l s)
    | .error (.gone pa) => .fault (.noMemory pa)
    | .error (.missAt m) =>
      let (s, r) := s.pageRequest { core := core, eng := e, chan := none } m
      .next (s.modCore core (fun k => k.modCtx e (fun x => { x with run := .fetchParked r (BitVec.ofNat 64 m.va) .fetch })))
    | .error .later => .next (s.modCore core (fun k => k.noteClaim (.fetch e) s.cycle s.cycle))
    | .error (.miss _ _ _ _ _) => .next s
    | .error (.trap code d) => .next (s.fetchFault core e p code p d none)
    | .error (.trapAt code _ d) => .next (s.fetchFault core e p code p d none)

/-! ## Waits that last -/

/-- Cycles a group may wait on queues (R97). -/
def queueLimit : Nat := 2 ^ 20

/-- The queue that a time-out of an engine's group names; none while there is no time-out (R97). -/
def State.timedOut (s : State) (c : Nat) (e : Engine) : Option (BitVec 3) :=
  match ((s.core c).ctx e).wait with
  | none => none
  | some w => if s.mayIssue c e ∧ queueLimit < w.qlen then (s.core c).unmetQueue e (s.groupAt c e) else none

/-- Q_TIMEOUT (R97). -/
def execQTimeout (core : Nat) (e : Engine) (s : State) : Host.Outcome State Fault Refusal :=
  match s.timedOut core e with
  | none => .next s
  | some q =>
    .next (((s.modCore core (fun k => k.modCtx e (fun x => { x with wait := none }))).at_ core e).groupTrap 0x20 0
      (q.setWidth 64))

/-- A wait whose length exceeds the slack in force, and that is neither held nor a stall already (R90, R91). -/
def Ctx.stallsNow (x : Ctx) : Bool :=
  x.wait.any (fun w => !onlyHeld w.causes && !w.held && !w.stalled && decide (w.slack.toNat < w.len))

/-- STALL (R90). -/
def execStall (core : Nat) (e : Engine) (s : State) : Host.Outcome State Fault Refusal :=
  if ((s.core core).ctx e).stallsNow then
    .next (s.modCore core (fun k => k.modCtx e (fun x => { x with wait := x.wait.map (fun w => { w with stalled := true }) })))
  else .next s

/-- An engine is in a stall (R90 to R92): it is neither parked nor held, and its group waits. -/
def Core.stalls (k : Core) (e : Engine) : Bool :=
  decide ((k.ctx e).run = .running) && !k.parked e && (k.ctx e).wait.any (fun w => w.stalled && !w.held && !onlyHeld w.causes)

/-- The panel's stall wire (R91): asserted while any engine of any core of the panel is in a stall. -/
def State.stallWire (s : State) (ctx : Nat) : Bool :=
  s.cores.any (fun ck => decide (ck.2.inst = ctx) && [Engine.scu, .ve, .ce, .mx].any ck.2.stalls)

/-- A sample of a static panel's stall wire is due (R91 step 2): one for each nanosecond of global time. -/
def State.sampleDue (s : State) (ctx : Nat) : Bool :=
  let i := s.insts.get Inst.init ctx
  i.static_ && decide (i.status = .running) && decide (i.sampled.toNat < s.gtime.toNat)

/-- A BWAIT begun while the stall wire was asserted is held (R91 step 4): its guard is nonzero until a sample finds the wire
deasserted. -/
def PendOp.freeWait (o : PendOp) : PendOp :=
  match o.instr with
  | .bwait _ _ _ _ => { o with mask := 0 }
  | _ => o

/-- A deasserted sample ends what the stall wire holds on an engine (R91 step 4). -/
def Ctx.unhold (x : Ctx) : Ctx :=
  { x with wait := x.wait.map (fun w => { w with held := false }), ops := x.ops.map PendOp.freeWait }

/-- The same on a core. -/
def Core.unhold (k : Core) : Core :=
  { k with scu := k.scu.unhold, ve := k.ve.unhold, ce := k.ce.unhold, mx := k.mx.unhold }

/-- A sample of a panel's stall wire (R91): one that finds it asserted adds one nanosecond to the panel's freeze; one that does
not ends what the wire holds. -/
def State.sampleWire (s : State) (ctx : Nat) : State :=
  let on := s.stallWire ctx
  let t := s.modInst ctx (fun i =>
    { i with sampled := i.sampled + 1, asserted := on, freeze := if on then i.freeze + 1 else i.freeze })
  if on then t
  else
    { t with cores := t.cores.foldl (fun (l : Tbl Core) (ck : Nat × Core) =>
        if ck.2.inst = ctx then l.set Core.init ck.1 ck.2.unhold else l) t.cores }

/-- STALL_WIRE_SAMPLE (R91). -/
def execStallWireSample (ctx : Nat) (s : State) : Host.Outcome State Fault Refusal :=
  if s.sampleDue ctx then .next (s.sampleWire ctx) else .next s

end Sys2Proof.Machine
end

