-- ==== Sys2Proof/Machine/Banks.lean ====
section
/-!
DEFINITION. The stash banks that a group of the SCU or the VE claims as it issues (R159): which sectors its accesses need, and
whether their banks are free.
-/

namespace Sys2Proof.Machine

/-- A sector of a row of a stash. -/
abbrev StashSector : Type := Nat × Nat

/-- The sector of a stash address, or none of a global one. -/
def sectorAt (a : W64) : List StashSector := if isStash a then [(stashRow a, (slice a 5 3).toNat)] else []

/-- Sectors of a row that a mask of eight names. -/
def rowSectors (q : Nat) (m : BitVec 8) : List StashSector :=
  ((List.range 8).filter (fun n => m.getLsbD n)).map (fun n => (q % 8192, n))

/-- Stash sectors of the lanes of a gather, scatter or prefetch, each once (R177). -/
def laneSectors (o : PendOp) (sh : Bool) : List StashSector :=
  (((List.range 64).filter (fun j => o.mpc.getLsbD j)).map (fun j => sectorAt (laneAddr o sh j))).flatten.eraseDups

/-- Stash sectors of the 16 rows of an exact register's image (R154). -/
def imageSectors (o : PendOp) : List StashSector :=
  if isStash o.addr then ((List.range 16).map (fun n => rowSectors (stashRow o.addr + n) 0xFF)).flatten else []

/-- Stash sectors of a barrier operation: those of an object of its own core's stash (R206). -/
def State.barSectors (s : State) (c : Nat) (o : PendOp) : List StashSector :=
  if s.barHome c (o.val.setWidth 64) = some c then sectorAt o.addr else []

/-- Stash sectors that an operation of the SCU or the VE accesses (R158, R159, R173, R176). -/
def State.opSectors (s : State) (c : Nat) (o : PendOp) : List StashSector :=
  match o.instr with
  | .ld _ _ _ _ | .ldn _ _ _ _ | .lda _ _ _ _ | .st _ _ _ _ | .atm _ _ _ _ _ _ | .acas _ _ _ _ _ | .acas2 _ _ _ _ => sectorAt o.addr
  | .vld _ _ _ | .vldq _ _ _ _ | .vst _ _ _ => if isStash o.addr then rowSectors (stashRow o.addr) 0xFF else []
  | .vstm _ m _ _ =>
    if isStash o.addr then
      rowSectors (stashRow o.addr) (sectorsOf (swizzleMask (MemOpnd.swizzled m) (stashRow o.addr) o.mask)) else []
  | .vldt _ m _ _ =>
    if isStash o.addr then
      ((List.range 8).map (fun k =>
        if slice o.mask (32 * k) 32 = 0#32 then []
        else sectorAt (sectorAddr (MemOpnd.swizzled m) (stashRow o.addr + k) (slice o.addr 5 3).toNat))).flatten
    else []
  | .vgath _ _ sh _ _ _ | .vscat _ _ sh _ _ _ | .vpref _ sh _ _ _ => laneSectors o sh
  | .xld _ _ _ | .xst _ _ _ => imageSectors o
  | .binit _ _ _ _ | .binv _ _ _ _ | .btry _ _ _ _ | .barr _ _ _ _ | .bwait _ _ _ _ => s.barSectors c o
  | _ => []

/-- The bank of a sector (R159). -/
def bankOf (x : StashSector) : Nat := 8 * (x.1 % 4) + x.2

/-- Banks that an operation claims, one for each sector it needs. -/
def State.opBanks (s : State) (c : Nat) (o : PendOp) : List Nat := (s.opSectors c o).map bankOf

/-- Cycles that sectors of one bank add to an access (R159). -/
def bankRepeats (bs : List Nat) : Nat := (bs.map (fun b => bs.count b - 1)).foldl max 0

/-- The operations that a group of the SCU or the VE has entered. -/
def State.entered (s t : State) : List PendOp :=
  if s.eng = .scu ∨ s.eng = .ve then t.ctx.ops.filter (fun o => decide (s.ctx.serial < o.num)) else []

/-- The banks that a group claims which leads from `s` to `t`. -/
def State.groupBanks (s t : State) : List Nat := ((s.entered t).map (fun o => t.opBanks s.focus o)).flatten

/-- The group waits for banks: one that it claims is taken (R159). -/
def State.waitsBank (s t : State) : Bool := (s.groupBanks t).any (fun b => !s.cur.bankFree b s.cycle)

/-- A group that issues takes its banks, and its accesses note how long they occupy one (R159). -/
def State.takeGroup (s t : State) : State :=
  let ops := s.entered t
  let t := (s.groupBanks t).foldl (fun (t : State) b => t.modCur (fun k => k.takeBank b s.cycle)) t
  ops.foldl (fun (t : State) o => t.modOp s.focus s.eng o.num (fun p => { p with part := bankRepeats (t.opBanks s.focus o) })) t

end Sys2Proof.Machine
end

