-- ==== Sys2Proof/Machine/Mx.lean ====
section
/-!
DEFINITION. The matrix class (R220 to R271): the array's lease and command sequence, tile loads with the unfolding unit,
products plain and perturbed, readouts, MEPS, MSTAT, MSEED and REP, and the steps of the array and the infuser.
-/

namespace Sys2Proof

open Machine

/-! ## Classes -/

/-- Operand class of a format (R225). -/
def MFmt.cls : MFmt → Nat
  | .e4m3 | .e5m2 | .i8 => 0
  | .e3m2 | .e2m3 => 1
  | .e2m1 => 2
  | .t2 => 3

/-- Exact value of an element of the A operand of a product (R58, R61, R241). -/
def MFmt.valueA (t : MFmt) (c : Nat) : Machine.Num :=
  match t with
  | .e4m3 => fE4M3.decode c
  | .e5m2 => fE5M2.decode c
  | .e3m2 => fE3M2.decode c
  | .e2m3 => fE2M3.decode c
  | .e2m1 => fE2M1.decode c
  | .i8 => Num.ofInt (BitVec.ofNat 8 c).toInt
  | .t2 => Num.ofInt (BitVec.ofNat 8 c).toInt

/-- Exact value of an element of the B operand: T2 codes 0, +1 and −1, and 0 for the reserved one (R62). -/
def MFmt.valueB (t : MFmt) (c : Nat) : Machine.Num :=
  match t with
  | .t2 => if c = 1 then .fin false 1 1 else if c = 3 then .fin true 1 1 else .fin false 0 1
  | .e4m3 | .e5m2 | .e3m2 | .e2m3 | .e2m1 | .i8 => t.valueA c

/-- An integer format (R231). -/
def MFmt.isInt (t : MFmt) : Bool := decide (t = .i8 ∨ t = .t2)

/-- The kind a product gives its accumulator (R231). -/
def MFmt.kind (t : MFmt) : AccKind := if t.isInt then .int else .float

/-- An array command (R220). -/
def Instr.isArray (i : Instr) : Bool :=
  match i with
  | .mmul _ _ _ _ _ _ | .mzero _ _ | .mrd _ _ _ | .mrdx _ _ _ | .mmulp _ _ _ _ _ _ _ | .mmulpt _ _ _ _ _ _ _ => true
  | .meps _ _ _ _ _ => true
  | _ => false

/-- A perturbed command, which needs a formed tile (R251). -/
def Instr.isPerturbed (i : Instr) : Bool :=
  match i with
  | .mmulp _ _ _ _ _ _ _ | .mmulpt _ _ _ _ _ _ _ | .meps _ _ _ _ _ => true
  | _ => false

/-- What a product keeps of its tiles: KA, KB; none for a command that takes no tiles. -/
def Instr.keeps (i : Instr) : Option (Bool × Bool) :=
  match i with
  | .mmul _ _ kb ka _ _ => some (ka, kb)
  | .mmulp _ _ kb ka _ _ _ => some (ka, kb)
  | .mmulpt _ _ kb ka _ _ _ => some (ka, kb)
  | _ => none

/-- A command that uses the drain path (R229, R267). -/
def Instr.drains (i : Instr) : Bool :=
  match i with
  | .mrd _ _ _ | .mrdx _ _ _ | .meps _ _ _ _ _ => true
  | _ => false

/-- The FIFO a tile load fills: true for A; and its class, 4 for P (R226, R261). -/
def Instr.tileOf (i : Instr) : Option (Bool × Nat) :=
  match i with
  | .mlda _ c _ _ => some (true, c.toNat)
  | .mldu c _ _ => some (true, c.toNat)
  | .mldb _ c _ _ => some (false, c.toNat)
  | .mldbt _ c _ _ => some (false, c.toNat)
  | .mldp _ _ _ _ _ => some (false, 4)
  | _ => none

end Sys2Proof

namespace Sys2Proof.Machine

/-- k-block size of a class (R225). -/
def classK (c : Nat) : Nat := if c = 0 then 32 else 64

/-- Width of an element of the A operand (R225). -/
def widthA (c : Nat) : Nat := if c = 1 then 6 else if c = 2 then 4 else 8

/-- Width of an element of the B operand; a pair for class P (R225, R261). -/
def widthB (c : Nat) : Nat := if c = 1 then 6 else if c = 2 then 4 else if c = 3 then 2 else if c = 4 then 16 else 8

/-- Bytes of an A tile and of a B tile (R225, R261). -/
def tileBytesA (c : Nat) : Nat := 64 * classK c * widthA c / 8

/-- Bytes of a B tile. -/
def tileBytesB (c : Nat) : Nat := if c = 4 then 8192 else 128 * classK c * widthB c / 8

/-! ## The command sequence -/

/-- The implicit request of R223 step 2: an array command heads the sequence of a core without a standing request. -/
def MxState.settle (m : MxState) : MxState :=
  { m with implicit := decide (m.standing = 0) &&
      (match m.cmds with
        | [] => false
        | x :: _ => x.instr.isArray) }

/-- Appends a command. -/
def MxState.append (m : MxState) (x : Cmd) : MxState := { m with cmds := m.cmds ++ [x] }.settle

/-- Removes the head of the sequence. -/
def MxState.dropHead (m : MxState) : MxState := { m with cmds := m.cmds.tail }.settle

/-- A command with nothing captured. -/
def Cmd.of (i : Instr) (num : Nat) : Cmd := { num := num, instr := i, addr := 0, seed := 0, member := 0, k0 := 0, j0 := 0 }

/-- Enters a command without token, timeline number or operation: MLEASE and MFREE (R233). -/
def cmdEffect (i : Instr) (s : State) : State := s.modCur (fun k => { k with mxs := k.mxs.append (Cmd.of i 0) })

/-- Enters a command with its operation (R220). -/
def State.enterCmd (s : State) (o : PendOp) (x : Cmd) : State :=
  let num := s.ctx.serial + 1
  (s.enterOp o).modCur (fun k => { k with mxs := k.mxs.append { x with num := num } })

/-- MLEASE (R233): ILL_FIELD unless 1 ≤ n ≤ 256. -/
def execMlease (n : BitVec 10) (s : State) : Host.Outcome State Fault Refusal :=
  s.issue { bad := decide (n = 0) || decide (256 < n.toNat) } (cmdEffect (.mlease n))

/-- MFREE (R233). -/
def execMfree (s : State) : Host.Outcome State Fault Refusal := s.issue {} (cmdEffect .mfree)

/-- REP (R246): what it does to its group is done where the group moves on. -/
def execRep (_n : BitVec 12) (s : State) : Host.Outcome State Fault Refusal := .next s

/-- Effect of MSEED (R268). -/
def mseedEffect (a b : BitVec 4) (s : State) : State :=
  (s.later s.focus (.mts .mx .seeds (s.ctx.ar a))).later s.focus (.mts .mx .seedm (s.ctx.ar b))

/-- MSEED (R268). -/
def execMseed (a b : BitVec 4) (s : State) : Host.Outcome State Fault Refusal := s.issue {} (mseedEffect a b)

/-! ## Issue of loads and commands -/

/-- Term of the post-increment with unit u (R221). -/
def Ctx.term (x : Ctx) (m : MemOpnd) (u : Nat) : W64 :=
  match m.mode with
  | .off => offsetTerm m.field u
  | .idx => x.ar (m.field.setWidth 4)
  | .idxShift => x.ar (m.field.setWidth 4) * BitVec.ofNat 64 u
  | .swz => offsetTerm m.field u

/-- The stash address that an address of the MX names: bits 63:21 are ignored (R221). -/
def mxAddr (a : W64) : W64 := bit true 63 ||| (slice a 0 21).setWidth 64

/-- The base register moves on (R221). -/
def State.postInc (s : State) (m : MemOpnd) (u : Nat) : State :=
  s.modCtx (fun x => x.setA m.base (x.ar m.base + x.term m u))

/-- Needs of a tile load (R234). -/
def needsTile (w : BitVec 3) : Needs := { tok := some w, ld := true }

/-- Enters a tile load with its access address and the register that holds its stride (R227). -/
def tileEffect (i : Instr) (r : BitVec 4) (m : MemOpnd) (w : BitVec 3) (s : State) : State :=
  let a := s.ctx.ar m.base
  let v := s.ctx.ar r
  (s.postInc m 16).enterOp { PendOp.of i (some w) with ld := true, addr := mxAddr a, val := v.setWidth 2048 }

/-- MLDA (R235). -/
def execMlda (r : BitVec 4) (cls : BitVec 2) (m : MemOpnd) (w : BitVec 3) (s : State) : Host.Outcome State Fault Refusal :=
  s.issue (needsTile w) (tileEffect (.mlda r cls m w) r m w)

/-- MLDB (R236). -/
def execMldb (r : BitVec 4) (cls : BitVec 2) (m : MemOpnd) (w : BitVec 3) (s : State) : Host.Outcome State Fault Refusal :=
  s.issue (needsTile w) (tileEffect (.mldb r cls m w) r m w)

/-- MLDBT (R236). -/
def execMldbt (r : BitVec 4) (cls : BitVec 2) (m : MemOpnd) (w : BitVec 3) (s : State) : Host.Outcome State Fault Refusal :=
  s.issue (needsTile w) (tileEffect (.mldbt r cls m w) r m w)

/-- Enters MLDU: UNFD and the position word are read at issue (R238, R240). -/
def mlduEffect (cls : BitVec 2) (m : MemOpnd) (w : BitVec 3) (s : State) : State :=
  let a := s.ctx.ar m.base
  (s.postInc m 1).enterOp { PendOp.of (.mldu cls m w) (some w) with
    ld := true, addr := mxAddr s.cur.mxs.unfd, val := a.setWidth 2048, val2 := s.sylDetail.setWidth 2048 }

/-- MLDU (R240). -/
def execMldu (cls : BitVec 2) (m : MemOpnd) (w : BitVec 3) (s : State) : Host.Outcome State Fault Refusal :=
  s.issue (needsTile w) (mlduEffect cls m w)

/-- The step of a coordinate register (R262): 32 in K0 for .row, in J0 for .col, within the 24-bit field. -/
def coordStep (v : W64) (col : Bool) : W64 :=
  let k0 : BitVec 24 := slice v 16 24
  let j0 : BitVec 24 := slice v 40 24
  if col then field (j0 + 32) 40 ||| (v &&& 0xFFFFFFFFFF#64)
  else field j0 40 ||| field (k0 + 32) 16 ||| (v &&& 0xFFFF#64)

/-- Effect of MLDP at issue (R262). -/
def mldpEffect (r : BitVec 4) (st col : Bool) (m : MemOpnd) (w : BitVec 3) (s : State) : State :=
  let s := tileEffect (.mldp r st col m w) r m w s
  if st then s.modCtx (fun x => x.setA r (coordStep (x.ar r) col)) else s

/-- MLDP (R262). -/
def execMldp (r : BitVec 4) (st col : Bool) (m : MemOpnd) (w : BitVec 3) (s : State) : Host.Outcome State Fault Refusal :=
  s.issue (needsTile w) (mldpEffect r st col m w)

/-- Needs of an array command that takes no queue entry (R220). -/
def needsCmd (w : BitVec 3) : Needs := { tok := some w }

/-- MMUL (R241). -/
def execMmul (t : MFmt) (d kb ka clr : Bool) (w : BitVec 3) (s : State) : Host.Outcome State Fault Refusal :=
  let i : Instr := .mmul t d kb ka clr w
  s.issue (needsCmd w) (fun s => s.enterCmd (PendOp.of i (some w)) (Cmd.of i 0))

/-- MZERO (R242). -/
def execMzero (d : Bool) (w : BitVec 3) (s : State) : Host.Outcome State Fault Refusal :=
  let i : Instr := .mzero d w
  s.issue (needsCmd w) (fun s => s.enterCmd (PendOp.of i (some w)) (Cmd.of i 0))

/-- MSTAT (R245). -/
def execMstat (d : BitVec 4) (clr : Bool) (w : BitVec 3) (s : State) : Host.Outcome State Fault Refusal :=
  let i : Instr := .mstat d clr w
  s.issue (needsCmd w) (fun s => s.enterCmd (PendOp.of i (some w)) (Cmd.of i 0))

/-- The seed and member a perturbed command captures (R260). -/
def State.captured (s : State) (ms : Bool) (x : Cmd) : Cmd :=
  { x with
    seed := s.cur.mxs.seeds
    member := slice s.cur.mxs.seedm 0 32 + (if ms then slice s.ctx.mpc 0 32 else 0) }

/-- MMULP (R264). -/
def execMmulp (d e5 kb ka clr ms : Bool) (w : BitVec 3) (s : State) : Host.Outcome State Fault Refusal :=
  let i : Instr := .mmulp d e5 kb ka clr ms w
  s.issue (needsCmd w) (fun s => s.enterCmd (PendOp.of i (some w)) (s.captured ms (Cmd.of i 0)))

/-- MMULPT (R264). -/
def execMmulpt (d e5 kb ka clr ms : Bool) (w : BitVec 3) (s : State) : Host.Outcome State Fault Refusal :=
  let i : Instr := .mmulpt d e5 kb ka clr ms w
  s.issue (needsCmd w) (fun s => s.enterCmd (PendOp.of i (some w)) (s.captured ms (Cmd.of i 0)))

/-- Needs of MRD and MEPS: a store-queue entry as well (R243, R266). -/
def needsCmdSt (w : BitVec 3) : Needs := { tok := some w, st := true }

/-- Effect of MRD at issue (R243). -/
def mrdEffect (d : Bool) (m : MemOpnd) (w : BitVec 3) (s : State) : State :=
  let a := s.ctx.ar m.base
  (s.postInc m 256).enterCmd { PendOp.of (.mrd d m w) (some w) with st := true, addr := mxAddr a } (Cmd.of (.mrd d m w) 0)

/-- MRD (R243). -/
def execMrd (d : Bool) (m : MemOpnd) (w : BitVec 3) (s : State) : Host.Outcome State Fault Refusal :=
  s.issue (needsCmdSt w) (mrdEffect d m w)

/-- Effect of MEPS at issue (R260, R266). -/
def mepsEffect (r : BitVec 4) (ms col : Bool) (m : MemOpnd) (w : BitVec 3) (s : State) : State :=
  let i : Instr := .meps r ms col m w
  let a := s.ctx.ar m.base
  let v := s.ctx.ar r
  (s.postInc m 256).enterCmd { PendOp.of i (some w) with st := true, addr := mxAddr a }
    { s.captured ms (Cmd.of i 0) with k0 := slice v 16 24, j0 := slice v 40 24 }

/-- MEPS (R266). -/
def execMeps (r : BitVec 4) (ms col : Bool) (m : MemOpnd) (w : BitVec 3) (s : State) : Host.Outcome State Fault Refusal :=
  s.issue (needsCmdSt w) (mepsEffect r ms col m w)

/-- A queue that MRDX may not name: it needs rows, PROD = MX and CONS = VE (R244). -/
def Core.mrdxBad (k : Core) (q : BitVec 3) : Bool :=
  let x := k.queue q
  !(x.en && x.row && decide (x.prod = .mx) && decide (x.cons = .ve))

/-- Needs of MRDX (R244). -/
def State.needsMrdx (s : State) (q w : BitVec 3) : Needs := { bad := s.cur.mrdxBad q, tok := some w }

/-- MRDX (R244). -/
def execMrdx (d : Bool) (q w : BitVec 3) (s : State) : Host.Outcome State Fault Refusal :=
  let i : Instr := .mrdx d q w
  s.issue (s.needsMrdx q w) (fun s => s.enterCmd (PendOp.of i (some w)) (Cmd.of i 0))

/-! ## Tile loads (R226, R227, R237) -/

/-- `n` bytes of a tile row within one stash row, with the row's region (R165, R227, R237, R376). -/
def State.tilePiece (s : State) (c : Nat) (swz : Bool) (off n : Nat) : Except (W64 × MemErr) (Nat × BitVec 12 × State) :=
  let q := off / 256 % 8192
  let a := mxAddr (BitVec.ofNat 64 off)
  match s.touch c q with
  | .error x => .error (a, x)
  | .ok s =>
    let r := s.row c q
    let lo := off % 256 / 32
    let hi := (off % 256 + n - 1) / 32
    let read : BitVec 8 := (List.range 8).foldl (fun m k =>
      m ||| bit (decide (lo ≤ k) && decide (k ≤ hi)) (if swz then k ^^^ (q / 4 % 8) else k)) 0
    if poisonedIn r read then .error (a, .trap 0x14 3)
    else .ok ((swizzleRow swz q r.data).toNat / 2 ^ (8 * (off % 256)) % 2 ^ (8 * n), r.region, s)

/-- A tile row of `n` bytes at a stash offset: its bytes, and a word with the regions of its two pieces and the length of the
first. -/
def State.tileRow (s : State) (c : Nat) (swz : Bool) (off n : Nat) : Except (W64 × MemErr) (Row × Row × State) :=
  let first := min n (256 - off % 256)
  match s.tilePiece c swz off first with
  | .error x => .error x
  | .ok (v, r, s) =>
    if first = n then .ok (BitVec.ofNat 2048 v, field r 0 ||| field (BitVec.ofNat 12 n) 24, s)
    else
      match s.tilePiece c swz ((off + first) % 2 ^ 21) (n - first) with
      | .error x => .error x
      | .ok (v2, r2, s) =>
        .ok (BitVec.ofNat 2048 (v + v2 * 2 ^ (8 * first)), field r 0 ||| field r2 12 ||| field (BitVec.ofNat 12 first) 24, s)

/-- The unfolding descriptor (R239). -/
structure Unfold where
  tbase : Nat
  pitch : Nat
  h : Nat
  w : Nat
  c : Nat
  oh : Nat
  ow : Nat
  kh : Nat
  kw : Nat
  sh : Nat
  sw : Nat
  dh : Nat
  dw : Nat
  pt : Nat
  pl : Nat
  padv : Nat
  deriving DecidableEq, Repr

/-- Reads the fields of a descriptor; strides, dilations and kernel sizes stand for the field plus 1 (R239). -/
def Unfold.of (d : Desc) : Unfold :=
  let n (lo w : Nat) : Nat := (slice d lo w).toNat
  { tbase := n 0 21, pitch := n 32 16, h := n 64 16, w := n 80 16, c := n 96 16, oh := n 128 16, ow := n 144 16
    kh := n 160 3 + 1, kw := n 164 3 + 1, sh := n 168 3 + 1, sw := n 172 3 + 1, dh := n 176 3 + 1, dw := n 180 3 + 1
    pt := n 184 4, pl := n 188 4, padv := n 192 8 }

/-- An illegal descriptor for a k-block size (R240); a size above its range counts as one (R239; log 29). -/
def Unfold.bad (u : Unfold) (d : Desc) (k : Nat) : Bool :=
  let zero (lo w : Nat) : Bool := decide ((slice d lo w).toNat = 0)
  !(zero 200 312 && zero 183 1 && zero 179 1 && zero 175 1 && zero 171 1 && zero 167 1 && zero 163 1 && zero 112 16 &&
      zero 48 16 && zero 21 11) ||
    decide (u.kh = 8) || decide (u.kw = 8) ||
    decide (u.h = 0 ∨ u.w = 0 ∨ u.c = 0 ∨ u.oh = 0 ∨ u.ow = 0) ||
    decide (4096 < u.h ∨ 4096 < u.w ∨ 4096 < u.c) || decide (u.c % k ≠ 0) || decide (u.pitch < u.w * u.c)

/-- Row r of an unfolded tile from a position word: its stash offset, or the byte that fills it (R240). -/
def Unfold.row (u : Unfold) (pos : W64) (k r : Nat) : Nat ⊕ Nat :=
  let p := (slice pos 20 32).toNat + r
  let col := (slice pos 0 20).toNat / k * k
  let tap := col / u.c
  let iy : Int := (p / u.ow * u.sh + tap / u.kw * u.dh : Nat) - (u.pt : Int)
  let ix : Int := (p % u.ow * u.sw + tap % u.kw * u.dw : Nat) - (u.pl : Int)
  if u.oh * u.ow ≤ p ∨ u.kh * u.kw ≤ tap then .inr 0
  else if iy < 0 ∨ (u.h : Int) ≤ iy ∨ ix < 0 ∨ (u.w : Int) ≤ ix then .inr u.padv
  else .inl ((u.tbase + iy.toNat * u.pitch + ix.toNat * u.c + col % u.c) % 2 ^ 21)

/-- Rows of a tile load and the bytes of each; bytes between rows (R225, R227, R262). -/
def PendOp.tileShape (o : PendOp) : Nat × Nat :=
  match o.instr with
  | .mlda _ c _ _ => (64, classK c.toNat * widthA c.toNat / 8)
  | .mldu c _ _ => (64, classK c.toNat)
  | .mldb _ c _ _ => (classK c.toNat, 16 * widthB c.toNat)
  | .mldbt _ c _ _ => (128, classK c.toNat * widthB c.toNat / 8)
  | .mldp _ _ col _ _ => if col then (128, 64) else (32, 256)
  | _ => (0, 0)

/-- Whether a tile load swizzles (R234). -/
def PendOp.tileSwz (o : PendOp) : Bool :=
  match o.instr with
  | .mlda _ _ m _ | .mldb _ _ m _ | .mldbt _ _ m _ | .mldp _ _ _ m _ => MemOpnd.swizzled m
  | _ => false

/-- Stash offset of row r of a tile load; address bits 3:0 are ignored (R227). -/
def PendOp.rowOff (o : PendOp) (rb r : Nat) : Nat :=
  let st := (slice o.val 0 16).toNat
  ((slice o.addr 0 21).toNat + r * (if st = 0 then rb else st)) % 2 ^ 21 / 16 * 16

/-- Stash sectors of `n` bytes within one row at a stash offset (R174, R227). -/
def pieceSectors (swz : Bool) (off n : Nat) : List StashSector :=
  let q := off / 256 % 8192
  let lo := off % 256 / 32
  ((List.range ((off % 256 + n - 1) / 32 + 1 - lo)).map (fun k => (q, if swz then (lo + k) ^^^ (q / 4 % 8) else lo + k)))

/-- Stash sectors of a tile row of `n` bytes. -/
def tileSectors (swz : Bool) (off n : Nat) : List StashSector :=
  let first := min n (256 - off % 256)
  if first = n then pieceSectors swz off n
  else pieceSectors swz off first ++ pieceSectors swz ((off + first) % 2 ^ 21) (n - first)

/-- How many of some sectors the load port still reads in a cycle in which it reads others: up to eight, in distinct banks that are
free (R159, R227); with all it reads then. -/
def State.portTake (s : State) (c : Nat) (used : List StashSector) : List StashSector → Nat × List StashSector
  | [] => (0, used)
  | x :: xs =>
    if used.contains x then
      let (n, u) := s.portTake c used xs
      (n + 1, u)
    else if used.length < 8 ∧ used.all (fun y => decide (bankOf y ≠ bankOf x)) ∧ (s.core c).bankFree (bankOf x) s.cycle then
      let (n, u) := s.portTake c (used ++ [x]) xs
      (n + 1, u)
    else (0, used)

/-- What the load port has done in a cycle: the rows read whole, the sectors of the next row, and all sectors of the cycle. -/
structure Port where
  rows : List Row
  part : Nat
  used : List StashSector
  deriving DecidableEq, Repr

/-- Reads the rows of a tile from row r on, as far as the load port comes in this cycle; stops with what was read and what stopped
it. -/
def State.tileRows (s : State) (c : Nat) (o : PendOp) (get : Nat → Nat ⊕ Nat) (rb : Nat) :
    List Nat → Port → Except (List Row × W64 × MemErr × State) (Port × State)
  | [], acc => .ok (acc, s)
  | r :: rs, acc =>
    match get r with
    | .inr e =>
      State.tileRows s c o get rb rs { acc with
        rows := acc.rows ++ [BitVec.ofNat 2048 ((List.range rb).foldl (fun v j => v + e * 2 ^ (8 * j)) 0), 0] }
    | .inl off =>
      let secs := tileSectors o.tileSwz off rb
      let (n, used) := s.portTake c acc.used (secs.drop acc.part)
      if acc.part + n < secs.length then .ok ({ acc with part := acc.part + n, used := used }, s)
      else
        match s.tileRow c o.tileSwz off rb with
        | .error (a, x) => .error (acc.rows, a, x, s)
        | .ok (v, i, s) => State.tileRows s c o get rb rs { rows := acc.rows ++ [v, i], part := 0, used := used }

/-- Reads the unfolding descriptor where the MLDU performs (R238, R240). -/
def State.readUnfold (s : State) (c : Nat) (a : W64) : Except MemErr (Desc × State) :=
  match s.touchPlain c (stashRow a) .read with
  | .error x => .error x
  | .ok s =>
    let r := s.row c (stashRow a)
    let off := (slice a 6 2).toNat
    if poisonedIn r ((3#8) <<< (2 * off)) then .error (.trap 0x14 3)
    else .ok (slice r.data (512 * off) 512, s.useBanks c (stashRow a) ((3#8) <<< (2 * off)) (claimRank .mx))

/-- Slots of a core's A or B FIFO that are taken: tiles held, loads that have performed, and a slot freed too late (R226,
R250). -/
def State.slotsTaken (s : State) (c : Nat) (a : Bool) : Nat :=
  let m := (s.core c).mxs
  (if a then m.fifoA.length else m.fifoB.length) +
    ((s.core c).mx.ops.filter (fun o => o.performed && o.instr.tileOf.any (fun t => decide (t.1 = a)))).length +
    (if s.cycle < (if a then m.freeA else m.freeB) then 1 else 0)

/-- The load port has been used in this cycle, or a load has tried to (R227). -/
def State.portBusy (s : State) (c : Nat) : Bool :=
  (s.core c).bankWaits.any (fun x => decide (x.tried = s.cycle) &&
    (match x.who with
      | .op .mx n => (s.core c).mx.ops.any (fun o => decide (o.num = n) && o.instr.tileOf.isSome)
      | .op _ _ | .chan _ | .fetch _ | .far _ _ => false))

/-- A tile load can read on: its turn has come, a slot is free and so is the load port (R226, R227). -/
def State.tileReady (s : State) (c : Nat) (o : PendOp) : Bool :=
  decide (o.status = .queued) && !s.portBusy c && o.instr.tileOf.any (fun t => decide (s.slotsTaken c t.1 < 4)) && decide (o.issued < s.cycle) &&
    (s.core c).mx.unblocked o.num && !(s.core c).parked .mx && decide ((s.instOf c).status = .running)

/-- A tile load that has performed lands its tile: its cycle has come, behind the earlier loads of its FIFO (R226). -/
def State.tileLands (s : State) (c : Nat) (o : PendOp) : Bool :=
  match o.status, o.instr.tileOf with
  | .busy u, some (a, _) =>
    decide (u ≤ s.cycle) && (s.core c).mx.ops.all (fun p =>
      decide (o.num ≤ p.num) || !(p.instr.tileOf.any (fun t => decide (t.1 = a))))
  | _, _ => false

/-- Element layout of a load that transposes: element width, and elements read per row; none where rows land in order. -/
def PendOp.transposed (o : PendOp) : Option (Nat × Nat) :=
  match o.instr with
  | .mldbt _ c _ _ => some (widthB c.toNat, classK c.toNat)
  | .mldp _ _ col _ _ => if col then some (16, 32) else none
  | _ => none

/-- The bytes of a landed tile (R226, R236, R261). -/
def PendOp.tileData (o : PendOp) : BitVec 65536 :=
  let (n, rb) := o.tileShape
  let row (r : Nat) : Nat := (o.rows.getD (2 * r) 0).toNat
  match o.transposed with
  | none => BitVec.ofNat 65536 ((List.range n).foldl (fun v r => v + row r * 2 ^ (8 * rb * r)) 0)
  | some (w, k) =>
    BitVec.ofNat 65536 ((List.range n).foldl (fun v r =>
      v + (List.range k).foldl (fun x t => x + row r / 2 ^ (w * t) % 2 ^ w * 2 ^ (w * (n * t + r))) 0) 0)

/-- The region of byte b of tile row r. -/
def PendOp.regionAt (o : PendOp) (r b : Nat) : BitVec 12 :=
  let i := o.rows.getD (2 * r + 1) 0
  if b < (slice i 24 12).toNat then slice i 0 12 else slice i 12 12

/-- The regions of a landed tile, by pair of bits (R226). -/
def PendOp.tileRegions (o : PendOp) : Tbl (BitVec 12) :=
  let (n, rb) := o.tileShape
  if (List.range n).all (fun r => decide (slice (o.rows.getD (2 * r + 1) 0) 0 24 = 0#24)) then []
  else
    let at_ (u : Nat) : BitVec 12 :=
      match o.transposed with
      | none => o.regionAt (u / (4 * rb)) (u % (4 * rb) / 4)
      | some (w, _) =>
        let e := 2 * u / w
        o.regionAt (e % n) ((w * (e / n) + 2 * u % w) / 8)
    (List.range (4 * n * rb)).filterMap (fun u => if at_ u = 0 then none else some (u, at_ u))

/-- The tile that a load lands; K0 and J0 as its coordinate register held them at issue (R262). -/
def State.tileOf (s : State) (o : PendOp) (cls : Nat) : Tile :=
  { num := o.num, cls := cls, bytes := o.tileData, regions := o.tileRegions, k0 := slice o.val 16 24, j0 := slice o.val 40 24
    from_ := s.cycle + 1 }

/-- The unfolding descriptor that an MLDU has read stays with its operation, above the position word. -/
def PendOp.descWord (o : PendOp) : Desc := slice o.val 512 512

/-- A tile load performs: in each cycle it reads rows from MPC on, as far as the load port comes (R227, R237, R240); its tile lands
six cycles after its first read at the soonest (log 10). -/
def performTile (c : Nat) (o : PendOp) (s : State) : Host.Outcome State Fault Refusal :=
  match o.instr.tileOf with
  | none => .next s
  | some (_, cls) =>
    let (n, rb) := o.tileShape
    let first := if o.first = 0 then s.cycle + 1 else o.first
    let todo := (List.range n).drop o.mpc.toNat
    let go (s : State) (get : Nat → Nat ⊕ Nat) : Host.Outcome State Fault Refusal :=
      match s.tileRows c o get rb todo { rows := o.rows, part := o.part, used := [] } with
      | .error (rows, at_, x, s) =>
        (s.modOp c .mx o.num (fun o =>
          { o with rows := rows, part := 0, first := first, mpc := BitVec.ofNat 64 (rows.length / 2) })).failOp c .mx o.num at_ .read x
      | .ok (p, s) =>
        let s := { s with claims := s.claims ++ p.used.map (fun x => (c, bankOf x, claimRank .mx)) }
        .next (s.modOp c .mx o.num (fun o =>
          let o := { o with rows := p.rows, part := p.part, first := first, mpc := BitVec.ofNat 64 (p.rows.length / 2) }
          if p.rows.length < 2 * n then o else { o with ld := false, status := .busy (max (first + 5) (s.cycle + 1)) }))
    match o.instr with
    | .mldu _ _ _ =>
      if o.first ≠ 0 then go s ((Unfold.of o.descWord).row (slice o.val 0 64) (classK cls))
      else
        match s.readUnfold c o.addr with
        | .error x => s.failOp c .mx o.num o.addr .read x
        | .ok (d, s) =>
          let u := Unfold.of d
          if u.bad d (classK cls) then .next (s.opTrap c .mx o.num 0x02 o.addr (slice o.val2 0 64))
          else
            go (s.modOp c .mx o.num (fun o => { o with val := o.val ||| field d 512 })) (u.row (slice o.val 0 64) (classK cls))
    | _ => go s (fun r => .inl (o.rowOff rb r))

/-- A landed tile takes its slot, and the load completes (R226). -/
def landTile (c : Nat) (o : PendOp) (s : State) : State :=
  match o.instr.tileOf with
  | none => s
  | some (a, cls) =>
    let t := s.tileOf o cls
    (s.modCore c (fun k => { k with mxs :=
      if a then { k.mxs with fifoA := k.mxs.fifoA ++ [t] } else { k.mxs with fifoB := k.mxs.fifoB ++ [t] } })).finish c .mx o.num

/-- TILE_LOAD_PERFORM (R226): the load of a number performs, or lands. -/
def execTileLoadPerform (core num : Nat) (s : State) : Host.Outcome State Fault Refusal :=
  match (s.core core).mx.op? num with
  | none => .next s
  | some o =>
    if s.tileReady core o then
      let s := s.modCore core (fun k => k.noteClaim (.op .mx num) o.issued s.cycle)
      s.served core (.op .mx num) (performTile core o s)
    else if s.tileLands core o then .next (landTile core o s)
    else .next s

/-! ## The lease (R223) -/

/-- Replaces a cluster. -/
def State.setCluster (s : State) (cl : Nat) (x : Cluster) : State :=
  { s with clusters := s.clusters.set Cluster.init cl x }

/-- A core's request counts in an arbitration: its instance runs (R249). -/
def State.asks (s : State) (c : Nat) : Bool :=
  s.requests c && decide ((s.core c).inst ≠ 0) && decide ((s.instOf c).status = .running)

/-- The position the lease passes to: the first request after the previous holder, not before the cycle after a tenure's end (R223
step 3, R233). -/
def State.nextHolder (s : State) (cl : Nat) : Option (BitVec 2) :=
  let x := s.cluster cl
  if x.holder.isSome ∨ s.cycle < x.free then none
  else [x.h + 1, x.h + 2, x.h + 3, x.h].find? (fun p => s.asks (coreAt cl p.toNat))

/-- Effect of an arbitration: REM becomes the budget of the request; the first command may begin in the next cycle. -/
def arbitrateEffect (cl : Nat) (p : BitVec 2) (s : State) : State :=
  let n := (s.core (coreAt cl p.toNat)).mxs.standing
  s.setCluster cl { s.cluster cl with
    holder := some p, h := p, rem := if n = 0 then 1 else n, since := s.cycle + 1, idle := 0 }

/-- LEASE_ARBITRATION (R223). -/
def execLeaseArbitration (cluster : Nat) (s : State) : Host.Outcome State Fault Refusal :=
  match s.nextHolder cluster with
  | none => .next s
  | some p => .next (arbitrateEffect cluster p s)

/-- A tenure ends (R223 steps 5 and 6, R251): formed tiles of the core are discarded, and an implicit request is made anew for
a command still at the head; the lease passes on from the start of cycle `free`. -/
def State.endTenure (s : State) (cl : Nat) (free : Nat := s.cycle + 1) : State :=
  let x := s.cluster cl
  match x.holder with
  | none => s
  | some p =>
    s.setCluster cl { x with
      holder := none, rem := 0, idle := 0, free := free, formed := x.formed.filter (fun f => decide (f.pos ≠ p.toNat)) }

/-- The head command of a core is ready: its tiles have landed (R223 step 5). -/
def State.headReady (s : State) (c : Nat) : Bool :=
  let m := (s.core c).mxs
  match m.cmds with
  | [] => false
  | x :: _ =>
    x.instr.isArray && (x.instr.keeps.isNone ||
      ((m.fifoA.head?).any (fun t => decide (t.from_ ≤ s.cycle)) && (m.fifoB.head?).any (fun t => decide (t.from_ ≤ s.cycle))))

/-- Another core of the cluster than the holder has a request. -/
def State.contended (s : State) (cl : Nat) (p : BitVec 2) : Bool :=
  (List.range 4).any (fun q => decide (q ≠ p.toNat) && s.asks (coreAt cl q))

/-- The holder of a cluster has been idle too long (R223 step 5). -/
def State.idleOut (s : State) (cl : Nat) : Bool :=
  let x := s.cluster cl
  x.holder.any (fun p => decide (256 ≤ x.idle) && s.contended cl p)

/-- LEASE_IDLE_TIMEOUT (R223): the tenure has ended with the last idle cycle. -/
def execLeaseIdleTimeout (cluster : Nat) (s : State) : Host.Outcome State Fault Refusal :=
  if s.idleOut cluster then .next (s.endTenure cluster s.cycle) else .next s

/-- At the end of a cycle: a holder without a ready command, while another core requests, has idled one cycle more. -/
def State.countIdle (s : State) (cl : Nat) : State :=
  let x := s.cluster cl
  match x.holder with
  | none => s
  | some p =>
    s.setCluster cl { x with
      idle := if s.headReady (coreAt cl p.toNat) ∨ ¬ s.contended cl p then 0 else x.idle + 1 }

/-! ## The infuser (R251 to R257) -/

/-- KA to KD of R255. -/
def mixKA : W64 := 0xA3C59E174B2D60F1
/-- R255. -/
def mixKB : W64 := 0x7F4A1C93E85B2D37
/-- R255. -/
def mixKC : W64 := 0xC2B638E519F74A4B
/-- R255. -/
def mixKD : W64 := 0x8E3D71A952C4F0C5

/-- One round of mix (R255). -/
def mixRound (z : W64) : W64 :=
  let z := z ^^^ (z >>> 31)
  let z := z * mixKC
  let z := z ^^^ (z >>> 29)
  let z := z * mixKD
  z ^^^ (z >>> 32)

/-- mix(s, m, e, i) (R255). -/
def mix (seed : W64) (m e i : Nat) : W64 :=
  mixRound (mixRound ((seed + mixKA * BitVec.ofNat 64 (4 * m + i + 1)) ^^^ (BitVec.ofNat 64 e * mixKB)))

/-- The numerator of eps(s, m, e), in units of 2^-16 (R256). -/
def epsNum (seed : W64) (m e : Nat) : Int :=
  let n : Nat := (List.range 3).foldl (fun n i =>
    (List.range 4).foldl (fun n h => n + (slice (mix seed m e i) (16 * h) 16).toNat) n) 0
  (n : Int) - 393210

/-- eps(s, m, e) (R256). -/
def eps (seed : W64) (m e : Nat) : Num := .fin (decide (epsNum seed m e < 0)) (epsNum seed m e).natAbs 65536

/-- The table C (R253). -/
def devTable : List Nat := [8388608, 9147842, 9975792, 10878679, 11863283, 12937002, 14107901, 15384775]

/-- σ of a code (R253). -/
def deviation (l : BitVec 8) : Num := scaled false (devTable.getD (l.toInt % 8).toNat 0) (l.toInt / 8 - 23)

/-- pw(P, s, m, e) (R257). -/
def perturbed (p : BitVec 16) (seed : W64) (m e : Nat) : Num :=
  match fE4M3.decode (slice p 8 8).toNat with
  | .nan => .nan
  | mean => fE4M3.decode (fE4M3.round (Num.fma .rne (deviation (slice p 0 8)) (eps seed m e) mean).1 .rne).1

/-- Element index of tile element [t][c] (R254); `tr` for MMULPT and for MEPS with G = 1. -/
def elemIndex (tr : Bool) (k0 j0 : BitVec 24) (t c : Nat) : Nat :=
  let (dk, dj) := if tr then (c, t) else (t, c)
  (k0.toNat + dk) % 2 ^ 24 * 2 ^ 24 + (j0.toNat + dj) % 2 ^ 24

/-- The next command of a core for which the infuser has formed no tile (R251). -/
def State.nextFormed (s : State) (c : Nat) : Option Cmd :=
  let x := s.cluster (clusterOf c)
  (s.core c).mxs.cmds.find? (fun m => m.instr.isPerturbed && !(x.formed.any (fun f =>
    decide (f.pos = posOf c) && decide (f.num = m.num))))

/-- B tiles that the commands ahead of one take from the FIFO. -/
def freedBefore (num : Nat) : List Cmd → Nat
  | [] => 0
  | m :: r => if m.num = num then 0 else (if m.instr.keeps.any (fun k => !k.2) then 1 else 0) + freedBefore num r

/-- The infuser begins to form a tile for the core (R251): the core holds the lease, nothing is being formed, fewer than two
tiles wait, and the pair tile has landed. -/
def State.forms (s : State) (c : Nat) : Option Cmd :=
  let x := s.cluster (clusterOf c)
  if x.holder = some (BitVec.ofNat 2 (posOf c)) ∧ x.since ≤ s.cycle ∧ x.formed.all (fun f => decide (f.ready ≤ s.cycle)) ∧
      x.formed.length < 2 ∧ (s.instOf c).status = .running then
    match s.nextFormed c with
    | none => none
    | some m =>
      if m.instr.keeps.isNone then some m
      else
        match ((s.core c).mxs.fifoB)[freedBefore m.num (s.core c).mxs.cmds]? with
        | none => none
        | some t => if t.from_ ≤ s.cycle then some m else none
  else none

/-- INFUSER_TILE_FORM (R251): a tile is ready 64 cycles later. -/
def execInfuserTileForm (core : Nat) (s : State) : Host.Outcome State Fault Refusal :=
  match s.forms core with
  | none => .next s
  | some m =>
    let cl := clusterOf core
    .next (s.setCluster cl { s.cluster cl with
      formed := (s.cluster cl).formed ++ [{ pos := posOf core, num := m.num, ready := s.cycle + 64 }] })

/-! ## Accumulators -/

/-- acc_add (R73). -/
def Acc.add (x : Acc) (a b : Num) : Acc :=
  match a, b with
  | .nan, _ => { x with n := true }
  | _, .nan => { x with n := true }
  | .inf p, .inf q => if p = q then { x with pi := true } else { x with ni := true }
  | .inf p, .fin q m _ => if m = 0 then { x with n := true } else if p = q then { x with pi := true } else { x with ni := true }
  | .fin p n _, .inf q => if n = 0 then { x with n := true } else if p = q then { x with pi := true } else { x with ni := true }
  | .fin p n d, .fin q m e =>
    let t := x.a.toInt + finTimes (p != q) (n * m) (d * e) 32
    if 2 ^ 95 ≤ t then { x with a := BitVec.ofInt 96 (2 ^ 95 - 1), asat := true }
    else if t < -2 ^ 95 then { x with a := BitVec.ofInt 96 (-2 ^ 95), asat := true }
    else { x with a := BitVec.ofInt 96 t }

/-- Key of accumulator d of PE (i, j) in a core's table. -/
def accKey (d : Bool) (i j : Nat) : Nat := (if d then 8192 else 0) + 128 * i + j

/-- Accumulator d of PE (i, j) of a core (R9, R72). -/
def Core.accAt (k : Core) (d : Bool) (i j : Nat) : Acc := k.mxs.acc.get Acc.init (accKey d i j)

/-- Replaces accumulator d of every PE. -/
def setAccs (t : Tbl Acc) (d : Bool) (f : Nat → Nat → Acc) : Tbl Acc :=
  let new := ((List.range 64).map (fun i => (List.range 128).filterMap (fun j =>
    if f i j = Acc.init then none else some (accKey d i j, f i j)))).flatten
  if d then t.filter (fun (e : Nat × Acc) => decide (e.1 < 8192)) ++ new
  else new ++ t.filter (fun (e : Nat × Acc) => decide (8192 ≤ e.1))

/-- A product over the array (R241): rows of A and columns of B as exact values, k ascending. -/
def multiply (t : Tbl Acc) (d clr : Bool) (as bs : List (List Num)) : Tbl Acc :=
  setAccs t d (fun i j =>
    let x := if clr then Acc.init else t.get Acc.init (accKey d i j)
    ((as.getD i []).zip (bs.getD j [])).foldl (fun x p => x.add p.1 p.2) x)

/-- Element e of a tile, of w bits. -/
def Tile.elem (t : Tile) (w e : Nat) : Nat := (t.bytes.extractLsb' (w * e) w).toNat

/-- Rows of A of a class: A[i][k]. -/
def Tile.rowsA (t : Tile) (cls : Nat) (f : Nat → Num) : List (List Num) :=
  (List.range 64).map (fun i => (List.range (classK cls)).map (fun k => f (t.elem (widthA cls) (classK cls * i + k))))

/-- Columns of B of a class: B[k][j]. -/
def Tile.colsB (t : Tile) (cls : Nat) (f : Nat → Num) : List (List Num) :=
  (List.range 128).map (fun j => (List.range (classK cls)).map (fun k => f (t.elem (widthB cls) (128 * k + j))))

/-- Columns of the formed tile of a perturbed product (R254, R265). A head of another class counts as pairs at the origin
(R261). -/
def Tile.colsP (t : Tile) (tr : Bool) (x : Cmd) : List (List Num) :=
  let (k0, j0) : BitVec 24 × BitVec 24 := if t.cls = 4 then (t.k0, t.j0) else (0, 0)
  (List.range 128).map (fun c => (List.range 32).map (fun r =>
    perturbed (BitVec.ofNat 16 (t.elem 16 (128 * r + c))) x.seed x.member.toNat (elemIndex tr k0 j0 r c)))

/-- A reserved T2 code stands in a B tile (R62, R245). -/
def Tile.hasReserved (t : Tile) : Bool := (List.range 8192).any (fun e => decide (t.elem 2 e = 2))

/-- The elements of w bits among the first `n` whose region is nonzero, by region (R232). -/
def Tile.tagged (t : Tile) (w n : Nat) : List (BitVec 12) :=
  (t.regions.filter (fun (u : Nat × BitVec 12) => decide (2 * u.1 % w = 0) && decide (2 * u.1 < w * n))).map
    (fun (u : Nat × BitVec 12) => u.2)

/-- Counts elements of meter regions for a slice (R232, R405, R411). -/
def State.meter (s : State) (sl : Nat) (rs : List (BitVec 12)) : State :=
  { s with regions := rs.foldl (fun (t : Tbl Region) (r : BitVec 12) =>
      if r = 0 then t else t.upd Region.init r.toNat (fun x =>
        { x with count := x.count + 1, shares := x.shares.upd 0 sl (fun n => n + 1) })) s.regions }

/-- The kind and MIX bit of an accumulator after a product (R231). -/
def nextKind (old : AccKind) (mix clr : Bool) (k : AccKind) : AccKind × Bool :=
  if clr then (k, false) else if old = .unset then (k, mix) else (old, mix || decide (old ≠ k))

/-- Sets an accumulator's kind and MIX bit. -/
def MxState.setKind (m : MxState) (d : Bool) (k : AccKind × Bool) : MxState :=
  if d then { m with kind1 := k.1, mix1 := k.2 } else { m with kind0 := k.1, mix0 := k.2 }

/-- Kind and MIX bit of an accumulator. -/
def MxState.kindOf (m : MxState) (d : Bool) : AccKind × Bool := if d then (m.kind1, m.mix1) else (m.kind0, m.mix0)

/-- readout_f32 (R75). -/
def Acc.readF32 (x : Acc) : BitVec 32 :=
  if x.n ∨ (x.pi ∧ x.ni) then 0x7FC00000
  else if x.pi then 0x7F800000
  else if x.ni then 0xFF800000
  else if x.a = 0 then 0
  else BitVec.ofNat 32 (fF32.round (.fin (decide (x.a.toInt < 0)) x.a.toInt.natAbs (2 ^ 32)) .rne).1

/-- readout_i32, with RSAT (R75). -/
def Acc.readI32 (x : Acc) : BitVec 32 × Bool :=
  if x.n ∨ (x.pi ∧ x.ni) then (0, true)
  else if x.pi then (0x7FFFFFFF, true)
  else if x.ni then (0x80000000, true)
  else
    let r := roundInt (-2 ^ 31) (2 ^ 31 - 1) (.fin (decide (x.a.toInt < 0)) x.a.toInt.natAbs (2 ^ 32)) .rne
    (BitVec.ofInt 32 r.1, decide (r.2 &&& fOF ≠ 0))

/-- The exact element of MRDX (R76). -/
def Acc.exact (x : Acc) : BitVec 128 :=
  x.a.setWidth 128 ||| bit x.n 96 ||| bit x.pi 97 ||| bit x.ni 98 ||| bit x.asat 99

/-- The 128 rows an MRD writes, and whether an integer readout saturated (R231, R243). -/
def Core.mrdRows (k : Core) (d : Bool) : List Row × Bool :=
  let int := decide ((k.mxs.kindOf d).1 = .int)
  ((List.range 128).map (fun n => rowOf 32 64 (fun j =>
      let x := k.accAt d (n / 2) (64 * (n % 2) + j)
      if int then x.readI32.1 else x.readF32)),
    int && (List.range 64).any (fun i => (List.range 128).any (fun j => (k.accAt d i j).readI32.2)))

/-- The 512 rows an MRDX pushes (R244). -/
def Core.mrdxRows (k : Core) (d : Bool) : List Row :=
  (List.range 512).map (fun n => rowOf 128 16 (fun j => (k.accAt d (n / 8) (16 * (n % 8) + j)).exact))

/-- The 64 rows a MEPS writes (R266). -/
def epsRows (x : Cmd) (col : Bool) : List Row :=
  (List.range 64).map (fun n => rowOf 32 64 (fun c =>
    BitVec.ofNat 32 (fF32.round (eps x.seed x.member.toNat (elemIndex col x.k0 x.j0 (n / 2) (64 * (n % 2) + c))) .rne).1))

/-! ## Commands begin (R229, R252, R267) -/

/-- A command has begun: its operation is no longer in the sequence. -/
def Core.begun (k : Core) (o : PendOp) : Bool := o.instr.isArray && !(k.mxs.cmds.any (fun m => decide (m.num = o.num)))

/-- A readout keeps the drain path: an MRDX with rows to push, an MEPS with rows left after its time, or one that is parked (R229, R243,
R244, R267). -/
def State.keepsDrain (s : State) (o : PendOp) : Bool :=
  o.instr.drains &&
    (match o.status with
      | .busy u =>
        (match o.instr with
          | .mrdx _ _ _ => true
          | .meps _ _ _ _ _ => decide (u < s.cycle) && decide (o.mpc.toNat < o.rows.length)
          | _ => false)
      | .queued | .trapped | .paging _ _ _ | .departed | .returning => true)

/-- The drain path of a cluster is free. -/
def State.drainFree (s : State) (cl : Nat) : Bool :=
  decide ((s.cluster cl).drain ≤ s.cycle) &&
    (List.range 4).all (fun p =>
      let k := s.core (coreAt cl p)
      k.mx.ops.all (fun o => !(k.begun o && s.keepsDrain o)))

/-- A region is held by a slice (R407). -/
def State.regionHeld (s : State) (r : BitVec 12) : Bool := s.slices.any (fun (e : Nat × Slice) => e.2.regions.contains r)

/-- The record of a region that a product counts has not been emitted by 10 ms after the last one (R407). -/
def State.recordsDue (s : State) (rs : List (BitVec 12)) : Bool :=
  rs.any (fun r => s.regionHeld r && decide (10000000 < (s.gtime - (s.regions.get Region.init r.toNat).last).toNat))

/-- A region that a product of a slice counts is not open yet for the slice, which came by a migration (R408). -/
def State.awaitsRegion (s : State) (sl : Nat) (rs : List (BitVec 12)) : Bool :=
  rs.any (fun r => (s.regions.get Region.init r.toNat).awaited.contains sl)

/-- The tagged elements that a product counts (R232). -/
def Core.counted (k : Core) (i : Instr) : List (BitVec 12) :=
  match k.mxs.fifoA, k.mxs.fifoB with
  | a :: _, b :: _ =>
    match i with
    | .mmul t _ _ _ _ _ => a.tagged (widthA t.cls) (64 * classK t.cls) ++ b.tagged (widthB t.cls) (128 * classK t.cls)
    | .mmulp _ _ _ _ _ _ _ => a.tagged 8 2048 ++ b.tagged 16 4096
    | .mmulpt _ _ _ _ _ _ _ => a.tagged 8 2048 ++ b.tagged 16 4096
    | _ => []
  | _, _ => []

/-- The path a command uses is free (R229, R267). -/
def State.pathFree (s : State) (c : Nat) (i : Instr) : Bool :=
  let x := s.cluster (clusterOf c)
  let m := (s.core c).mxs
  match i with
  | .mrd d _ _ => s.drainFree (clusterOf c) && decide ((if d then m.last1 else m.last0) + 31 ≤ s.cycle ∨ (if d then m.last1 else m.last0) = 0)
  | .mrdx d _ _ => s.drainFree (clusterOf c) && decide ((if d then m.last1 else m.last0) + 31 ≤ s.cycle ∨ (if d then m.last1 else m.last0) = 0)
  | .meps _ _ _ _ _ => s.drainFree (clusterOf c)
  | _ => decide (x.entry ≤ s.cycle)

/-- The head of a core's sequence can begin or take effect (R229, R233, R252). -/
def State.beginsNow (s : State) (c : Nat) : Bool :=
  let k := s.core c
  let x := s.cluster (clusterOf c)
  decide (k.inst ≠ 0) && decide ((s.instOf c).status = .running) &&
    (match k.mxs.cmds with
      | [] => false
      | m :: _ =>
        match m.instr with
        | .mlease _ => true
        | .mfree => decide (k.mxs.began ≤ s.cycle) && (s.nextHolder (clusterOf c)).isNone
        | i =>
          i.isArray && decide (x.holder = some (BitVec.ofNat 2 (posOf c))) && decide (x.since ≤ s.cycle) && s.headReady c &&
            (!i.isPerturbed || x.formed.any (fun f => decide (f.pos = posOf c) && decide (f.num = m.num) && decide (f.ready ≤ s.cycle))) &&
            !(s.recordsDue (k.counted i)) && !(s.awaitsRegion (s.instOf c).slice.toNat (k.counted i)) && s.pathFree c i)

/-- What a product does to its core: accumulators, kind, sticky bits and the tiles it frees (R226, R241, R265). -/
def MxState.product (m : MxState) (now : Nat) (d clr ka kb : Bool) (kind : AccKind) (clsm tinv : Bool) (as bs : List (List Num)) :
    MxState :=
  let m := m.setKind d (nextKind (m.kindOf d).1 (m.kindOf d).2 clr kind)
  { m with
    acc := multiply m.acc d clr as bs
    clsm := m.clsm || clsm
    tinv := m.tinv || tinv
    fifoA := if ka then m.fifoA else m.fifoA.tail
    fifoB := if kb then m.fifoB else m.fifoB.tail
    freeA := if ka then m.freeA else now + 2
    freeB := if kb then m.freeB else now + 2
    last0 := if d then m.last0 else now + 1
    last1 := if d then now + 1 else m.last1 }

/-- Rows of A and columns of B, as exact values, that a product multiplies (R241, R265). -/
def Cmd.terms (x : Cmd) (a b : Tile) : List (List Num) × List (List Num) :=
  match x.instr with
  | .mmul t _ _ _ _ _ => (a.rowsA t.cls t.valueA, b.colsB t.cls t.valueB)
  | .mmulp _ e5 _ _ _ _ _ => (a.rowsA 0 (if e5 then fE5M2 else fE4M3).decode, b.colsP false x)
  | .mmulpt _ e5 _ _ _ _ _ => (a.rowsA 0 (if e5 then fE5M2 else fE4M3).decode, b.colsP true x)
  | _ => ([], [])

/-- The effect of a command on its core's matrix state as it begins. -/
def MxState.runCmd (m : MxState) (now : Nat) (x : Cmd) : MxState :=
  let a := m.fifoA.headD Tile.init
  let b := m.fifoB.headD Tile.init
  let v := x.terms a b
  match x.instr with
  | .mmul t d kb ka clr _ =>
    m.product now d clr ka kb t.kind (decide (a.cls ≠ t.cls) || decide (b.cls ≠ t.cls)) (decide (t = .t2) && b.hasReserved) v.1 v.2
  | .mmulp d _ kb ka clr _ _ =>
    m.product now d clr ka kb .float (decide (a.cls ≠ 0) || decide (b.cls ≠ 4)) false v.1 v.2
  | .mmulpt d _ kb ka clr _ _ =>
    m.product now d clr ka kb .float (decide (a.cls ≠ 0) || decide (b.cls ≠ 4)) false v.1 v.2
  | .mzero d _ => { m.setKind d (.unset, false) with acc := setAccs m.acc d (fun _ _ => Acc.init) }
  | _ => m

/-- The rows a readout captures as it begins (R230). -/
def Core.capture (k : Core) (x : Cmd) : List Row :=
  match x.instr with
  | .mrd d _ _ => (k.mrdRows d).1
  | .mrdx d _ _ => k.mrdxRows d
  | .meps _ _ col _ _ => epsRows x col
  | _ => []

/-- Cycles from a command's beginning to its completion, or to the first push of MRDX (R229, R267; log 10). -/
def beginCycles (i : Instr) : Nat :=
  match i with
  | .mzero _ _ => 191
  | .mrd _ _ _ => 256
  | .mrdx _ _ _ => 1
  | .meps _ _ _ _ _ => 64
  | _ => 222

/-- The array's paths after a command begins (R229, R267). -/
def Cluster.take (x : Cluster) (now : Nat) (i : Instr) : Cluster :=
  match i with
  | .mzero _ _ => { x with entry := now + 1 }
  | .mrd _ _ _ => { x with drain := now + 128 }
  | .mrdx _ _ _ => { x with drain := now + 512 }
  | .meps _ _ _ _ _ => { x with drain := now + 64 }
  | _ => { x with entry := now + 32 }

/-- RSAT of a readout (R75). -/
def Core.rsatOf (k : Core) (i : Instr) : Bool :=
  match i with
  | .mrd d _ _ => (k.mrdRows d).2
  | _ => false

/-- The first cycle in which the drain path of a cluster is free, as the begun readouts hold it but for one of a core (R229). -/
def State.drainHeld (s : State) (c num : Nat) : Nat :=
  (List.range 4).foldl (fun t p =>
    let d := coreAt (clusterOf c) p
    let k := s.core d
    (k.mx.ops.filter (fun o => k.begun o && o.instr.drains && !(decide (d = c) && decide (o.num = num)))).foldl (fun t o => max t o.first) t)
    s.cycle

/-- The commands in flight once one more begins: those whose operations have completed are no longer among them. -/
def Core.flightsWith (k : Core) (now : Nat) (x : Cmd) : List Flight :=
  k.mxs.flights.filter (fun f => k.mx.ops.any (fun o => decide (o.num = f.cmd.num))) ++
    [{ cmd := x, start := now, a := k.mxs.fifoA.headD Tile.init, b := k.mxs.fifoB.headD Tile.init
       before := if x.instr.drains then [] else k.mxs.acc }]

/-- An array command begins (R223 step 4, R229). -/
def beginEffect (c : Nat) (m : Cmd) (s : State) : State :=
  let cl := clusterOf c
  let k := s.core c
  let rows := k.capture m
  let s := s.meter (s.instOf c).slice.toNat (k.counted m.instr)
  let s := s.modOp c .mx m.num (fun o =>
    { o with
      rows := rows, status := .busy (s.cycle + beginCycles m.instr)
      first := if m.instr.drains then (Cluster.init.take s.cycle m.instr).drain else o.first })
  let s := s.modCore c (fun k => { k with mxs :=
    ({ k.mxs.runCmd s.cycle m with rsat := k.mxs.rsat || k.rsatOf m.instr, began := s.cycle + 1, flights := k.flightsWith s.cycle m }).dropHead })
  let x := (s.cluster cl).take s.cycle m.instr
  let s := s.setCluster cl { x with
    rem := x.rem - 1, idle := 0, formed := x.formed.filter (fun f => !(decide (f.pos = posOf c) && decide (f.num = m.num))) }
  if x.rem ≤ 1 then s.endTenure cl else s

/-- MLEASE takes effect (R223 step 1). -/
def leaseEffect (c : Nat) (n : BitVec 10) (s : State) : State :=
  s.modCore c (fun k => { k with mxs := { k.mxs with standing := n.toNat }.dropHead })

/-- MFREE takes effect (R233). -/
def freeEffect (c : Nat) (s : State) : State :=
  let s := s.modCore c (fun k => { k with mxs := { k.mxs with standing := 0 }.dropHead })
  if (s.cluster (clusterOf c)).holder = some (BitVec.ofNat 2 (posOf c)) then s.endTenure (clusterOf c) else s

/-- ARRAY_COMMAND_BEGIN (R229): the head of the core's sequence begins, or takes effect there. -/
def execArrayCommandBegin (core : Nat) (s : State) : Host.Outcome State Fault Refusal :=
  if !s.beginsNow core then .next s
  else
    match (s.core core).mxs.cmds with
    | [] => .next s
    | m :: _ =>
      match m.instr with
      | .mlease n => .next (leaseEffect core n s)
      | .mfree => .next (freeEffect core s)
      | _ => .next (beginEffect core m s)

/-! ## Readouts and completion -/

/-- The array of a core goes on: its instance runs, or stops at the tile boundary, where begun commands run to completion
(R392, R394). -/
def State.arrayRuns (s : State) (c : Nat) : Bool :=
  match (s.instOf c).status with
  | .running => true
  | .stopping freeze _ => !freeze
  | .saved _ | .parkedOut _ | .moved _ _ | .ending _ | .ended => false

/-- Rows of a readout not yet written. -/
def PendOp.rowsLeft (o : PendOp) : Nat := o.rows.length - o.mpc.toNat

/-- The next row of a begun MRD or MEPS is due (R229, R267; log 10): the last one in the command's completing cycle. -/
def State.rowDue (s : State) (c : Nat) (o : PendOp) : Bool :=
  (s.core c).begun o && !s.turnedAway c (.op .mx o.num) && decide (o.mpc.toNat < o.rows.length) && (s.core c).mx.unblocked o.num &&
    !(s.core c).parked .mx && s.arrayRuns c &&
    (match o.instr with
      | .mrd _ _ _ | .meps _ _ _ _ _ => true
      | _ => false) &&
    (match o.status with
      | .busy u => decide (u + 1 ≤ s.cycle + o.rowsLeft)
      | .queued => true
      | .paging _ _ _ | .trapped | .departed | .returning => false)

/-- An MRD or MEPS that goes on after a trap or page request: one row a cycle from here, holding the drain path. -/
def resumeRows (c : Nat) (o : PendOp) (s : State) : State :=
  match o.status with
  | .queued =>
    let cl := clusterOf c
    let x := s.cluster cl
    (s.modOp c .mx o.num (fun o =>
      { o with status := .busy (s.cycle + o.rowsLeft - 1), first := s.cycle + o.rowsLeft })).setCluster cl
      { x with drain := max x.drain (s.cycle + o.rowsLeft) }
  | .busy _ | .paging _ _ _ | .trapped | .departed | .returning => s

/-- The cycle in which a command began (R228). -/
def Core.beganAt (k : Core) (num : Nat) : Nat := ((k.mxs.flights.find? (fun f => decide (f.cmd.num = num))).map (fun f => f.start)).getD 0

/-- Row MPC of an MRD or MEPS is written (R243, R266): a tagged row is METER_READ. -/
def writeReadoutRow (c : Nat) (swz : Bool) (o : PendOp) (s : State) : Host.Outcome State Fault Refusal :=
  let q := (stashRow o.addr + o.mpc.toNat) % 8192
  match s.touchPlain c q .write with
  | .error x => s.failOp c .mx o.num (mxAddr (BitVec.ofNat 64 (256 * q))) .write x
  | .ok s =>
    let s := (s.putRow c q (swizzleRow swz q (o.rows.getD o.mpc.toNat 0)) (BitVec.allOnes 256)).useBanks c q 0xFF readoutRank
    let s := s.modCore c (fun k => k.noteClaim (.op .mx o.num) (k.beganAt o.num) s.cycle s.claims)
    .next ((resumeRows c o s).modOp c .mx o.num (fun o => { o with mpc := o.mpc + 1 }))

/-- A row of MRD is written (R243). -/
def performMrd (c : Nat) (m : MemOpnd) (o : PendOp) (s : State) : Host.Outcome State Fault Refusal :=
  if s.rowDue c o then writeReadoutRow c (MemOpnd.swizzled m) o s else .next s

/-- A row of MEPS is written (R266). -/
def performMeps (c : Nat) (m : MemOpnd) (o : PendOp) (s : State) : Host.Outcome State Fault Refusal :=
  if s.rowDue c o then writeReadoutRow c (MemOpnd.swizzled m) o s else .next s

/-- An MRDX of a core that can push its next row now, with its queue (R244). -/
def State.mrdxDue (s : State) (c : Nat) : Option (PendOp × BitVec 3) :=
  let k := s.core c
  if k.parked .mx ∨ !s.arrayRuns c then none
  else
    k.mx.ops.findSome? (fun o =>
      match o.instr with
      | .mrdx _ q _ =>
        let due : Bool :=
          match o.status with
          | .busy u => decide (u ≤ s.cycle)
          | .queued => true
          | .paging _ _ _ | .trapped | .departed | .returning => false
        if k.begun o && due && ((k.queue q).closed || k.mrdxBad q || decide ((k.queue q).slots.length < 8)) then some (o, q) else none
      | _ => none)

/-- MRDX_PUSH (R244): the next row enters the queue; a closed queue traps. With its
last row the MRDX completes. A queue configured anew for others takes no row (R98). -/
def mrdxPushEffect (c : Nat) (o : PendOp) (q : BitVec 3) (s : State) : State :=
  let k := s.core c
  if k.mrdxBad q then s.finish c .mx o.num
  else if (k.queue q).closed then s.opTrap c .mx o.num 0x21 0 (q.setWidth 64)
  else
    let id := k.qserial
    let row := o.rows.getD o.mpc.toNat 0
    let s := s.modCore c (fun k => (k.reserve q).fill q id row)
    if o.mpc.toNat + 1 < o.rows.length then
      s.modOp c .mx o.num (fun o => { o with mpc := o.mpc + 1, status := .busy (s.cycle + 1) })
    else s.finish c .mx o.num

/-- MRDX_PUSH (R244). -/
def execMrdxPush (core : Nat) (s : State) : Host.Outcome State Fault Refusal :=
  match s.mrdxDue core with
  | none => .next s
  | some (o, q) => .next (mrdxPushEffect core o q s)

/-- The word MSTAT writes (R245). -/
def Core.mstatWord (k : Core) : W64 :=
  let m := k.mxs
  let any (d : Bool) (f : Acc → Bool) : Bool :=
    m.acc.any (fun (e : Nat × Acc) => decide (e.1 / 8192 = if d then 1 else 0) && f e.2)
  let nan (x : Acc) : Bool := x.n || (x.pi && x.ni)
  bit m.clsm 10 ||| bit m.tinv 9 ||| bit m.rsat 8 ||| bit m.mix1 7 ||| bit m.mix0 6 ||| bit (decide (m.kind1 = .int)) 5 |||
    bit (decide (m.kind0 = .int)) 4 ||| bit (any true nan) 3 ||| bit (any false nan) 2 |||
    bit (any true (fun x => x.asat)) 1 ||| bit (any false (fun x => x.asat)) 0

/-- MSTAT acts: it heads the sequence and every earlier array command of the core has completed (R245). -/
def Core.mstatDue (k : Core) (o : PendOp) : Bool :=
  (match o.instr with
    | .mstat _ _ _ => true
    | _ => false) &&
    (k.mxs.cmds.head?).any (fun m => decide (m.num = o.num)) &&
    k.mx.ops.all (fun p => decide (o.num ≤ p.num) || !p.instr.isArray)

/-- A begun array command completes: its cycle has come, its rows are written, and no FREEZE holds it (R229, R394). -/
def State.commandDone (s : State) (c : Nat) (o : PendOp) : Bool :=
  (s.core c).begun o && s.arrayRuns c && decide (o.rows.length ≤ o.mpc.toNat) &&
    (match o.status with
      | .busy u => decide (u ≤ s.cycle)
      | .queued => true
      | .paging _ _ _ | .trapped | .departed | .returning => false)

/-- MSTAT writes its register and clears the sticky bits if CLR is set. -/
def mstatEffect (c : Nat) (d : BitVec 4) (clr : Bool) (num : Nat) (s : State) : State :=
  let v := (s.core c).mstatWord
  (s.modCore c (fun k =>
    let m := k.mxs.dropHead
    { k with mxs := if clr then { m with clsm := false, tinv := false, rsat := false } else m })).send c .mx num [.a d v]

/-- ARRAY_COMMAND_COMPLETE (R229, R245): the command's token is released. -/
def execArrayCommandComplete (core num : Nat) (s : State) : Host.Outcome State Fault Refusal :=
  match (s.core core).mx.op? num with
  | none => .next s
  | some o =>
    if (s.core core).mstatDue o then
      match o.instr with
      | .mstat d clr _ => .next (mstatEffect core d clr num s)
      | _ => .next s
    else if s.commandDone core o then .next (s.finish core .mx num)
    else .next s

end Sys2Proof.Machine
end

