-- ==== Sys2Proof/Machine/System.lean ====
section
/-!
DEFINITION. The instructions of major 27 (R377 to R383), entering the handler (R359) and the range registers of the L2 (R168).
-/

namespace Sys2Proof.Machine

/-! ## Traps on purpose -/

/-- TRAP (R378): code 0x38. -/
def execTrap (n : BitVec 18) (g : Guard) (s : State) : Host.Outcome State Fault Refusal :=
  s.issue { act := s.cur.guardOn s.eng g } (fun s => s.groupTrap 0x38 0 (n.setWidth 64))

/-- BRK (R378): code 0x39. -/
def execBrk (n : BitVec 18) (g : Guard) (s : State) : Host.Outcome State Fault Refusal :=
  s.issue { act := s.cur.guardOn s.eng g } (fun s => s.groupTrap 0x39 0 (n.setWidth 64))

/-- Needs of FAULTRD (R379). -/
def State.needsFaultrd (s : State) (d : RF) (g : Guard) : Needs :=
  { dst := d.push, act := s.cur.guardOn s.eng g, lat := 1, file := d.file s.eng }

/-- FAULTRD (R379). -/
def execFaultrd (d : RF) (k : BitVec 3) (g : Guard) (s : State) : Host.Outcome State Fault Refusal :=
  s.issue (s.needsFaultrd d g) (fun s => s.toRF d 1 (s.cur.faultWord s.eng k))

/-! ## The handler -/

/-- The trap that is entered next ends the instance (R360): TRAPV is 0 or no point. -/
def Core.entryFault (k : Core) : Option TrapRec :=
  if k.trapv = 0 ∨ !isPoint k.trapv then k.pend.head? else none

/-- HANDLER_ENTRY (R359). -/
def execHandlerEntry (core : Nat) (s : State) : Host.Outcome State Fault Refusal :=
  if s.canEnterHandler core then
    match (s.core core).entryFault with
    | some r => .next (s.endFault (s.core core).inst r)
    | none => .next (s.modCore core (fun k => k.enterHandler (s.counts core .scu)))
  else .next s

/-- Needs of ERET (R381): ILL_FIELD outside the handler, and with NEWPT for a channel's trap; it waits until the handler's
landing buffer is empty. -/
def State.needsEret (s : State) (a : GField) (newpt : Bool) : Needs :=
  { srcs := [a.qref]
    bad := match s.cur.hand with
      | none => true
      | some h => newpt && decide (h.rec_.kind = 2)
    cond := if s.ctx.land.isEmpty then none else some .hold }

/-- A group trap of TRAP, whose plain return resumes at the following group (R363). -/
def TrapRec.passes (r : TrapRec) : Bool := decide (r.code = 0x38)

/-- Where a return takes the stream of the trapping engine. -/
inductive Resume where
  /-- as it stands -/
  | stay
  /-- to a point -/
  | to (p : W64)
  /-- its stream ends with the faulting group (R27) -/
  | ends
  /-- it stays halted: a FORK's target that never passed the checks of its point (R115) -/
  | halted
  deriving DecidableEq, Repr

/-- Where an ERET resumes the stream of the trapping engine (R381); `none` where the line of the faulting group is not in the
instruction cache. -/
def State.resumeOf (s : State) (r : TrapRec) (drop : Bool) (newpt : Option W64) : Option Resume :=
  match newpt with
  | some p => some (.to p)
  | none =>
    if r.kind = 0 ∧ drop ∧ r.entry then some .halted
    else if r.kind = 0 ∧ (drop ∨ r.passes) then
      match s.cached s.focus r.pt with
      | none => none
      | some l =>
        some (match Line.follow l r.pt with
          | some p => .to p
          | none => .ends)
    else some .stay

/-- An engine leaves the group at which it stands: nothing of its last try, its repeat or its loop buffer is left (R52, R93,
R246). -/
def Ctx.leave (x : Ctx) : Ctx :=
  { x with wait := none, lbuf := [], fresh := false, stuck := false, target := none, reach := .idle, starting := false, mpc := 0 }

/-- The trapping engine's stream moves to where it resumes, its loop buffer empty (R52); the SCU's is the interrupted stream that the
handler saved. -/
def Core.resume (k : Core) (e : Engine) (r : Resume) : Core :=
  let go (x : Ctx) : Ctx :=
    match r with
    | .stay => { x with wait := none, lbuf := [], fresh := false }
    | .to p => { x.leave with pt := p }
    | .ends => { x.leave with run := .halting }
    | .halted => { x.leave with run := .halted }
  k.modCtx e (fun x => (go x).thaw)

/-- A gather's lanes that a trap stopped may perform again (R177). -/
def retryLanes (v : Row) : Row :=
  (List.range 64).foldl (fun v j => if elem 32 v j = 0xFFFFFFFF#32 then setLaneWait v j 0 else v) v

/-- An operation performs again (R381). -/
def PendOp.again (o : PendOp) : PendOp :=
  if o.status ≠ .trapped then o
  else
    match o.instr with
    | .vgath _ _ _ _ _ _ => { o with status := .queued, val2 := retryLanes o.val2 }
    | _ => { o with status := .queued }

/-- The reserved queue entry of an operation that ends without pushing is given up (R381). -/
def Core.unreserve (k : Core) (id : Nat) : Core :=
  { k with queues := k.queues.foldl (fun (t : Tbl Queue) (e : Nat × Queue) =>
      t.set Queue.init e.1 { e.2 with slots := e.2.slots.filter (fun x => !(decide (x.id = id) && x.val.isNone)) }) k.queues }

/-- The queue an instruction's variable-latency result goes to. -/
def PendOp.pushes (o : PendOp) (e : Engine) : Bool := (o.instr.uses e).dst.isSome

/-- A performed operation that traps is dropped (R381): it completes without further effect. A readout gives up the drain
path (R243, R244, R267), which other readouts keep for their time (R229). -/
def State.dropOp (s : State) (c : Nat) (e : Engine) (num : Nat) : State :=
  match ((s.core c).ctx e).op? num with
  | none => s
  | some o =>
    let s := if o.pushes e then s.modCore c (fun k => k.unreserve o.qid) else s
    let s :=
      if o.instr.drains then
        s.setCluster (clusterOf c) { s.cluster (clusterOf c) with drain := min (s.cluster (clusterOf c)).drain (s.drainHeld c num) }
      else s
    s.finish c e num

/-- What an ERET does to the operation or the channel that trapped (R381). -/
def State.resolve (s : State) (c : Nat) (r : TrapRec) (drop : Bool) : State :=
  if r.kind = 1 then
    if drop then s.dropOp c r.eng r.num else s.modOp c r.eng r.num PendOp.again
  else if r.kind = 2 then
    match r.chan with
    | none => s
    | some ch =>
      if drop then
        match ((s.core c).chan ch).jobs with
        | [] => s
        | j :: _ => s.cancelJob c ch j
      else s.modChan c ch (fun x => { x with park := if x.park = .trapped then .none_ else x.park })
  else s

/-- RETURNING FROM THE HANDLER (R381). -/
def State.returnFrom (s : State) (h : Handler) (drop : Bool) (re : Resume) : State :=
  let s := s.modCur (fun k => k.leaveHandler h)
  let s := s.resolve s.focus h.rec_ drop
  if h.rec_.chan.isSome ∨ h.rec_.kind = 3 then s
  else s.modCur (fun k => if re = .stay ∧ h.rec_.eng = .scu then k else k.resume h.rec_.eng re)

/-- Effect of ERET: a new point is checked first (R360, R381). -/
def eretEffect (a : GField) (drop newpt : Bool) (s : State) : State :=
  match s.cur.hand with
  | none => s.illField
  | some h =>
    let (v, k) := s.cur.readG a
    let back (s : State) (p : Option W64) : State :=
      match s.resumeOf h.rec_ drop p with
      | none => s.needLine h.rec_.pt
      | some re => s.returnFrom h drop re
    if newpt ∧ h.rec_.kind ≠ 3 then
      match s.pointFault s.focus h.rec_.eng v with
      | none => s.needLine v
      | some (some f) => s.faultTrap f
      | some none => back (s.setCore s.focus k) (some v)
    else back (if newpt then s.setCore s.focus k else s) none

/-- ERET (R381). -/
def execEret (a : GField) (drop newpt : Bool) (s : State) : Host.Outcome State Fault Refusal :=
  s.issue (s.needsEret a newpt) (eretEffect a drop newpt)

/-! ## ICINV (R50, R382) -/

/-- Effect of ICINV at issue. -/
def icinvEffect (sc : IcScope) (a b : GField) (w : BitVec 3) (s : State) : State :=
  let (x, k) := s.cur.readG a
  let (y, k) := k.readG b
  (s.setCore s.focus k).enterOp { PendOp.of (.icinv sc a b w) (some w) with addr := x, val := y.setWidth 2048 }

/-- ICINV (R382). -/
def execIcinv (sc : IcScope) (a b : GField) (w : BitVec 3) (s : State) : Host.Outcome State Fault Refusal :=
  s.issue { srcs := [a.qref, b.qref], tok := some w } (icinvEffect sc a b w)

/-- First line and number of lines of an ICINV's range. -/
def PendOp.icRange (o : PendOp) : Nat × Nat :=
  let n := (slice o.val 0 64).toNat
  (o.addr.toNat / 64, (o.addr.toNat % 64 + n + 63) / 64)

/-- Cycles an ICINV takes (R382; log 10). -/
def PendOp.icCycles (o : PendOp) : Nat := if slice o.val 0 64 = 0#64 then 0 else min 84 (20 + (o.icRange.2 + 15) / 16)

/-- A line address lies in an ICINV's range; a range of more than 1,024 lines is everything (R382). -/
def PendOp.icHits (o : PendOp) (line : Nat) : Bool :=
  let (first, n) := o.icRange
  decide (1024 < n) || (decide (first ≤ line / 64) && decide (line / 64 < first + n))

/-- Drops lines from a core's instruction cache: those of a slice, or of a core in `all` also those of other slices where the
range is everything (R382). -/
def Core.dropLines (k : Core) (o : PendOp) (sl : Nat) (all : Bool) : Core :=
  let hits (key : Nat) : Bool := o.icHits (key % 2 ^ 64) && ((all && decide (1024 < o.icRange.2)) || decide (key / 2 ^ 64 = sl))
  { k with
    icache := k.icache.filter (fun (e : Nat × Option Line) => !hits e.1)
    icorder := k.icorder.filter (fun key => !hits key) }

/-- Drops lines from an engine's loop buffer. -/
def Core.dropLoop (k : Core) (o : PendOp) (e : Engine) : Core :=
  k.modCtx e (fun x => { x with lbuf := x.lbuf.filter (fun p => !o.icHits p.toNat) })

/-- The cores an ICINV reaches (R50). At slice scope that is every core with lines of the slice: an idle core keeps the lines of
the contexts that it ran, and a core of another slice loses no line of its own and nothing of its loop buffers. -/
def State.icReaches (s : State) (c : Nat) (sc : IcScope) (d : Nat) : Bool :=
  match sc with
  | .engine | .core => decide (d = c)
  | .panel => decide ((s.core d).inst = (s.core c).inst)
  | .slice => true

/-- ICINV acts (R50). -/
def State.invalidate (s : State) (c : Nat) (sc : IcScope) (o : PendOp) : State :=
  { s with cores := s.cores.foldl (fun (t : Tbl Core) (e : Nat × Core) =>
      if s.icReaches c sc e.1 then
        let k := e.2.dropLines o (s.space c).slice (decide ((s.space e.1).slice = (s.space c).slice))
        t.set Core.init e.1
          (if (s.space e.1).slice ≠ (s.space c).slice then k
           else if sc = .engine then k.dropLoop o .scu
           else (((k.dropLoop o .scu).dropLoop o .ve).dropLoop o .ce).dropLoop o .mx)
      else t) s.cores }

/-- An ICINV is due. -/
def State.icinvDue (s : State) (o : PendOp) : Option IcScope :=
  match o.instr with
  | .icinv sc _ _ _ => if o.status = .queued ∧ o.issued + o.icCycles ≤ s.cycle then some sc else none
  | _ => none

/-- ICINV_COMPLETE (R382). -/
def execIcinvComplete (core num : Nat) (s : State) : Host.Outcome State Fault Refusal :=
  match (s.core core).scu.op? num with
  | none => .next s
  | some o =>
    match s.icinvDue o with
    | none => .next s
    | some sc =>
      if slice o.val 0 64 ≠ 0#64 ∧ slice o.addr 48 16 ≠ 0#16 then .next (s.permOp core .scu num o.addr .fetch)
      else .next ((if slice o.val 0 64 = 0#64 then s else s.invalidate core sc o).finish core .scu num)

/-! ## MTRRD (R383) -/

/-- The slice that a core's instance runs in. -/
def State.sliceRec (s : State) (c : Nat) : Slice := s.slices.get Slice.init (s.space c).slice

/-- Effect of MTRRD at issue: the counter as it stands, before any product that begins in this cycle (R384). -/
def mtrrdEffect (d a : GField) (w : BitVec 3) (s : State) : State :=
  let (v, k) := s.cur.readG a
  let (s, qid) := (s.setCore s.focus k).reserveG d
  let r := (slice v 0 12).toNat
  s.enterOp { PendOp.of (.mtrrd d a w) (some w) with
    addr := v, val := ((s.regions.get Region.init r).count).setWidth 2048, qid := qid }

/-- MTRRD (R383). -/
def execMtrrd (d a : GField) (w : BitVec 3) (s : State) : Host.Outcome State Fault Refusal :=
  s.issue { srcs := [a.qref], dst := d.push, tok := some w } (mtrrdEffect d a w)

/-- MTRRD performs: region 0, or a region that the slice does not hold, traps PERM (R383). -/
def performMtrrd (c : Nat) (d : GField) (o : PendOp) (s : State) : State :=
  let r : BitVec 12 := slice o.addr 0 12
  if r = 0 ∨ r ∉ (s.sliceRec c).regions then s.permOp c .scu o.num 0 .read
  else s.landG c o.num d o.qid (slice o.val 0 64)

/-! ## Range registers of the L2 (R168) -/

/-- A write of a range register that is refused (R168). -/
def State.l2Refused (s : State) (die n : Nat) (v : BitVec 128) : Bool :=
  let reg (k : Nat) : BitVec 128 := if k = n then v else s.l2rng.get 0 (8 * die + k)
  let ways := (List.range 8).foldl (fun (a : BitVec 16) k => if (reg k).getLsbD 0 then a ||| slice (reg k) 36 16 else a) 0
  decide (256 < (slice v 27 9).toNat) || decide ((slice v 88 36).toNat < (slice v 52 36).toNat) ||
    decide (12 < ((List.range 16).filter (fun k => ways.getLsbD k)).length)

/-- Writes a range register: its accumulator is zero on enable (R168, R169). Reserved bits are kept zero. -/
def State.setL2rng (s : State) (die n : Nat) (v : BitVec 128) : State :=
  if s.l2Refused die n v then s
  else
    let on := v.getLsbD 0 && !(s.l2rng.get 0 (8 * die + n)).getLsbD 0
    { s with
      l2rng := s.l2rng.set 0 (8 * die + n) (v &&& 0x0FFFFFFFFFFFFFFFFFFFFFFFF9F00001#128)
      l2acc := if on then s.l2acc.set 0 (8 * die + n) 0 else s.l2acc }

/-! ## HCALL (R380) -/

/-- Effect of HCALL at issue. -/
def hcallEffect (d a : GField) (svc : BitVec 6) (w : BitVec 3) (s : State) : State :=
  s.enterOp { PendOp.of (.hcall d a svc w) (some w) with addr := (s.cur.readG a).1 &&& ~~~(63#64) }

/-- HCALL (R380). -/
def execHcall (d a : GField) (svc : BitVec 6) (w : BitVec 3) (s : State) : Host.Outcome State Fault Refusal :=
  s.issue { tok := some w } (hcallEffect d a svc w)

/-- An HCALL that can be answered: every earlier access of the SCU has performed (R380 step 1), and no firmware hand-over is
under way (R440 step 2). -/
def State.hcallOp (s : State) (c : Nat) : Option (PendOp × GField × BitVec 6) :=
  (s.core c).scu.ops.findSome? (fun o =>
    match o.instr with
    | .hcall d _ svc _ =>
      if o.status = .queued ∧ !s.dev.handover ∧ (s.core c).scu.ops.all (fun p => decide (o.num ≤ p.num) || p.performed ||
          decide (p.instr.ord = .none_)) then some (o, d, svc) else none
    | _ => none)

/-- What an L2RANGE request asks for: die, register and value (R168, R380); none where its range is not mapped. -/
def State.l2Request (s : State) (c : Nat) (b : BitVec 512) : Option (Nat × Nat × BitVec 128) :=
  let base := (slice b 0 64).toNat
  let len := (slice b 64 64).toNat
  let sp := s.space c
  let phys (va : Nat) : Option Nat :=
    match s.walk sp.slice sp.s1root sp.s2root (va % 2 ^ 48) .read with
    | .error _ => none
    | .ok (x, _) => some x.pa
  if len = 0 ∨ 8 ≤ (slice b 160 8).toNat then none
  else
    match phys base, phys (base + len - 1) with
    | some lo, some hi =>
      let v : BitVec 128 := field (BitVec.ofNat 36 (hi / 2 ^ 16)) 88 ||| field (BitVec.ofNat 36 (lo / 2 ^ 16)) 52 |||
        field (slice b 128 16 : BitVec 16) 36 ||| field (BitVec.ofNat 9 (min (slice b 144 16).toNat 511)) 27 |||
        field (BitVec.ofNat 5 sp.slice) 20 ||| 1
      some (lo / 2 ^ 37, (slice b 160 8).toNat, v)
    | _, _ => none

/-- What the slice manager does where it answers OK (R380): nothing more for VERSION, a window entry, a range register; none
where it cannot answer OK. -/
def State.serveHcall (s : State) (c : Nat) (svc : BitVec 6) (b : BitVec 512) : Option State :=
  if svc = 0 then some s
  else if svc = 1 then
    let n := (slice b 128 8).toNat
    if n < 128 then
      some { s with slices := s.slices.upd Slice.init (s.space c).slice (fun (x : Slice) =>
        { x with windows := x.windows.set 0 n (slice b 0 128 &&& windowBits) }) }
    else none
  else if svc = 2 then
    match s.l2Request c b with
    | none => none
    | some (die, n, v) => if s.l2Refused die n v then none else some (s.setL2rng die n v)
  else none

/-- The answer agrees with the service: a code of R380, NOSVC for a service that does not exist and for no other. -/
def hcallAnswer (svc : BitVec 6) (status : W64) : Bool :=
  let code : BitVec 8 := slice status 0 8
  decide (code.toNat ≤ 4) && (decide (code = 1) == decide (3 ≤ svc.toNat))

/-- The HCALL completes: the block is rewritten where the answer changes it, and g[d] receives the status (R380). -/
def hcallDone (c : Nat) (o : PendOp) (d : GField) (status : W64) (old new : BitVec 512) (s : State) :
    Host.Outcome State Fault Refusal :=
  if old = new then .next (s.landG c o.num d 0 status)
  else
    match s.putPacket c o.addr new with
    | .error x => s.failOp c .scu o.num o.addr .write x
    | .ok s => .next (s.landG c o.num d 0 status)

/-- HCALL_COMPLETE (R380): the slice manager answers, with the argument block as it leaves it (log 15). -/
def execHcallComplete (core : Nat) (status : W64) (block : BitVec 512) (s : State) : Host.Outcome State Fault Refusal :=
  match s.hcallOp core with
  | none => .next s
  | some (o, d, svc) =>
    if !isStash o.addr then .next (s.permOp core .scu o.num o.addr .rw)
    else
      match s.stashPacket core o.addr with
      | .error x => s.failOp core .scu o.num o.addr .read x
      | .ok (old, t) =>
        if !hcallAnswer svc status then .next s
        else if slice status 0 8 ≠ 0#8 then hcallDone core o d status old block t
        else
          match t.serveHcall core svc old with
          | none => .next s
          | some t => hcallDone core o d status old block t

end Sys2Proof.Machine
end

