-- ==== Sys2Proof/Machine/Perform.lean ====
section
/-!
DEFINITION. MEMORY_ACCESS_PERFORM (R170, R171): which issued operation may perform, and what it then does.
-/

namespace Sys2Proof

open Machine

/-- Operations of the MX's readouts, whose rows have times of their own (R229). -/
def Instr.isReadout (i : Instr) : Bool :=
  match i with
  | .mrd _ _ _ | .meps _ _ _ _ _ => true
  | _ => false

/-- A gather, whose lanes wait one by one (R177). -/
def Instr.isGather (i : Instr) : Bool :=
  match i with
  | .vgath _ _ _ _ _ _ => true
  | _ => false

end Sys2Proof

namespace Sys2Proof.Machine

/-- Cycles from issue to where an access performs: a stash access reaches its banks in the cycle in which its group issues (R159);
one of global memory performs when an L1 hit lands (R167; log 10). -/
def PendOp.delay (o : PendOp) : Nat :=
  match o.instr with
  | .ld _ _ _ _ | .ldn _ _ _ _ | .lda _ _ _ _ | .atm _ _ _ _ _ _ | .acas _ _ _ _ _ | .acas2 _ _ _ _ => if isStash o.addr then 0 else 15
  | .st _ _ _ _ => if isStash o.addr then 0 else 1
  | .vld _ _ _ | .vldq _ _ _ _ | .vldt _ _ _ _ | .xld _ _ _ | .vgath _ _ _ _ _ _ | .vst _ _ _ | .vstm _ _ _ _ | .xst _ _ _ => 0
  | .vscat _ _ sh _ _ _ => if isStash (laneAddr o sh (lowestLane o.mpc)) then 0 else 1
  | .cwprd _ _ _ _ | .cstat _ _ _ _ | .cbuf _ _ _ _ => 2
  | .fset _ _ _ => 0
  | _ => 1

/-- An operation may perform now: its turn has come, its time has passed, and it is neither parked nor stopped (R171, R197,
R358, R374), even if it has nothing to do (log 29); a gather of which a trap stopped a lane goes on with its other lanes (R177). -/
def State.mayPerform (s : State) (c : Nat) (e : Engine) (o : PendOp) : Bool :=
  (decide (o.status = .queued) || (decide (o.status = .trapped) && o.instr.isGather) || (s.core c).begun o && o.instr.isReadout) &&
    ((s.core c).ctx e).unblocked o.num && s.barOpen c e o.instr && decide (o.issued + o.delay ≤ s.cycle) && decide ((s.core c).inst ≠ 0) &&
    (decide ((s.instOf c).status = .running) || o.instr.isReadout && s.arrayRuns c) &&
    (!(s.core c).parked e || (decide (o.status = .trapped) && o.instr.isGather))

/-- What an operation does where it performs; `lane` chooses the lane of a gather. -/
def performOp (c : Nat) (e : Engine) (lane : Nat) (o : PendOp) (s : State) : Host.Outcome State Fault Refusal :=
  match o.instr with
  | .ld t d _ _ => performLd c t d (.l1 c) o s
  | .ldn t d _ _ => performLd c t d (.pass c) o s
  | .lda t d _ _ => performLd c t d (.l1 c) o s
  | .st t _ _ _ => performSt c t o s
  | .atm op wide d _ _ _ => performAtm c op wide d o s
  | .acas wide d _ _ _ => performAcas c wide d o s
  | .acas2 d _ _ _ => performAcas2 c d o s
  | .stbind _ _ _ => performStbind c o s
  | .stunbd _ _ => performStunbd c o s
  | .stflsh _ _ => performStflsh c o s
  | .stdrop _ _ => performStdrop c o s
  | .sttch _ _ => performSttch c o s
  | .cflsh _ _ _ => performCflsh c o s
  | .cinv _ _ _ => performCinv c o s
  | .cdisc _ _ _ => performCdisc c o s
  | .rld _ _ _ _ | .rst _ _ _ _ | .ratm _ _ _ _ _ | .rcas _ _ _ _ _ => departRemote c o s
  | .casn _ _ _ _ | .enq _ _ _ _ | .deq _ _ _ _ | .chase _ _ _ _ | .fadd _ _ _ _ | .fminloc _ _ _ _ => departRemote c o s
  | .rfence _ => .next (performRfence c o s)
  | .mtrrd d _ _ => .next (performMtrrd c d o s)
  | .vld d m _ => performVld c d (MemOpnd.swizzled m) o s
  | .vldq q m _ _ => performVld c (.pop q) (MemOpnd.swizzled m) o s
  | .vldt d m _ _ => performVldt c d (MemOpnd.swizzled m) o s
  | .vst _ m _ => performVst c (MemOpnd.swizzled m) o s
  | .vstm _ m _ _ => performVst c (MemOpnd.swizzled m) o s
  | .vgath d _ sh _ _ _ => performVgath c d sh lane o s
  | .vscat _ _ sh _ _ _ => performVscat c sh o s
  | .vpref _ sh _ _ _ => .next (performVpref c sh o s)
  | .xld x _ _ => performXld c x o s
  | .xst _ _ _ => performXst c o s
  | .fset f _ _ => .next (performFset c e f o s)
  | .mark _ => .next (s.finish c e o.num)
  | .tlrd d _ _ => .next (performTlrd c e d o s)
  | .binit _ _ _ _ => performBinit c e o s
  | .binv _ _ _ _ => performBinv c e o s
  | .btry r _ _ _ => performBtry c e r o s
  | .barr r _ _ _ => performBarr c e r o s
  | .bwait _ _ _ _ => performBwait c e o s
  | .cwprd d _ _ _ => .next (performCeReg c d o s)
  | .cstat d _ _ _ => .next (performCeReg c d o s)
  | .cbuf set _ _ _ => .next (performCbuf c set o s)
  | .ccan all ch _ => .next (performCcan c all ch o s)
  | .cgrp slot _ _ => performCgrp c slot o s
  | .mrd _ m _ => performMrd c m o s
  | .meps _ _ _ m _ => performMeps c m o s
  | _ => .next s

/-- MEMORY_ACCESS_PERFORM (R170): the operation of a number performs, where it may. -/
def execMemoryAccessPerform (core : Nat) (e : Engine) (num lane : Nat) (s : State) : Host.Outcome State Fault Refusal :=
  match ((s.core core).ctx e).op? num with
  | none => .next s
  | some o => if s.mayPerform core e o then s.served core (.op e num) (performOp core e lane o s) else .next s

end Sys2Proof.Machine
end

