-- ==== Sys2Proof/Machine/Launch.lean ====
section
/-!
DEFINITION. Launch and scheduling (R413 to R426): command queues and their control blocks, packets, the checks of a launch,
set-up and start, gangs, and how an instance ends.
-/

namespace Sys2Proof.Machine

/-! ## The host's memory and interrupts -/

/-- `n` bytes of the host's memory, little-endian (log 26). -/
def State.hostRead (s : State) (a n : Nat) : Nat :=
  (List.range n).foldl (fun v j => v + (Tbl.get s.hostMem 0 ((a + j) % 2 ^ 64)).toNat * 2 ^ (8 * j)) 0

/-- Writes `n` bytes of the host's memory. -/
def State.hostWrite (s : State) (a n v : Nat) : State :=
  { s with hostMem := (List.range n).foldl (fun (m : List Host.Cell) j =>
      Tbl.set m 0 ((a + j) % 2 ^ 64) (BitVec.ofNat 8 (v / 2 ^ (8 * j)))) s.hostMem }

/-- A function's DMA access to `n` bytes, a page or less, meets an error (R416). -/
def State.dmaFails (s : State) (vf : BitVec 6) (a n : Nat) : Bool :=
  let at_ (p : Nat) : Bool := s.dev.dmaErr.get false (2 ^ 52 * vf.toNat + p / 4096 % 2 ^ 52)
  at_ a || at_ (a + n - 1)

/-- An MSI-X vector of a function fires, if the function has it (R431); function 0 is the physical one. -/
def State.fire (s : State) (f : BitVec 6) (v : Nat) : State :=
  if v < (if f = 0 then 256 else 64) then
    { s with dev := { s.dev with msix := s.dev.msix ++ [(f, BitVec.ofNat 11 v)] } }
  else s

/-! ## Queues (R415, R416) -/

/-- Key of queue q of function v. -/
def queueKey (vf q : BitVec 6) : Nat := 64 * vf.toNat + q.toNat

/-- A command queue. -/
def State.cq (s : State) (vf q : BitVec 6) : CmdQueue := s.queues.get CmdQueue.init (queueKey vf q)

/-- Replaces a command queue. -/
def State.setCq (s : State) (vf q : BitVec 6) (x : CmdQueue) : State :=
  { s with queues := s.queues.set CmdQueue.init (queueKey vf q) x }

/-- Changes a command queue. -/
def State.modCq (s : State) (vf q : BitVec 6) (f : CmdQueue → CmdQueue) : State := s.setCq vf q (f (s.cq vf q))

/-- A virtual function (R431). -/
def isVf (vf : BitVec 6) : Bool := decide (1 ≤ vf.toNat) && decide (vf.toNat ≤ 32)

/-- Notes in QERR an ending other than OK (R415). -/
def CmdQueue.fail (x : CmdQueue) (seq : BitVec 32) (status reason : BitVec 8) : CmdQueue :=
  let n : BitVec 16 := Machine.slice x.qerr 48 16
  { x with qerr := field (if n = 0xFFFF then n else n + 1) 48 ||| field reason 40 ||| field status 32 ||| seq.setWidth 64 }

/-- The first number from `n` on that a list of numbers does not hold. -/
def passFrom (l : List (BitVec 32)) : Nat → BitVec 32 → BitVec 32
  | 0, n => n
  | k + 1, n => if l.contains n then passFrom l k (n + 1) else n

/-- Numbers not below `n` in modular order (R428). -/
def fromSeq (l : List (BitVec 32)) (n : BitVec 32) : List (BitVec 32) := l.filter (fun m => decide ((m - n).toNat < 2 ^ 31))

/-- SEQS and SEQD advance as far as they may (R415). -/
def CmdQueue.advance (x : CmdQueue) : CmdQueue :=
  let s := passFrom x.started x.started.length x.seqs
  let d := passFrom x.ended x.ended.length x.seqd
  { x with seqs := s, seqd := d, started := fromSeq x.started s, ended := fromSeq x.ended d }

/-- A packet has started (R415). -/
def CmdQueue.start (x : CmdQueue) (seq : BitVec 32) : CmdQueue :=
  if x.started.contains seq ∨ 2 ^ 31 ≤ (seq - x.seqs).toNat then x
  else { x with started := x.started ++ [seq] }.advance

/-- SEQD as it stood before a cycle (R429). -/
def CmdQueue.seqdAt (x : CmdQueue) (now : Nat) : BitVec 32 := if x.moved = now + 1 then x.before else x.seqd

/-- A packet has ended, its completion write made (R415). -/
def CmdQueue.finish (x : CmdQueue) (seq : BitVec 32) (now : Nat) : CmdQueue :=
  let y := x.start seq
  { y with
    ended := y.ended ++ [seq], launches := y.launches.filter (fun l => decide (l.seq ≠ seq))
    moved := now + 1, before := x.seqdAt now }.advance

/-! ## Control blocks (R389 to R391) -/

/-- Reserved bits of a control block. -/
def blockReserved : BitVec 1024 :=
  ((BitVec.allOnes 576).setWidth 1024 <<< 448) ||| ((BitVec.allOnes 48).setWidth 1024 <<< 336) |||
    ((BitVec.allOnes 50).setWidth 1024 <<< 278) ||| ((BitVec.allOnes 3).setWidth 1024 <<< 269) |||
    ((BitVec.allOnes 64).setWidth 1024 <<< 192) ||| ((BitVec.allOnes 16).setWidth 1024 <<< 112) |||
    ((BitVec.allOnes 28).setWidth 1024 <<< 68)

/-- Privileged bits of a control block. -/
def blockPrivileged : BitVec 1024 :=
  ((BitVec.allOnes 64).setWidth 1024 <<< 384) ||| ((BitVec.allOnes 8).setWidth 1024 <<< 328) |||
    ((BitVec.allOnes 6).setWidth 1024 <<< 272) ||| ((BitVec.allOnes 5).setWidth 1024 <<< 264) |||
    ((BitVec.allOnes 8).setWidth 1024 <<< 256)

/-- Guest fields of the front end's copy (R389). -/
def CmdQueue.rbase (x : CmdQueue) : Nat := (Machine.slice x.guest 0 64).toNat
/-- Entries of the ring. -/
def CmdQueue.rsize (x : CmdQueue) : Nat := 2 ^ (Machine.slice x.guest 64 4).toNat
/-- Completion vector. -/
def CmdQueue.vector (x : CmdQueue) : Nat := (Machine.slice x.guest 96 16).toNat
/-- Stage-1 root. -/
def CmdQueue.s1root (x : CmdQueue) : W64 := Machine.slice x.guest 128 64

/-- MASK of a tamper event: the privileged fields that differ from the shadow (R391). -/
def CmdQueue.differs (x : CmdQueue) (vf : BitVec 6) (g : BitVec 1024) : BitVec 8 :=
  bit (decide (Machine.slice g 256 8 ≠ x.slot)) 0 ||| bit (decide (Machine.slice g 264 5 ≠ x.slice)) 1 |||
    bit (decide (Machine.slice g 272 6 ≠ vf)) 2 ||| bit (decide (Machine.slice g 328 8 ≠ x.prioceil)) 3 |||
    bit (decide (Machine.slice g 384 64 ≠ x.s2root)) 4

/-- The tamper event that a refresh raises (R391). -/
def CmdQueue.tamper (x : CmdQueue) (vf q : BitVec 6) (g : BitVec 1024) (now : W64) : TamperRec :=
  let m := x.differs vf g
  { gtime := now, vf := vf.setWidth 8, queue := q.setWidth 8, mask := m
    pval := field (Machine.slice g 328 8 : BitVec 8) 24 ||| field (Machine.slice g 272 6 : BitVec 6) 16 ||| field (Machine.slice g 264 5 : BitVec 5) 8 |||
      field (Machine.slice g 256 8 : BitVec 8) 0
    gval := if m.getLsbD 4 then Machine.slice g 384 64 else 0
    count := x.tampers + 1 }

/-- A REFRESH of a bound queue's control block (R390): a nonzero reserved bit makes it ignored; otherwise the guest fields are
taken, and a privileged field that differs raises a tamper event, once for each guest value. A read that meets a DMA error gives
nothing to take (log 26). -/
def refreshEffect (vf q : BitVec 6) (s : State) : State :=
  let x := s.cq vf q
  let g : BitVec 1024 := BitVec.ofNat 1024 (s.hostRead x.block.toNat 128)
  let x := { x with refreshed := s.gtime }
  if g &&& blockReserved ≠ 0 ∨ s.dmaFails vf x.block.toNat 128 then s.setCq vf q x
  else
    let p := g &&& blockPrivileged
    if x.differs vf g = 0 then s.setCq vf q { x with guest := g, seen := none }
    else if x.seen = some p then s.setCq vf q { x with guest := g }
    else
      let s := { s with dev := { s.dev with events := s.dev.events ++ [x.tamper vf q g s.gtime] } }
      s.setCq vf q { x with guest := g, seen := some p, tampers := x.tampers + 1 }

/-- CONTROL_BLOCK_REFRESH (R390). -/
def execControlBlockRefresh (vf q : BitVec 6) (s : State) : Host.Outcome State Fault Refusal :=
  if (s.cq vf q).bound then .next (refreshEffect vf q s) else .next s

/-- QTAIL, the doorbell (R415, R416, R429): the control block is refreshed first. -/
def qtailEffect (vf q : BitVec 6) (v : W64) (s : State) : State :=
  let s := if (s.cq vf q).bound then refreshEffect vf q s else s
  s.modCq vf q (fun x => { x with tail := slice v 0 16 })

/-- QTAIL (R415). -/
def execQtail (vf q : BitVec 6) (v : W64) (s : State) : Host.Outcome State Fault Refusal :=
  if isVf vf then .next (qtailEffect vf q v s) else .next s

/-- The slice manager and the front end run: not after a failed boot, which answers only measurements and the set-up slots (R437). -/
def State.managed (s : State) : Bool := decide (s.dev.svc ≠ 3)

/-- Effect of binding a control block to a slot (R416): the queue's registers start anew, and what is left of an earlier binding counts
for it no more (R428); tamper events count from reset. -/
def queueBindEffect (vf q : BitVec 6) (b : BindSpec) (s : State) : State :=
  s.modCq vf q (fun x => { CmdQueue.init with
    bound := true, block := b.block, s2root := b.s2root, prioceil := b.prioceil, slice := b.slice, slot := b.slot
    refreshed := s.gtime, tampers := x.tampers, binding := x.binding + 1 })

/-- QUEUE_BIND (R416). The slice manager does not run after a failed boot (R437). -/
def execQueueBind (vf q : BitVec 6) (b : BindSpec) (s : State) : Host.Outcome State Fault Refusal :=
  if isVf vf && s.managed then .next (queueBindEffect vf q b s) else .next s

/-- AGREED of a function (R436). -/
def State.agreed (s : State) (vf : BitVec 6) : BitVec 16 := s.dev.qver.get 0 vf.toNat

/-- QUEUE_ENABLE (R416, R436): enabling a queue is ignored while its function has agreed no version. -/
def execQueueEnable (vf q : BitVec 6) (en : Bool) (s : State) : Host.Outcome State Fault Refusal :=
  if !isVf vf || !s.managed || (en && (!(s.cq vf q).bound || decide (s.agreed vf = 0))) then .next s
  else .next (s.modCq vf q (fun x => { x with en := en }))

/-! ## Reads and writes of the front end -/

/-- Where the front end's access to a byte of a slice's memory goes; none where translation misses, denies it, or meets an
error, which makes no page request (R421, R425). -/
def State.feLoc (s : State) (sp : Space) (a : W64) (acc : Access) : Option Xlat :=
  if slice a 48 16 ≠ 0#16 then none
  else
    match s.walk sp.slice sp.s1root sp.s2root a.toNat acc with
    | .error _ => none
    | .ok (x, _) =>
      let tag :=
        match s.holder (x.pa / 256) with
        | some (c, q) => (s.row c q).key
        | none => s.keyAt (x.pa / 32)
      if physExists x.pa ∧ tag = x.key then some x else none

/-- Reads a byte for the front end; a frame of a meter region or a poisoned sector is an error. -/
def State.feByte (s : State) (sp : Space) (a : W64) : Option Byte :=
  match s.feLoc sp a .read with
  | none => none
  | some x => if x.region ≠ 0 ∨ (s.sector (x.pa / 32)).2.1 then none else some (BitVec.ofNat 8 (s.physRead x.pa 1))

/-- Reads bytes for the front end. -/
def State.feBytes (s : State) (sp : Space) (a : W64) (n : Nat) : Option (List Byte) :=
  (List.range n).foldr (fun j r =>
    match r, s.feByte sp (a + BitVec.ofNat 64 j) with
    | some l, some b => some (b :: l)
    | _, _ => none) (some [])

/-- Reads a little-endian value for the front end. -/
def State.feRead (s : State) (sp : Space) (a : W64) (n : Nat) : Option Nat := (s.feBytes sp a n).map leNat

/-- The front end's access to bytes of a slice's memory reaches the L2s that hold them, sector by sector, and those of the tables that it
walks (R169); a line that a stash holds is served there (R163). -/
def State.feReach (s : State) (sp : Space) (a : W64) (n : Nat) (acc : Access) : State :=
  (List.range ((a.toNat % 32 + n + 31) / 32)).foldl (fun (s : State) j =>
    match s.feLoc sp ((a &&& ~~~(31#64)) + BitVec.ofNat 64 (32 * j)) acc with
    | none => s
    | some x =>
      let s := s.readTables sp.slice x.seen
      if (s.holder (x.pa / 256)).isSome then s else s.l2request sp.slice x.pa) s

/-- Writes an aligned value for the front end (R425): a denial includes a read-only row and a frame of a meter region. -/
def State.feWrite (s : State) (sp : Space) (a : W64) (n v : Nat) : Option State :=
  match s.feLoc sp a .write with
  | none => none
  | some x =>
    if x.region ≠ 0 ∨ ((s.holder (x.pa / 256)).any (fun h => (roDenied (s.row h.1 h.2) .write).isSome)) then none
    else
      let s := s.feReach sp a n .write
      let s := if x.dirty then s else s.markDirty sp.slice x.leafPa
      some (s.store sp.slice x.pa n v 0)

/-! ## How a launch ends (R424, R425) -/

/-- A launch or instance that ends: the fields its completion needs. -/
structure Ending where
  vf : BitVec 6
  q : BitVec 6
  seq : BitVec 32
  /-- binding of the queue by which it came (R428) -/
  binding : Nat
  regs : Tbl W64
  sp : Space
  status : BitVec 8
  reason : BitVec 8
  /-- completion vector, as the control block gave it at commit (R390) -/
  vector : BitVec 16
  deriving DecidableEq, Repr

/-- MODE.REC and MODE.IRQ (R419). -/
def recOf (regs : Tbl W64) : Bool := (regs.get 0 6).getLsbD 1

/-- The status code without DLATE (R424). -/
def Ending.ok (e : Ending) : Bool := decide (slice e.status 0 7 = 0#7)

/-- Bytes of the completion write, 0 where there is none (R425). -/
def Ending.bytes (e : Ending) : Nat :=
  if e.regs.get 0 22 = 0 then 0 else if recOf e.regs then 16 else if e.ok then 8 else 0

/-- What the completion write stores (R425). -/
def Ending.value (e : Ending) : Nat :=
  let v : BitVec 128 := field (e.regs.get 0 23) 0 |||
    (if recOf e.regs then field e.seq 64 ||| field e.status 96 ||| field e.reason 104 else 0)
  v.toNat

/-- The completion write (R425); none where it is abandoned. One that meets a DMA error is lost (log 26). -/
def State.completion (s : State) (e : Ending) : Option State :=
  let a := e.regs.get 0 22
  if e.bytes = 0 then some s
  else if a.getLsbD 63 then
    some (if s.dmaFails e.vf (slice a 0 63).toNat e.bytes then s else s.hostWrite (slice a 0 63).toNat e.bytes e.value)
  else s.feWrite e.sp a e.bytes e.value

/-- Changes the queue of an ending, where it has not been bound anew since (R428). -/
def State.modOwn (s : State) (e : Ending) (f : CmdQueue → CmdQueue) : State :=
  s.modCq e.vf e.q (fun x => if x.binding = e.binding then f x else x)

/-- The ending of a launch or instance (R425): the completion write, QERR, the interrupt, SEQD. -/
def State.conclude (s : State) (e : Ending) : State :=
  let note (x : CmdQueue) : CmdQueue := if e.ok then x else x.fail e.seq e.status e.reason
  let s :=
    match s.completion e with
    | some t => t.modOwn e note
    | none => s.modOwn e (fun x =>
        let x := note x
        { x with qerr := field (slice x.qerr 48 16 : BitVec 16) 48 ||| field (0x10 : BitVec 8) 40 ||| field e.status 32 |||
            e.seq.setWidth 64 })
  let s := if (e.regs.get 0 6).getLsbD 2 then s.fire e.vf e.vector.toNat else s
  s.modOwn e (fun x => x.finish e.seq s.cycle)

/-- A launch that has not started ends with a status and a reason. -/
def State.endLaunch (s : State) (vf q : BitVec 6) (l : Launch) (status reason : BitVec 8) : State :=
  s.conclude { vf := vf, q := q, seq := l.seq, binding := (s.cq vf q).binding, regs := l.regs, status := status, reason := reason, vector := l.vector
               sp := { slice := (s.cq vf q).slice.toNat, s1root := l.s1root, s2root := l.s2root } }

/-! ## Packets (R417, R418) -/

/-- A packet at the head of a ring. -/
structure Packet where
  kind : BitVec 4
  ent : Nat
  seq : BitVec 32
  gang : BitVec 16
  parts : BitVec 5
  /-- a format error (R418) -/
  bad : Bool
  /-- a DMA error on the ring read (R416) -/
  dma : Bool
  mask : BitVec 32
  values : List W64
  deriving DecidableEq, Repr

/-- A read of ring entry i from the head on meets a DMA error (R416). -/
def State.entryFails (s : State) (vf : BitVec 6) (x : CmdQueue) (i : Nat) : Bool :=
  s.dmaFails vf (x.rbase + 64 * ((x.head.toNat + i) % x.rsize)) 64

/-- Word i of the packet at the head of a queue's ring. -/
def State.packetWord (s : State) (x : CmdQueue) (i : Nat) : W64 :=
  BitVec.ofNat 64 (s.hostRead (x.rbase + 64 * ((x.head.toNat + i / 8) % x.rsize) + 8 * (i % 8)) 8)

/-- Ring entries that the front end has not read. -/
def CmdQueue.waiting (x : CmdQueue) : Nat := (x.tail.toNat + 2 ^ 16 - x.head.toNat) % x.rsize

/-- ENT that a mask requires (R417). -/
def entFor (c : Nat) : Nat := if c ≤ 6 then 0 else (c - 6 + 7) / 8

/-- A packet of which a ring read met a DMA error: nothing of it is known. -/
def Packet.lost : Packet :=
  { kind := 0, ent := 0, seq := 0, gang := 0, parts := 0, bad := false, dma := true, mask := 0, values := [] }

/-- The packet that the front end can commit: the queue is enabled and the ring holds the packet's entries (R416, R417). -/
def State.packet (s : State) (vf q : BitVec 6) : Option Packet :=
  let x := s.cq vf q
  let w0 := s.packetWord x 0
  let w1 := s.packetWord x 1
  let ent := (slice w0 36 2).toNat
  if !x.bound || !x.en || decide (x.waiting = 0) then none
  else if s.entryFails vf x 0 then some Packet.lost
  else if x.waiting < ent + 1 then none
  else if (List.range (ent + 1)).any (fun i => s.entryFails vf x i) then some Packet.lost
  else
    let mask : BitVec 32 := slice w0 0 32
    let c := ((List.range 32).filter (fun n => mask.getLsbD n)).length
    let kind : BitVec 4 := slice w0 32 4
    let n := 8 * (ent + 1)
    some
      { kind := kind, ent := ent, seq := slice w1 0 32, gang := slice w1 32 16, parts := slice w1 48 5, mask := mask
        bad := decide (2 < kind.toNat) || decide (slice mask 27 5 ≠ 0#5) || decide (ent ≠ entFor c) ||
          decide (slice w0 38 26 ≠ 0#26) || decide (slice w1 53 11 ≠ 0#11) ||
          (decide (kind ≠ 2) && decide (slice w1 32 21 ≠ 0#21)) ||
          ((List.range n).drop (2 + c)).any (fun i => decide (s.packetWord x i ≠ 0))
        dma := false
        values := (List.range c).map (fun i => s.packetWord x (2 + i)) }

/-- The shadow registers after a packet's values are merged, in ascending register order (R417, R418). -/
def mergeShadow (mask : BitVec 32) : List Nat → List W64 → Tbl W64 → Tbl W64
  | [], _, t => t
  | n :: ns, vs, t =>
    if mask.getLsbD n then
      match vs with
      | [] => t
      | v :: vs => mergeShadow mask ns vs (t.set 0 n v)
    else mergeShadow mask ns vs t

/-- COMMIT of the packet at QHEAD (R418), or the halt of its queue: a DMA error consumes nothing (R416). -/
def commitEffect (vf q : BitVec 6) (p : Packet) (s : State) : State :=
  s.modCq vf q (fun x =>
    if p.dma then { x with en := false, halted := true, reason := 2 }
    else if p.seq ≠ x.seqc then { x with en := false, halted := true, reason := 1 }
    else
      let y := { x with head := BitVec.ofNat 16 ((x.head.toNat + p.ent + 1) % x.rsize), seqc := x.seqc + 1 }
      if p.bad then (y.fail p.seq 1 1).finish p.seq s.cycle
      else
        let y := { y with shadow := mergeShadow p.mask (List.range 32) p.values x.shadow }
        if p.kind = 1 then y.finish p.seq s.cycle
        else
          { y with launches := y.launches ++
              [{ seq := p.seq, regs := y.shadow, s1root := x.s1root, s2root := x.s2root, vector := BitVec.ofNat 16 x.vector
                 gang := if p.kind = 2 then some (p.gang, p.parts) else none, commit := s.cycle, stage := .committed }] })

/-- LAUNCH (R418): the packet at the head commits; also one whose KIND is reserved, which ends REJECTED, and one that cannot be read. -/
def execLaunch (vf q : BitVec 6) (s : State) : Host.Outcome State Fault Refusal :=
  match s.packet vf q with
  | none => .next s
  | some p => if p.kind = 1 ∨ p.kind = 2 then .next s else .next (commitEffect vf q p s)

/-- UPDATE (R418). -/
def execUpdate (vf q : BitVec 6) (s : State) : Host.Outcome State Fault Refusal :=
  match s.packet vf q with
  | none => .next s
  | some p => if p.kind = 1 then .next (commitEffect vf q p s) else .next s

/-- GANG (R418, R426). -/
def execGang (vf q : BitVec 6) (s : State) : Host.Outcome State Fault Refusal :=
  match s.packet vf q with
  | none => .next s
  | some p => if p.kind = 2 then .next (commitEffect vf q p s) else .next s

/-! ## The panel of a launch (R17, R414, R419) -/

/-- A rectangle on the dies of a mask. -/
structure Geo where
  ox : Nat
  oy : Nat
  lw : Nat
  lh : Nat
  mask : BitVec 8
  deriving DecidableEq, Repr

/-- ORIGIN and SIZE of launch registers (R419). -/
def geoOf (regs : Tbl W64) : Geo :=
  let o := regs.get 0 4
  let z := regs.get 0 5
  { ox := (slice o 0 4).toNat, oy := (slice o 4 4).toNat, lw := (slice z 0 3).toNat, lh := (slice z 4 3).toNat, mask := slice z 8 8 }

/-- Dies of a mask. -/
def Geo.dies (g : Geo) : List Nat := (List.range 8).filter (fun d => g.mask.getLsbD d)

/-- A legal rectangle (R17). -/
def Geo.legal (g : Geo) : Bool :=
  decide (g.lw ≤ 4) && decide (g.lh ≤ 4) && decide (g.ox % 2 ^ g.lw = 0) && decide (g.oy % 2 ^ g.lh = 0) && decide (g.mask ≠ 0)

/-- The cores of a panel (R17). -/
def Geo.cores (g : Geo) : List Nat :=
  (g.dies.map (fun d => ((List.range (2 ^ g.lh)).map (fun y => (List.range (2 ^ g.lw)).map (fun x =>
    256 * d + 16 * (g.oy + y) + g.ox + x))).flatten)).flatten

/-- The panel of an instance. -/
def Inst.geo (i : Inst) : Geo :=
  { ox := i.ox.toNat, oy := i.oy.toNat, lw := i.lw.toNat, lh := i.lh.toNat, mask := i.dmask }

/-- Two panels share a core. -/
def Geo.meets (a b : Geo) : Bool :=
  decide (a.mask &&& b.mask ≠ 0) && decide (a.ox < b.ox + 2 ^ b.lw) && decide (b.ox < a.ox + 2 ^ a.lw) &&
    decide (a.oy < b.oy + 2 ^ b.lh) && decide (b.oy < a.oy + 2 ^ a.lh)

/-- The area of a bind record. -/
def areaOf (r : BitVec 128) : Geo :=
  { ox := (slice r 58 4).toNat, oy := (slice r 62 4).toNat, lw := (slice r 66 3).toNat, lh := (slice r 69 3).toNat
    mask := slice r 72 8 }

/-- A bind record is valid (R414). -/
def bindValid (r : BitVec 128) : Bool := r.getLsbD 0 && { areaOf r with mask := 1 }.legal

/-- Bind record n of a die. -/
def State.bindRec (s : State) (die : Nat) (n : BitVec 8) : BitVec 128 := s.slots.get 0 (256 * die + n.toNat)

/-- A launch's bind records are valid on every die of its mask, and the dies are in service (R420 step 2, R441). -/
def State.bound (s : State) (x : CmdQueue) (l : Launch) : Bool :=
  (geoOf l.regs).dies.all (fun d => bindValid (s.bindRec d x.slot) && s.dev.dies.getLsbD d)

/-- A record names the queue, and the panel lies in its area (R421 check 0x03). -/
def bindNames (r : BitVec 128) (x : CmdQueue) (vf q : BitVec 6) (g : Geo) (die : Nat) : Bool :=
  let a := areaOf r
  decide (slice r 34 5 = x.slice) && decide (slice r 39 6 = vf) && decide (slice r 45 6 = q) && a.mask.getLsbD die &&
    decide (a.ox ≤ g.ox) && decide (g.ox + 2 ^ g.lw ≤ a.ox + 2 ^ a.lw) && decide (a.oy ≤ g.oy) &&
    decide (g.oy + 2 ^ g.lh ≤ a.oy + 2 ^ a.lh)

/-- Instances of a queue that may run at once (R414). -/
def instLimit (r : BitVec 128) : Nat := if slice r 51 4 = 0#4 then 16 else (slice r 51 4).toNat

/-! ## The checks (R421, R410) -/

/-- Reserved bits of launch registers (R419). -/
def fieldsBad (regs : Tbl W64) : Bool :=
  let r (n : Nat) : W64 := regs.get 0 n
  decide (r 4 >>> 8 ≠ 0) || decide (r 5 &&& 0xFFFFFFFFFFFF0088#64 ≠ 0) || decide (r 6 &&& 0xFFFFFFFFFC000008#64 ≠ 0) ||
    decide (r 19 >>> 48 ≠ 0) || decide (r 24 &&& 0x40FFFFFF00000000#64 ≠ 0) || decide (r 25 >>> 3 ≠ 0) || decide (r 26 >>> 48 ≠ 0) ||
    decide ((r 22).toNat % (if recOf regs then 16 else 8) ≠ 0)

/-- Entry lines (R421 check 0x05). -/
def entriesBad (regs : Tbl W64) : Bool :=
  (List.range 4).any (fun n => decide (slice (regs.get 0 n) 48 16 ≠ 0#16) || decide (slice (regs.get 0 n) 0 6 ≠ 0#6))

/-- Physical addresses of the stage-2 leaves of the frames of an image (R410). -/
def State.imageLeaves (s : State) (sp : Space) (base len : W64) : List Nat :=
  (List.range ((base.toNat % 4096 + len.toNat + 4095) / 4096)).filterMap (fun j =>
    match s.walk sp.slice sp.s1root sp.s2root ((base.toNat / 4096 + j) * 4096 % 2 ^ 48) .read with
    | .error _ => none
    | .ok (x, _) => some x.leafPa)

/-- The slice manager removes write permission from the frames of an image (R410): the leaves lose W, and the slice's cached
translations are dropped. -/
def State.protect (s : State) (sp : Space) (leaves : List Nat) : State :=
  let s := leaves.foldl (fun (s : State) a => s.physWrite a 1 (s.physRead a 1 &&& 0xFD) 0) s
  { s with cores := s.cores.foldl (fun (t : Tbl Core) (e : Nat × Core) =>
      t.set Core.init e.1 { e.2 with tlb := e.2.tlb.filter (fun x => decide (x.slice ≠ sp.slice)) }) s.cores }

/-- The current measurement of a descriptor that a token names (R421). -/
def State.measured (s : State) (sl : BitVec 5) (desc : W64) (tok : W64) : Option ImageMeas :=
  s.images.find? (fun m => decide (m.slice = sl) && decide (m.desc = desc) && m.current && decide (m.handle = slice tok 0 16) &&
    decide (m.gen = slice tok 16 32))

/-- The bytes of a descriptor are read at a launch: a measurement that was made of others is current no more (R421). -/
def State.compareBytes (s : State) (sl : BitVec 5) (desc : W64) (d : BitVec 512) : State :=
  { s with images := s.images.map (fun (m : ImageMeas) =>
      if m.slice = sl ∧ m.desc = desc ∧ m.bytes ≠ d then { m with current := false } else m) }

/-- A new measurement of an image (R421): HANDLE is kept or given, GEN counts up, QTOK receives the token. `d` is the descriptor. -/
def State.newMeasure (s : State) (vf q : BitVec 6) (sl : BitVec 5) (desc : W64) (d : BitVec 512) (leaves : List Nat) : State :=
  let old := s.images.find? (fun m => decide (m.slice = sl) && decide (m.desc = desc))
  let n := (s.slices.get Slice.init sl.toNat).handles
  let handle : BitVec 16 := match old with
    | some m => m.handle
    | none => BitVec.ofNat 16 (n + 1)
  let gen : BitVec 32 := match old with
    | some m => m.gen + 1
    | none => 1
  let m : ImageMeas := { slice := sl, desc := desc, handle := handle, gen := gen, digest := slice d 128 256, base := slice d 0 64,
                         len := slice d 64 64, bytes := d, current := true, leaves := leaves }
  let s := { s with
    images := s.images.filter (fun (m : ImageMeas) => !(decide (m.slice = sl) && decide (m.desc = desc))) ++ [m]
    slices := if old.isSome then s.slices else s.slices.upd Slice.init sl.toNat (fun (x : Slice) => { x with handles := x.handles + 1 }) }
  s.modCq vf q (fun x => { x with qtok := field gen 16 ||| field handle 0 })

/-- The image of a launch, checks 0x07, 0x08 and 0x0C (R410, R421): the reason that rejects it, or none, with the state in which its
descriptor has been compared and, where it had to be, the image measured. -/
def State.checkImage (s : State) (vf q : BitVec 6) (sp : Space) (regs : Tbl W64) : Option (BitVec 8) × State :=
  let desc := regs.get 0 18
  let n : BitVec 5 := BitVec.ofNat 5 sp.slice
  let sl := s.slices.get Slice.init sp.slice
  if desc = 0 then (if sl.regions = [] then none else some 7, s)
  else
    match s.feRead sp desc 64 with
    | none => (some 0x0C, s)
    | some d =>
      let d : BitVec 512 := BitVec.ofNat 512 d
      let s := (s.feReach sp desc 64 .read).compareBytes n desc d
      let base : W64 := slice d 0 64
      let len : W64 := slice d 64 64
      let digest : BitVec 256 := slice d 128 256
      let allow := if sl.regions.all (fun r => (s.regions.get Region.init r.toNat).allow.contains digest) then none else some 8
      if (s.measured n desc (regs.get 0 19)).isSome then (allow, s)
      else
        match s.feBytes sp base len.toNat with
        | none => (some 0x0C, s)
        | some bs =>
          let s := s.feReach sp base len.toNat .read
          if Config.sha3 bs ≠ digest then (some 7, s)
          else
            let leaves := s.imageLeaves sp base len
            (allow, (s.protect sp leaves).newMeasure vf q n desc d leaves)

/-- The address space of a queue's launch. -/
def CmdQueue.space (x : CmdQueue) (l : Launch) : Space := { slice := x.slice.toNat, s1root := l.s1root, s2root := l.s2root }

/-- Every granule that a panel touches belongs to a slice (R18). -/
def State.ownsPanel (s : State) (sl : Nat) (g : Geo) : Bool :=
  g.cores.all (fun c => (s.slices.get Slice.init sl).granules.getLsbD (granuleOf c))

/-- Checks 0x02 to 0x08 (R421), in order: the reason that rejects a launch, or none, and the state with the measurement made. -/
def State.checkLaunch (s : State) (vf q : BitVec 6) (l : Launch) : Option (BitVec 8) × State :=
  let x := s.cq vf q
  let g := geoOf l.regs
  if !g.legal then (some 2, s)
  else if !(g.dies.all (fun d => bindNames (s.bindRec d x.slot) x vf q g d)) then (some 3, s)
  else if !s.ownsPanel x.slice.toNat g then (some 4, s)
  else if entriesBad l.regs then (some 5, s)
  else if fieldsBad l.regs then (some 6, s)
  else s.checkImage vf q (x.space l) l.regs

/-! ## Dispatch (R420, R423) -/

/-- The launch at the head of a queue. -/
def CmdQueue.headLaunch (x : CmdQueue) : Option Launch := x.launches.head?

/-- Replaces the launch at the head. -/
def CmdQueue.setHead (x : CmdQueue) (l : Launch) : CmdQueue := { x with launches := l :: x.launches.tail }

/-- DEP is satisfied (R420 step 1), by SEQD as it stood before this cycle (R429). -/
def State.depMet (s : State) (vf : BitVec 6) (regs : Tbl W64) : Bool :=
  let d := regs.get 0 24
  !d.getLsbD 63 || decide (((s.cq vf (slice d 56 6)).seqdAt s.cycle - slice d 0 32 - 1).toNat < 2 ^ 31)

/-- Effective class of a launch (R423). -/
def State.classOf (s : State) (x : CmdQueue) (regs : Tbl W64) : Nat :=
  let g := geoOf regs
  g.dies.foldl (fun m d => min m (slice (s.bindRec d x.slot) 55 3).toNat)
    (min (slice (regs.get 0 25) 0 3).toNat x.prioceil.toNat)

/-- Head launches of all queues, by queue key. -/
def State.heads (s : State) : List (Nat × CmdQueue × Launch) :=
  s.queues.filterMap (fun (e : Nat × CmdQueue) => (e.2.headLaunch).map (fun l => (e.1, e.2, l)))

/-- Instances of a queue that have not ended (R414, R420). -/
def State.running (s : State) (vf q : BitVec 6) : Nat :=
  (s.insts.filter (fun (e : Nat × Inst) => decide (e.2.vf = vf) && decide (e.2.q = q) &&
    (match e.2.status with
      | .ended => false
      | .moved _ _ => false
      | _ => true))).length

/-- The queue may run one more instance. -/
def State.instRoom (s : State) (vf q : BitVec 6) (x : CmdQueue) (l : Launch) : Bool :=
  (geoOf l.regs).dies.all (fun d => decide (s.running vf q < instLimit (s.bindRec d x.slot)))

/-- The class with which a launch waits: for a part of a gang, the lowest of its parts (R426). -/
def State.waitClass (s : State) (x : CmdQueue) (l : Launch) : Nat :=
  match l.gang with
  | none => s.classOf x l.regs
  | some (gid, _) =>
    (s.heads.filter (fun h => decide ((h.2.2.gang.map (fun p => p.1)) = some gid))).foldl
      (fun m h => min m (s.classOf h.2.1 h.2.2.regs)) 8

/-- Function and queue of a queue key. -/
def vfOf (k : Nat) : BitVec 6 × BitVec 6 := (BitVec.ofNat 6 (k / 64), BitVec.ofNat 6 (k % 64))

/-- A core that a launch could take: it runs nothing and no gang has reserved it. -/
def State.coreFree (s : State) (c : Nat) (own : Option (BitVec 16)) : Bool :=
  decide ((s.core c).inst = 0) &&
    s.heads.all (fun h => !(decide (h.2.2.stage = .reserved) && decide (h.2.2.gang.map (fun p => p.1) ≠ own) &&
      (geoOf h.2.2.regs).cores.contains c))

/-- A launch that waits for cores (R423). -/
def Launch.waits (l : Launch) : Bool :=
  match l.stage with
  | .checked _ _ => true
  | .committed => false
  | .reserved => false

/-- Another launch goes before this one at a core of both panels (R423). -/
def State.ahead (s : State) (key : Nat) (x : CmdQueue) (l : Launch) : Bool :=
  s.heads.any (fun h =>
    decide (h.1 ≠ key) && h.2.2.waits && !(l.gang.isSome && decide (h.2.2.gang.map (fun p => p.1) = l.gang.map (fun p => p.1))) &&
      (geoOf h.2.2.regs).meets (geoOf l.regs) && s.instRoom (vfOf h.1).1 (vfOf h.1).2 h.2.1 h.2.2 && s.bound h.2.1 h.2.2 &&
      (decide (s.waitClass x l < s.waitClass h.2.1 h.2.2) ||
        (decide (s.waitClass x l = s.waitClass h.2.1 h.2.2) && decide (h.2.2.commit < l.commit))))

/-- Bytes of a context's area (R400): 64 KiB and 2 MiB for each core, 1.5 MiB for each cluster. -/
def Geo.area (g : Geo) : Nat := g.cores.length * 0x210000 + (g.cores.map clusterOf).eraseDups.length * 0x180000

/-- The areas of some panels fit in the device-owned memory of a slice's granules, beside those of its contexts that are not on the CXL
port's memory (R434) and of its parts of reserved gangs (R386, R400; log 26). -/
def State.areaRoom (s : State) (sl : Nat) (gs : List Geo) : Bool :=
  let insts := s.insts.filter (fun (e : Nat × Inst) => decide (e.2.slice.toNat = sl) && e.2.status.resumes &&
    !(s.saved.get Saved.init e.1).cxl)
  let parts := s.heads.filter (fun h => decide (h.2.2.stage = .reserved) && decide (h.2.1.slice.toNat = sl))
  let all := insts.map (fun e => e.2.geo) ++ parts.map (fun h => geoOf h.2.2.regs) ++ gs
  decide ((all.map Geo.area).sum ≤ 2 ^ 28 * ((List.range 32).filter (fun g => (s.slices.get Slice.init sl).granules.getLsbD g)).length)

/-- R423 gives a launch its cores, its queue has an instance to spare and its context finds an area (R400, R420 step 4); none
starts during a checkpoint (R404). -/
def State.coresGiven (s : State) (key : Nat) (x : CmdQueue) (l : Launch) : Bool :=
  let (vf, q) := vfOf key
  s.instRoom vf q x l && s.bound x l && !s.dev.running &&
    (geoOf l.regs).cores.all (fun c => s.coreFree c (l.gang.map (fun p => p.1))) && s.areaRoom x.slice.toNat [geoOf l.regs] &&
    !s.ahead key x l

/-! ## Set-up (R422) -/

/-- An engine as a launch starts it. -/
def startedCtx (entry : W64) (slack : BitVec 22) : Ctx :=
  if entry = 0 then { Ctx.init with slack := slack }
  else { Ctx.init with slack := slack, pt := mkPt entry 1, run := .running }

/-- A core as a launch starts it: what belongs to the core's memory stays (R159, R164, R167, R370); lines are fetched anew (R51). -/
def Core.launched (k : Core) (n : Nat) (regs : Tbl W64) (trapv : W64) : Core :=
  let slack : BitVec 22 := slice (regs.get 0 6) 4 22
  { Core.init with
    rows := k.rows, tlb := k.tlb, l1 := k.l1, banks := k.banks, inst := n, trapv := trapv
    g := (List.range 8).foldl (fun (t : Tbl W64) i => t.set 0 (i + 1) (regs.get 0 (7 + i))) []
    scu := startedCtx (regs.get 0 0) slack, ve := startedCtx (regs.get 0 1) slack
    ce := startedCtx (regs.get 0 2) slack, mx := startedCtx (regs.get 0 3) slack
    mxs := { MxState.init with seeds := regs.get 0 15, seedm := regs.get 0 16 } }

/-- Takes a core for an instance: its accumulators are cleared through two beats of the array's entry, its tenure ends. -/
def State.takeCore (s : State) (n : Nat) (regs : Tbl W64) (trapv : W64) (c : Nat) : State :=
  let cl := clusterOf c
  let s := if (s.cluster cl).holder = some (BitVec.ofNat 2 (posOf c)) then s.endTenure cl else s
  let s := s.setCluster cl { s.cluster cl with entry := max (s.cluster cl).entry s.cycle + 2 }
  s.setCore c ((s.core c).launched n regs trapv)

/-- Header and entries of a binding list: the cores of an entry (R422 step 1); none where it is not well formed. -/
def bindTargets (g : Geo) (w : W64) : Option (List Nat) :=
  let px := (slice w 32 4).toNat
  let py := (slice w 36 4).toNat
  let die := (slice w 40 3).toNat
  if slice w 13 3 ≠ 0#3 ∨ slice w 43 4 ≠ 0#4 ∨ slice w 48 16 ≠ 0#16 then none
  else if w.getLsbD 47 then (if px = 0 ∧ py = 0 ∧ die = 0 then some g.cores else none)
  else if px < 2 ^ g.lw ∧ py < 2 ^ g.lh ∧ g.mask.getLsbD die then some [256 * die + 16 * (g.oy + py) + g.ox + px]
  else none

/-- One entry of a binding list on one core, as STBIND (R184, R422): PERM gives BINDL, a miss or error FETCH. -/
def State.bindEntry (s : State) (c : Nat) (line w : W64) : Except (BitVec 8) State :=
  let (first, count) := rowRange w
  if s.bindDenied c line first count then .error 9
  else
    (List.range count).foldl (fun (r : Except (BitVec 8) State) k =>
      match r with
      | .error x => .error x
      | .ok s =>
        match s.bindRow c ((first + k) % 8192) (bindLine line k) (w.getLsbD 31) (w.getLsbD 30) with
        | .ok s => .ok s
        | .error (.trap _ _) => .error 9
        | .error (.trapAt _ _ _) => .error 9
        | .error _ => .error 0x0C) (.ok s)

/-- Words of a list in the slice's memory, and the state in which their sectors have been read; reason FETCH where a read fails. -/
def State.feWords (s : State) (sp : Space) (a : W64) (n : Nat) : Except (BitVec 8) (List W64 × State) :=
  match s.feBytes sp a (8 * n) with
  | none => .error 0x0C
  | some bs => .ok ((List.range n).map (fun k => BitVec.ofNat 64 (leNat ((bs.drop (8 * k)).take 8))), s.feReach sp a (8 * n) .read)

/-- Applies the binding list (R422 step 1). -/
def State.applyBinds (s : State) (sp : Space) (g : Geo) (a : W64) : Except (BitVec 8) State :=
  if a = 0 then .ok s
  else
    match s.feWords sp a 2 with
    | .error x => .error x
    | .ok (h, s) =>
      let n := (slice (h.getD 0 0) 0 10).toNat
      if h.getD 0 0 >>> 10 ≠ 0 ∨ h.getD 1 0 ≠ 0 ∨ 512 < n then .error 9
      else
        match s.feWords sp (a + 16) (2 * n) with
        | .error x => .error x
        | .ok (ws, s) =>
          let es := (List.range n).map (fun k => (ws.getD (2 * k) 0, ws.getD (2 * k + 1) 0))
          if es.any (fun e => (bindTargets g e.2).isNone) then .error 9
          else
            es.foldl (fun (r : Except (BitVec 8) State) e =>
              ((bindTargets g e.2).getD []).foldl (fun (r : Except (BitVec 8) State) c =>
                match r with
                | .error x => .error x
                | .ok s => s.bindEntry c e.1 e.2) r) (.ok s)

/-- The grant table of a launch (R321, R422 step 2). -/
def State.readGrants (s : State) (sp : Space) (a : W64) : Except (BitVec 8) (List (BitVec 128) × State) :=
  if a = 0 then .ok ([], s)
  else
    match s.feWords sp a 2 with
    | .error x => .error x
    | .ok (h, s) =>
      let n := (slice (h.getD 0 0) 0 7).toNat
      if h.getD 0 0 >>> 7 ≠ 0 ∨ h.getD 1 0 ≠ 0 ∨ 64 < n then .error 0x0A
      else
        match s.feWords sp (a + 16) (2 * n) with
        | .error x => .error x
        | .ok (ws, s) => .ok ((List.range n).map (fun k => field (ws.getD (2 * k) 0) 0 ||| field (ws.getD (2 * k + 1) 0) 64), s)

/-- The group of a launch's slot 0, with rank 0 (R332, R335). -/
def State.readGroup (s : State) (sp : Space) (i : Inst) (a : W64) : Except (BitVec 8) (Group × State) :=
  if a = 0 then .ok (Group.init, s)
  else if a.toNat % 64 ≠ 0 then .error 0x0B
  else
    match s.feWords sp a 8 with
    | .error x => .error x
    | .ok (ws, s) =>
      let d := ofWords ws
      let mtab : W64 := slice d 0 64
      if groupDescBad d then .error 0x0B
      else if d.groupN = 0 then .ok (Group.init, s)
      else if mtab.toNat % 8 ≠ 0 then .error 0x0B
      else
        match s.feWords sp mtab d.groupN with
        | .error x => .error x
        | .ok (ws, s) =>
          match s.mapTable sp.slice ws with
          | none => .error 0x0B
          | some table =>
            if !s.tableGood i table then .error 0x0B
            else .ok ({ bound := true, gid := slice d 128 32, n := d.groupN, rank := 0, mtab := mtab, table := table, seq := 0 }, s)

/-- Slot 0 of one core: the rank is the place of the core in the table; a core that no entry names stays unbound (R332). -/
def State.slotFor (s : State) (g : Group) (c : Nat) : Group :=
  let r := (g.table.map memberPlace).findIdx (fun p => decide (p = (s.pkg, BitVec.ofNat 11 c)))
  if g.bound ∧ r < g.table.length then { g with rank := r } else Group.init

/-- A context that is of no use here any more: it ended, or it moved away more than 10 ms ago (R403). -/
def Inst.gone (i : Inst) (now : W64) : Bool :=
  match i.status with
  | .ended => true
  | .moved t _ => decide (10000000 ≤ (now - t).toNat)
  | _ => false

/-- Context numbers in use: contexts that have not gone, owners of rows and those the exchange units know (R388). -/
def State.takenCtx (s : State) : List Nat :=
  (s.insts.filter (fun (e : Nat × Inst) => !e.2.gone s.gtime)).map (fun e => e.1) ++
    (s.cores.map (fun (e : Nat × Core) => e.2.rows.map (fun (r : Nat × StashRow) => r.2.owner))).flatten.eraseDups ++
    s.xops.map (fun x => x.ctx)

/-- The number of the next context: 16 bits, the first free one in rotation, never 0 (R388). -/
def State.freeCtx (s : State) : Nat :=
  let taken := s.takenCtx
  (((List.range (taken.length + 1)).map (fun j => (s.nextCtx - 1 + j) % 65535 + 1)).find? (fun n => !taken.contains n)).getD s.nextCtx

/-- DEADLINE of a panel's bind records: that of the lowest die, where its dies' records differ (R414; log 25). -/
def State.deadlineOf (s : State) (x : CmdQueue) (g : Geo) : W64 :=
  ((g.dies.head?).map (fun d => (slice (s.bindRec d x.slot) 96 32 : BitVec 32).setWidth 64)).getD 0

/-- SET-UP AND START of a launch (R422): the new state, or the reason that rejects it; its granules may have gone to another slice since
it was checked (R18). -/
def State.setUp (s : State) (vf q : BitVec 6) (l : Launch) : Except (BitVec 8) State :=
  let x := s.cq vf q
  let g := geoOf l.regs
  let sp := x.space l
  let mode := l.regs.get 0 6
  let desc := l.regs.get 0 18
  let i : Inst :=
    { vf := vf, q := q, seq := l.seq, binding := x.binding, class_ := s.classOf x l.regs, deadline := s.deadlineOf x g
      slice := x.slice, regs := l.regs, s1root := l.s1root, s2root := l.s2root
      ox := BitVec.ofNat 4 g.ox, oy := BitVec.ofNat 4 g.oy, lw := BitVec.ofNat 3 g.lw, lh := BitVec.ofNat 3 g.lh, dmask := g.mask
      static_ := mode.getLsbD 0, freeze := 0, asserted := false, sampled := s.gtime, vector := l.vector, start := s.gtime, dlined := false
      status := .running, fault := none
      image := (s.images.find? (fun m => decide (m.slice = x.slice) && decide (m.desc = desc) && decide (desc ≠ 0))).map
        (fun m => (m.base, m.len))
      migr := 0, restored := 0, stopCycle := 0, stopTime := 0 }
  let n := s.freeCtx
  let trapv := (s.slices.get Slice.init x.slice.toNat).trapv
  let t := { s with insts := s.insts.set Inst.init n i, saved := s.saved.set Saved.init n Saved.init, nextCtx := n % 65535 + 1 }
  let t := g.cores.foldl (fun (t : State) c => t.takeCore n l.regs trapv c) t
  if !s.ownsPanel x.slice.toNat g then .error 4
  else
    match t.applyBinds sp g (l.regs.get 0 17) with
    | .error x => .error x
    | .ok t =>
      match t.readGrants sp (l.regs.get 0 21) with
      | .error x => .error x
      | .ok (gs, t) =>
        match t.readGroup sp i (l.regs.get 0 20) with
        | .error x => .error x
        | .ok (grp, t) =>
          let t := g.cores.foldl (fun (t : State) c => t.modCore c (fun k =>
            { k with grants := gs, groups := k.groups.set Group.init 0 (t.slotFor grp c) })) t
          .ok (t.modCq vf q (fun x => { x with launches := x.launches.filter (fun m => decide (m.seq ≠ l.seq)) }.start l.seq))

/-! ## Gangs (R426) -/

/-- A gang. -/
def State.gangOf (s : State) (gid : BitVec 16) : Gang := s.gangs.get Gang.init gid.toNat

/-- Forgets a gang. -/
def State.dropGang (s : State) (gid : BitVec 16) : State := { s with gangs := s.gangs.set Gang.init gid.toNat Gang.init }

/-- The parts of a gang that have arrived and still head their queues. -/
def State.gangParts (s : State) (gid : BitVec 16) : List (BitVec 6 × BitVec 6 × Launch) :=
  (s.gangOf gid).arrived.filterMap (fun a =>
    match (s.cq a.1 a.2.1).headLaunch with
    | none => none
    | some l => if l.seq = a.2.2 ∧ l.gang.map (fun p => p.1) = some gid then some (a.1, a.2.1, l) else none)

/-- Every part of a gang has arrived. -/
def State.gangFull (s : State) (gid : BitVec 16) : Bool :=
  decide ((s.gangOf gid).arrived ≠ []) && decide ((s.gangParts gid).length = (s.gangOf gid).parts.toNat + 1)

/-- Sets the stage of a gang's parts. -/
def State.stageParts (s : State) (ps : List (BitVec 6 × BitVec 6 × Launch)) (st : LaunchStage) : State :=
  ps.foldl (fun (s : State) p => s.modCq p.1 p.2.1 (fun x => x.setHead { p.2.2 with stage := st })) s

/-- Every part of a gang ends, each with a reason (R426). -/
def State.endParts (s : State) (gid : BitVec 16) (ps : List (BitVec 6 × BitVec 6 × Launch)) (status : BitVec 8)
    (reason : BitVec 6 × BitVec 6 × Launch → BitVec 8) : State :=
  (ps.foldl (fun (s : State) p => s.endLaunch p.1 p.2.1 p.2.2 status (reason p)) s).dropGang gid

/-- All parts are checked once the last has arrived (R426 step 3): the state with measurements made, and each part's own
reason. -/
def State.checkParts (s : State) : List (BitVec 6 × BitVec 6 × Launch) →
    State × List ((BitVec 6 × BitVec 6 × Launch) × BitVec 8)
  | [] => (s, [])
  | p :: r =>
    match s.checkLaunch p.1 p.2.1 p.2.2 with
    | (none, t) => State.checkParts t r
    | (some x, t) => let (u, l) := State.checkParts t r; (u, (p, x) :: l)

/-- A part of a gang arrives (R426). -/
def State.arrive (s : State) (vf q : BitVec 6) (l : Launch) (gid : BitVec 16) (parts : BitVec 5) : State :=
  let g := s.gangOf gid
  if g.arrived ≠ [] ∧ g.parts ≠ parts then s.endLaunch vf q l 1 0x0D
  else
    let g : Gang := { parts := parts, since := if g.arrived = [] then s.gtime else g.since
                      arrived := g.arrived ++ [(vf, q, l.seq)] }
    let s := { s with gangs := s.gangs.set Gang.init gid.toNat g }
    if !s.gangFull gid then s
    else
      let ps := s.gangParts gid
      match s.checkParts ps with
      | (t, []) => t.stageParts ps (.checked t.gtime false)
      | (t, bad) => t.endParts gid ps 1 (fun p => ((bad.find? (fun b => decide (b.1 = p))).map (fun b => b.2)).getD 0x0D)

/-- A launch has arrived in its gang. -/
def State.hasArrived (s : State) (vf q : BitVec 6) (l : Launch) : Bool :=
  match l.gang with
  | none => false
  | some (gid, _) => (s.gangOf gid).arrived.contains (vf, q, l.seq)

/-- The areas of all parts of a gang find room together (R400). -/
def State.gangRoom (s : State) (ps : List (BitVec 6 × BitVec 6 × Launch)) : Bool :=
  ps.all (fun p =>
    let sl := (s.cq p.1 p.2.1).slice
    s.areaRoom sl.toNat ((ps.filter (fun r => decide ((s.cq r.1 r.2.1).slice = sl))).map (fun r => geoOf r.2.2.regs)))

/-- GANG_RESERVE (R426 step 4): all parts are reserved in one step, or none. -/
def State.gangReady (s : State) (gid : BitVec 16) : Bool :=
  let ps := s.gangParts gid
  s.gangFull gid && s.gangRoom ps && ps.all (fun p => p.2.2.waits && s.coresGiven (queueKey p.1 p.2.1) (s.cq p.1 p.2.1) p.2.2) &&
    (List.range ps.length).all (fun i => (List.range i).all (fun j =>
      match ps[i]?, ps[j]? with
      | some a, some b => !(geoOf a.2.2.regs).meets (geoOf b.2.2.regs)
      | _, _ => true))

/-- GANG_RESERVE (R426). -/
def execGangReserve (gid : BitVec 16) (s : State) : Host.Outcome State Fault Refusal :=
  if s.gangReady gid then .next (s.stageParts (s.gangParts gid) .reserved) else .next s

/-- A gang's time is up (R426 step 2). -/
def State.gangLate (s : State) (gid : BitVec 16) : Bool :=
  let g := s.gangOf gid
  decide (g.arrived ≠ []) && !s.gangFull gid && decide (10000000 ≤ (s.gtime - g.since).toNat)

/-- GANGTO (R426). -/
def execGangto (gid : BitVec 16) (s : State) : Host.Outcome State Fault Refusal :=
  if s.gangLate gid then .next (s.endParts gid (s.gangParts gid) 5 (fun _ => 0x0E)) else .next s

/-- All parts of a reserved gang are set up and start together (R426 steps 5 and 6): a rejection of one ends them all. -/
def State.startParts (s : State) : List (BitVec 6 × BitVec 6 × Launch) → Except ((BitVec 6 × BitVec 6 × Launch) × BitVec 8) State
  | [] => .ok s
  | p :: r =>
    match s.setUp p.1 p.2.1 p.2.2 with
    | .error x => .error (p, x)
    | .ok t => State.startParts t r

/-! ## The events of dispatch -/

/-- The head launch can take its next step before cores (R420 steps 1 to 3), or goes back to step 2 (R429). -/
def State.dispatches (s : State) (vf q : BitVec 6) : Option Launch :=
  let x := s.cq vf q
  match x.headLaunch with
  | none => none
  | some l =>
    match l.stage with
    | .committed => if s.depMet vf l.regs ∧ s.bound x l ∧ !s.hasArrived vf q l then some l else none
    | .checked _ _ => if s.bound x l then none else some l
    | .reserved => none

/-- LAUNCH_DISPATCH (R420). -/
def dispatchEffect (vf q : BitVec 6) (l : Launch) (s : State) : State :=
  match l.stage with
  | .checked _ _ | .reserved =>
    let s := match l.gang with
      | none => s
      | some (gid, _) => (s.stageParts (s.gangParts gid) .committed).dropGang gid
    s.modCq vf q (fun x => x.setHead { l with stage := .committed })
  | .committed =>
    match l.gang with
    | some (gid, parts) => s.arrive vf q l gid parts
    | none =>
      match s.checkLaunch vf q l with
      | (some x, t) => t.endLaunch vf q l 1 x
      | (none, t) => t.modCq vf q (fun x => x.setHead { l with stage := .checked s.gtime false })

/-- LAUNCH_DISPATCH (R420). -/
def execLaunchDispatch (vf q : BitVec 6) (s : State) : Host.Outcome State Fault Refusal :=
  match s.dispatches vf q with
  | none => .next s
  | some l => .next (dispatchEffect vf q l s)

/-- A launch's panel lies on granules that its slice has lost since its check (R18). -/
def State.lostPanel (s : State) (vf q : BitVec 6) (l : Launch) : Bool := !s.ownsPanel (s.cq vf q).slice.toNat (geoOf l.regs)

/-- The head launch can be set up now: its cores are given, or its whole gang is reserved and no checkpoint is under way (R404); or it,
or a part of its gang, has lost its granules and is rejected (R18). -/
def State.startable (s : State) (vf q : BitVec 6) : Option Launch :=
  match (s.cq vf q).headLaunch with
  | none => none
  | some l =>
    match l.stage, l.gang with
    | .checked _ _, none => if s.lostPanel vf q l ∨ s.coresGiven (queueKey vf q) (s.cq vf q) l then some l else none
    | .checked _ _, some (gid, _) =>
      if s.gangFull gid ∧ (s.gangParts gid).any (fun p => s.lostPanel p.1 p.2.1 p.2.2) then some l else none
    | .reserved, some (gid, _) =>
      if s.gangFull gid ∧ (s.gangParts gid).all (fun p => decide (p.2.2.stage = .reserved)) ∧ !s.dev.running then some l else none
    | _, _ => none

/-- What starting a launch does (R422, R426). -/
def startEffect (vf q : BitVec 6) (l : Launch) (s : State) : State :=
  match l.gang with
  | none =>
    match s.setUp vf q l with
    | .ok t => t
    | .error x => s.endLaunch vf q l 1 x
  | some (gid, _) =>
    let ps := s.gangParts gid
    if ps.any (fun p => s.lostPanel p.1 p.2.1 p.2.2) then
      s.endParts gid ps 1 (fun p => if s.lostPanel p.1 p.2.1 p.2.2 then 4 else 0x0D)
    else
      match s.startParts ps with
      | .ok t => t.dropGang gid
      | .error (b, x) => s.endParts gid ps 1 (fun p => if p = b then x else 0x0D)

/-- LAUNCH_START (R422). -/
def execLaunchStart (vf q : BitVec 6) (s : State) : Host.Outcome State Fault Refusal :=
  match s.startable vf q with
  | none => .next s
  | some l => .next (startEffect vf q l s)

/-- A launch has waited 10 µs for cores that run instances of lower class (R423). -/
def State.blocked (s : State) (vf q : BitVec 6) : Option Launch :=
  let x := s.cq vf q
  match x.headLaunch with
  | none => none
  | some l =>
    match l.stage with
    | .checked since false =>
      let low (c : Nat) : Bool :=
        let n := (s.core c).inst
        let i := s.instOf c
        decide (n ≠ 0) && decide (i.class_ < s.waitClass x l)
      if 10000 ≤ (s.gtime - since).toNat ∧ (geoOf l.regs).cores.any low then some l else none
    | _ => none

/-- BLOCKED_EVENT (R423): the slice manager is told, once for each launch. -/
def blockedEffect (vf q : BitVec 6) (l : Launch) (s : State) : State :=
  let since : W64 := match l.stage with
    | .checked t _ => t
    | _ => s.gtime
  (s.modCq vf q (fun x => x.setHead { l with stage := .checked since true })).tell (.blocked vf q l.seq)

/-- BLOCKED_EVENT (R423). -/
def execBlockedEvent (vf q : BitVec 6) (s : State) : Host.Outcome State Fault Refusal :=
  match s.blocked vf q with
  | none => .next s
  | some l => .next (blockedEffect vf q l s)

/-- RESET of a queue (R416): launches not yet started end ABORTED, in order; HALTED clears. A gang that loses a part is whole no
more. -/
def resetEffect (vf q : BitVec 6) (s : State) : State :=
  let s := (s.cq vf q).launches.foldl (fun (s : State) l =>
    let s := match l.gang with
      | none => s
      | some (gid, _) =>
        let s := s.stageParts ((s.gangParts gid).filter (fun p => decide (p.2.2.stage ≠ LaunchStage.committed))) .committed
        { s with gangs := s.gangs.upd Gang.init gid.toNat (fun (g : Gang) =>
            { g with arrived := g.arrived.filter (fun a => decide (a ≠ (vf, q, l.seq))) }) }
    s.endLaunch vf q l 4 0) s
  s.modCq vf q (fun x => { x with halted := false, reason := 0 })

/-- RESET (R416): it acts only while the queue is disabled. -/
def execReset (vf q : BitVec 6) (s : State) : Host.Outcome State Fault Refusal :=
  if (s.cq vf q).en then .next s else .next (resetEffect vf q s)

/-! ## Instances end (R424, R425) -/

/-- Every engine of every core of an instance's panel has halted, and no trap is left to handle (R120, R424). -/
def State.allHalted (s : State) (n : Nat) : Bool :=
  s.cores.all (fun (e : Nat × Core) => decide (e.2.inst ≠ n) ||
    ([Engine.scu, .ve, .ce, .mx].all (fun g => decide ((e.2.ctx g).run = .halted)) && e.2.pend.isEmpty && e.2.hand.isNone))

/-- The status with which an instance ends now (R424). -/
def State.endDue (s : State) (n : Nat) : Option (BitVec 8) :=
  match (s.insts.get Inst.init n).status with
  | .running => if n ≠ 0 ∧ s.insts.any (fun (e : Nat × Inst) => decide (e.1 = n)) ∧ s.allHalted n then some 0 else none
  | .ending st => some st
  | _ => none

/-- Ends every copy and collective of a core as CCAN does (R295, R425). -/
def State.cancelAll (s : State) (c : Nat) : State :=
  (List.range 8).foldl (fun (s : State) ch =>
    let ch := BitVec.ofNat 3 ch
    let k := s.core c
    ((k.chan ch).jobs ++ (k.caddy.filter (fun t => decide (t.chan = ch))).map (fun t => t.job)).foldl
      (fun (s : State) j => s.cancelJob c ch j) s) s

/-- What a trap code says of a write-back. -/
def lostFor (code : BitVec 8) : LostCause := if code = 0x12 then .keyConflict else if code = 0x14 then .poisoned else .denied

/-- Why a write-back failed (R425). -/
def MemErr.lost : MemErr → LostCause
  | .miss _ _ _ _ _ | .missAt _ | .later => .miss
  | .trap code _ | .trapAt code _ _ => lostFor code
  | .gone _ => .denied

/-- Writes back a dirty row of an ended context; a write-back that fails is abandoned and reported (R425). -/
def State.writeBackOrReport (s : State) (c q : Nat) : State :=
  let r := s.row c q
  match s.writeBack c q with
  | .ok t => t
  | .error x =>
    (s.setRow c q { r with dirty := 0, filled := false }).tell (.lost (s.insts.get Inst.init r.owner).slice.toNat r.line x.lost)

/-- Writes back every dirty bound row of a context, wherever it is. -/
def State.flushContext (s : State) (n : Nat) : State :=
  s.cores.foldl (fun (s : State) (e : Nat × Core) =>
    e.2.rows.foldl (fun (s : State) (r : Nat × StashRow) =>
      if r.2.owner = n ∧ r.2.bound ∧ r.2.dirty ≠ 0 then s.writeBackOrReport e.1 r.1 else s) s) s

/-- Ends the copies and collectives of a context that is saved, as CCAN does (R425). -/
def State.cancelSaved (s : State) (n : Nat) : State :=
  (s.saved.get Saved.init n).cores.foldl (fun (s : State) (e : Nat × Core) => s.atSaved n e.1 (fun t => t.cancelAll e.1)) s

/-- The cores an instance runs on. -/
def State.coresOf (s : State) (n : Nat) : List Nat :=
  (s.cores.filter (fun (e : Nat × Core) => decide (e.2.inst = n))).map (fun e => e.1)

/-- An engine of an idle core: it has halted, with its registers kept (R120). -/
def Ctx.idled (x : Ctx) : Ctx := { Ctx.init with areg := x.areg, pt := x.pt, mpc := x.mpc, slack := x.slack, lastRec := x.lastRec }

/-- The MX's registers and accumulators, kept in an idle core. -/
def MxState.idled (m : MxState) : MxState :=
  { MxState.init with unfd := m.unfd, seeds := m.seeds, seedm := m.seedm, acc := m.acc, kind0 := m.kind0, kind1 := m.kind1
                      mix0 := m.mix0, mix1 := m.mix1, clsm := m.clsm, tinv := m.tinv, rsat := m.rsat }

/-- A core becomes idle: its engines have halted, registers, flags and queues are kept until a launch or a restore takes it (R120), and
what belongs to its memory stays. -/
def Core.idled (k : Core) : Core :=
  { Core.init with
    g := k.g, p := k.p, scu := k.scu.idled, ve := k.ve.idled, ce := k.ce.idled, mx := k.mx.idled, v := k.v, vp := k.vp, x := k.x
    vflags := k.vflags, flags := k.flags, fovf := k.fovf, stallc := k.stallc, queues := k.queues, qserial := k.qserial, loops := k.loops
    trapv := k.trapv, handled := k.handled, inuse := k.inuse, mxs := k.mxs.idled
    rows := k.rows, tlb := k.tlb, l1 := k.l1, banks := k.banks, icache := k.icache, icorder := k.icorder }

/-- A core is given up: the tenure it held ends with it. -/
def State.giveUp (s : State) (c : Nat) : State :=
  let cl := clusterOf c
  let s := if (s.cluster cl).holder = some (BitVec.ofNat 2 (posOf c)) then s.endTenure cl else s
  s.setCore c (s.core c).idled

/-- What is saved of a context is forgotten (R388, R400). -/
def State.forgetSaved (s : State) (n : Nat) : State :=
  { s with
    saved := s.saved.set Saved.init n Saved.init
    clusters := s.clusters.foldl (fun (t : Tbl Cluster) (e : Nat × Cluster) =>
      t.set Cluster.init e.1 (if e.2.shadow = n then { e.2 with shadow := 0 } else e.2)) s.clusters }

/-- Replies still outstanding to a context's cores are discarded, with what other members sent for group operations that it has not
issued (R425): its messages go on without one who waits for them. -/
def State.disownAll (s : State) (n : Nat) (cs : List Nat) : State :=
  { s with
    waiting := s.waiting.map (fun m => if cs.contains m.core then { m with who := none } else m)
    sent := s.sent.map (fun m => if cs.contains m.core then { m with who := none } else m)
    xops := s.xops.filter (fun x => decide (x.ctx ≠ n) || x.own.isSome) }

/-- An instance ends (R425). -/
def endEffect (n : Nat) (st : BitVec 8) (s : State) : State :=
  let i := s.insts.get Inst.init n
  let cs := s.coresOf n
  let s := if st = 0 then s else ((cs.foldl (fun (s : State) c => s.cancelAll c) s).cancelSaved n).flushContext n
  let s := ((cs.foldl (fun (s : State) c => s.giveUp c) s).forgetSaved n).disownAll n cs
  let dline := slice (i.regs.get 0 26) 0 48
  let late := decide (dline ≠ 0#48) && decide (dline.toNat < (s.gtime - i.start).toNat)
  let s := s.conclude { vf := i.vf, q := i.q, seq := i.seq, binding := i.binding, regs := i.regs, sp := i.space
                        status := if late then st ||| 0x80 else st, reason := 0, vector := i.vector }
  s.modInst n (fun i => { i with status := .ended })

/-- INSTANCE_END (R425). -/
def execInstanceEnd (ctx : Nat) (s : State) : Host.Outcome State Fault Refusal :=
  match s.endDue ctx with
  | none => .next s
  | some st => .next (endEffect ctx st s)

/-- An instance that has not ended. -/
def State.isLive (s : State) (n : Nat) : Bool :=
  s.insts.any (fun (e : Nat × Inst) => decide (e.1 = n) && e.2.status.resumes)

/-- KILLED (R424): the slice manager ends an instance; its cores stop at once (R425). -/
def execKilled (ctx : Nat) (s : State) : Host.Outcome State Fault Refusal :=
  if s.isLive ctx then .next (s.modInst ctx (fun i => { i with status := .ending 3 })) else .next s

/-- DLINE of an instance passes (R424). -/
def State.deadlineDue (s : State) (n : Nat) : Bool :=
  let i := s.insts.get Inst.init n
  let d := slice (i.regs.get 0 26) 0 48
  s.isLive n && !i.dlined && decide (d ≠ 0#48) && decide (d.toNat < (s.gtime - i.start).toNat)

/-- DEADLINE_EVENT (R424). -/
def execDeadlineEvent (ctx : Nat) (s : State) : Host.Outcome State Fault Refusal :=
  if s.deadlineDue ctx then .next ((s.modInst ctx (fun i => { i with dlined := true })).tell (.deadline ctx)) else .next s

end Sys2Proof.Machine
end

