-- ==== Sys2Proof/Machine/Paging.lean ====
section
/-!
DEFINITION. Page requests and their answers (R372 to R375), invalidation (R371), and memory errors (R376).
-/

namespace Sys2Proof.Machine

/-! ## The ring (R373) -/

/-- A page-request block. -/
def State.prqOf (s : State) (vf : BitVec 6) : PrqBlock := s.prq.get PrqBlock.init vf.toNat

/-- Changes a page-request block. -/
def State.modPrq (s : State) (vf : BitVec 6) (f : PrqBlock → PrqBlock) : State :=
  { s with prq := s.prq.set PrqBlock.init vf.toNat (f (s.prqOf vf)) }

/-- A ring's control word opens it (R373, R433): EN, and a size of 4 to 16. -/
def ringOpen (ctl : W64) : Bool := ctl.getLsbD 8 && decide (4 ≤ (slice ctl 0 5).toNat) && decide ((slice ctl 0 5).toNat ≤ 16)

/-- Entries of a ring. -/
def ringSize (ctl : W64) : Nat := 2 ^ (slice ctl 0 5).toNat

/-- Records in a ring. -/
def ringUsed (ctl tail head : W64) : Nat := (tail.toNat + ringSize ctl - head.toNat % ringSize ctl) % ringSize ctl

/-- A ring takes a record: it is open and does not hold 2^k − 1 records. -/
def ringRoom (ctl tail head : W64) : Bool := ringOpen ctl && decide (ringUsed ctl tail head < ringSize ctl - 1)

/-- A record of 32 bytes is written to a ring of the physical function: where, the next tail, and the interrupt. -/
def State.ringWrite (s : State) (base ctl tail head : W64) (vector : Nat) (v : BitVec 256) : State × W64 :=
  let s' := s.hostWrite (base.toNat + 32 * (tail.toNat % ringSize ctl)) 32 v.toNat
  (if ctl.getLsbD 31 ∧ ringUsed ctl tail head = 0 then s'.fire 0 vector else s',
    BitVec.ofNat 64 ((tail.toNat + 1) % ringSize ctl))

/-- The oldest record of a function that waits in the device (R373). -/
def State.nextRecord (s : State) (vf : BitVec 6) : Option (Nat × PageReq) :=
  s.reqs.find? (fun (e : Nat × PageReq) => decide (e.2.vf = vf) && !e.2.written)

/-- Writes the record of a page request (R373). -/
def recordEffect (vf : BitVec 6) (n : Nat) (r : PageReq) (s : State) : State :=
  let b := s.prqOf vf
  let (s, tail) := s.ringWrite b.base b.ctl b.tail b.head (slice b.ctl 16 11).toNat r.rec_
  { (s.modPrq vf (fun b => { b with tail := tail })) with reqs := s.reqs.set PageReq.init n { r with written := true } }

/-- PAGE_REQUEST_RECORD_WRITE (R373). -/
def execPageRequestRecordWrite (vf : BitVec 6) (s : State) : Host.Outcome State Fault Refusal :=
  let b := s.prqOf vf
  match s.nextRecord vf with
  | none => .next s
  | some (n, r) => if ringRoom b.ctl b.tail b.head then .next (recordEffect vf n r s) else .next s

/-- Fields of PRQCTL and EVCTL that a write keeps (R373). -/
def prqctlBits : W64 := 0x87FF011F

/-- PRQCTL (R373). -/
def execPrqctl (vf : BitVec 6) (v : W64) (s : State) : Host.Outcome State Fault Refusal :=
  if isVf vf then .next (s.modPrq vf (fun b => { b with ctl := v &&& prqctlBits })) else .next s

/-- PRSTAT (R373): requests outstanding and ignored replies. -/
def State.prstat (s : State) (vf : BitVec 6) : W64 :=
  field (s.prqOf vf).ignored 32 |||
    field (BitVec.ofNat 16 (s.reqs.filter (fun (e : Nat × PageReq) => decide (e.2.vf = vf) && decide (e.2.reply = none))).length) 0

/-! ## Answers (R374, R375) -/

/-- The answer a request has had. -/
def State.answered (s : State) (r : Nat) : Option Bool := (s.reqs.get PageReq.init r).reply

/-- An operation that waits on an answered request walks again, or traps PERM with XFAIL (R374). -/
def State.answerOp (s : State) (c : Nat) (e : Engine) (o : PendOp) : State :=
  match o.status with
  | .paging r va acc =>
    (match s.answered r with
      | none => s
      | some true => s.modOp c e o.num (fun o => { o with status := .queued })
      | some false => s.opTrap c e o.num 0x11 va (failDetail acc))
  | .queued | .trapped | .departed | .busy _ | .returning => s

/-- Address and ACC of a gather lane's miss: its own, or the fill of its row (R161, R177). -/
def State.laneMiss (s : State) (c : Nat) (o : PendOp) (sh : Bool) (j : Nat) : W64 × Access :=
  let a := laneAddr o sh j
  if isStash a then (((s.row c (stashRow a)).line.setWidth 64) <<< 8, .fill true) else (a, .read)

/-- A gather lane that waits on an answered request: it is free again, or it traps as its instruction does (R177, R374). -/
def State.answerLane (s : State) (c : Nat) (num : Nat) (j : Nat) : State :=
  match ((s.core c).ve).op? num with
  | none => s
  | some o =>
    match o.instr with
    | .vgath _ _ sh _ _ _ =>
      let n := (elem 32 o.val2 j).toNat
      if n = 0 ∨ n = 0xFFFFFFFF then s
      else
        (match s.answered n with
          | none => s
          | some true => s.modOp c .ve num (fun o => { o with val2 := setLaneWait o.val2 j 0 })
          | some false =>
            let t := s.modOp c .ve num (fun o => { o with val2 := setLaneWait o.val2 j 0xFFFFFFFF })
            if o.status = .trapped then t
            else
              let (va, acc) := s.laneMiss c o sh j
              t.opTrap c .ve num 0x11 va (failDetail acc))
    | _ => s

/-- A channel that waits on an answered request goes on from its first byte not landed, or traps (R285, R374); where a CCAN acts in the
cycle the answer is discarded (R300). -/
def State.answerChan (s : State) (c : Nat) (ch : BitVec 3) : State :=
  match ((s.core c).chan ch).park with
  | .paging r va acc =>
    (match (if ((s.core c).chan ch).jobs.head?.any (fun j => s.cancels c ch j.num) then none else s.answered r) with
      | none => s
      | some true => s.modChan c ch (fun x => { x with park := .none_ })
      | some false => s.chanTrap c ch 0x11 va (failDetail acc))
  | .none_ | .trapped => s

/-- Every operation and channel of a core that waits on an answered request acts on it. -/
def State.answerCore (s : State) (c : Nat) : State :=
  let s := [Engine.scu, .ve, .ce, .mx].foldl (fun (s : State) e =>
    ((s.core c).ctx e).ops.foldl (fun (s : State) o => s.answerOp c e o) s) s
  let s := (s.core c).ve.ops.foldl (fun (s : State) o =>
    if o.instr.isGather then (List.range 64).foldl (fun (s : State) j => s.answerLane c o.num j) s else s) s
  (List.range 8).foldl (fun (s : State) ch => s.answerChan c (BitVec.ofNat 3 ch)) s

/-- The outstanding record that a reply word names (R374). -/
def State.outstanding (s : State) (vf : BitVec 6) (w : W64) : Option (Nat × PageReq) :=
  s.reqs.find? (fun (e : Nat × PageReq) => decide (e.2.vf = vf) && decide (e.2.seq = slice w 0 32) && e.2.written &&
    decide (e.2.reply = none))

/-- A reply is ignored and counted (R374). -/
def ignoreReply (vf : BitVec 6) (s : State) : State :=
  s.modPrq vf (fun b => { b with ignored := if b.ignored = 0xFFFF then b.ignored else b.ignored + 1 })

/-- A reply acts on its record (R374): the cores of a running context act at once, a stopped one's after restore (R375). -/
def replyEffect (retry : Bool) (n : Nat) (r : PageReq) (s : State) : State :=
  let s := { s with reqs := s.reqs.set PageReq.init n { r with reply := some retry } }
  s.cores.foldl (fun (s : State) (e : Nat × Core) => s.answerCore e.1) s

/-- A reply word to a record of a slice that has moved: it is passed on to the target (R402); ignored where there is no such record. -/
def passReply (vf : BitVec 6) (w : W64) (retry : Bool) (s : State) : State :=
  let mine (e : Nat × PageReq) : Bool :=
    decide (e.2.vf = vf) && decide (e.2.seq = slice w 0 32) && e.2.written && decide (e.2.reply = none)
  let pass (m : Migrant) : Migrant :=
    { m with reqs := m.reqs.map (fun e => if mine e then (e.1, { e.2 with reply := some retry }) else e) }
  if (s.outbound ++ s.inbound).any (fun m => m.reqs.any mine) then
    { s with outbound := s.outbound.map pass, inbound := s.inbound.map pass }
  else ignoreReply vf s

/-- PRRPLY_RETRY (R374): a reply word with RESULT 0; also one that is ignored because of a reserved bit or RESULT. -/
def execPrrplyRetry (vf : BitVec 6) (w : W64) (s : State) : Host.Outcome State Fault Refusal :=
  if !isVf vf ∨ slice w 32 32 = 1#32 then .next s
  else if slice w 32 32 ≠ 0#32 then .next (ignoreReply vf s)
  else
    match s.outstanding vf w with
    | none => .next (passReply vf w true s)
    | some (n, r) => .next (replyEffect true n r s)

/-- PRRPLY_FAIL (R374): a reply word with RESULT 1. -/
def execPrrplyFail (vf : BitVec 6) (w : W64) (s : State) : Host.Outcome State Fault Refusal :=
  if !isVf vf ∨ slice w 32 32 ≠ 1#32 then .next s
  else
    match s.outstanding vf w with
    | none => .next (passReply vf w false s)
    | some (n, r) => .next (replyEffect false n r s)

/-! ## Invalidation (R371) -/

/-- An invalidation is requested. -/
def State.invalidateLater (s : State) (vf : BitVec 6) (stage2 whole : Bool) : State :=
  s.modPrq vf (fun b => { b with invals := b.invals ++ [{ stage2 := stage2, whole := whole, addr := b.invaddr, len := b.invlen }] })

/-- INVCMD of a stage-1 range (R371, R373). -/
def execInvcmdStage1 (vf : BitVec 6) (s : State) : Host.Outcome State Fault Refusal :=
  if isVf vf then .next (s.invalidateLater vf false false) else .next s

/-- INVCMD of a stage-2 range. -/
def execInvcmdStage2 (vf : BitVec 6) (s : State) : Host.Outcome State Fault Refusal :=
  if isVf vf then .next (s.invalidateLater vf true false) else .next s

/-- INVCMD of the whole slice. -/
def execInvcmdWholeSlice (vf : BitVec 6) (s : State) : Host.Outcome State Fault Refusal :=
  if isVf vf then .next (s.invalidateLater vf false true) else .next s

/-- The slice of a function (R16). -/
def State.sliceOfVf (s : State) (vf : BitVec 6) : Option Nat :=
  (s.slices.find? (fun (p : Nat × Slice) => decide (p.2.vf = vf) && isVf vf)).map (fun p => p.1)

/-- The range of an invalidation meets `n` bytes at an address. -/
def Inval.meets (x : Inval) (a n : Nat) : Bool :=
  x.whole || (decide (a < x.addr.toNat + x.len.toNat) && decide (x.addr.toNat < a + n))

/-- A translation goes through the range of an invalidation: `va` and `n` bytes from there, and the slice addresses met, of
which the first stands for the translated bytes. -/
def Inval.covers (x : Inval) (va n : Nat) (path : List Nat) : Bool :=
  x.whole ||
    (if x.stage2 then
      (match path with
        | [] => false
        | sa :: tables => x.meets sa n || tables.any (fun t => x.meets t 8))
    else x.meets va n)

/-- A row is written back by the translation of its fill and is filled no more (R371 step 3). -/
def State.unfill (s : State) (c q : Nat) : State :=
  let s := s.putBack c q (s.insts.get Inst.init (s.row c q).owner).slice.toNat (s.row c q).pa
  s.setRow c q { s.row c q with filled := false }

/-- A walker-cache entry translates through the range of an invalidation: by what it translates, or by where it stands. -/
def Inval.coversEntry (x : Inval) (e : WalkEntry) : Bool :=
  x.whole ||
    (if x.stage2 then (if e.stage2 then x.meets e.base (2 ^ e.log) else x.meets e.addr 8)
    else !e.stage2 && x.meets e.base (2 ^ e.log))

/-- A merge entry translates through the range of an invalidation: its page, or one that its walk went through. -/
def Inval.coversReq (x : Inval) (r : PageReq) : Bool :=
  x.whole || (if x.stage2 then r.path.any (fun t => x.meets (t / 4096 * 4096) 4096) else x.meets (4096 * r.page) 4096)

/-- What an invalidation drops (R371): TLB entries, walker-cache entries, merge entries, filled rows of the slice. A request that keeps no merge entry
has a page that no address has. -/
def invalEffect (sl : Nat) (x : Inval) (s : State) : State :=
  let s := { s with
    cores := s.cores.foldl (fun (t : Tbl Core) (e : Nat × Core) =>
      t.set Core.init e.1 { e.2 with tlb := e.2.tlb.filter (fun y =>
        !(decide (y.slice = sl) && x.covers y.va (2 ^ y.logsize) y.path)) }) s.cores
    walks := s.walks.map (fun (d : Nat × List WalkEntry) => (d.1, d.2.filter (fun e => !(decide (e.slice = sl) && x.coversEntry e))))
    reqs := s.reqs.foldl (fun (t : Tbl PageReq) (e : Nat × PageReq) =>
      if e.2.slice = sl ∧ x.coversReq e.2 then t.set PageReq.init e.1 { e.2 with page := 2 ^ 36 } else t) s.reqs }
  s.cores.foldl (fun (s : State) (e : Nat × Core) =>
    e.2.rows.foldl (fun (s : State) (r : Nat × StashRow) =>
      if r.2.bound ∧ r.2.filled ∧ (s.insts.get Inst.init r.2.owner).slice.toNat = sl ∧
          x.covers (256 * r.2.line.toNat) 256 r.2.path then s.unfill e.1 r.1 else s) s) s

/-- INVALIDATION_COMPLETE (R371): accesses perform in one step, so none is under way with an old translation. -/
def execInvalidationComplete (vf : BitVec 6) (s : State) : Host.Outcome State Fault Refusal :=
  match (s.prqOf vf).invals with
  | [] => .next s
  | x :: r =>
    let s :=
      match s.sliceOfVf vf with
      | none => s
      | some sl => invalEffect sl x s
    .next (s.modPrq vf (fun b => { b with invals := r, invdone := b.invdone + 1 }))

/-! ## Memory errors (R376) -/

/-- The L1's copy of a sector has an uncorrectable error. -/
def Core.l1Mark (k : Core) (sec : Nat) : Core :=
  if (k.inL1 sec).isNone then k
  else
    { k with l1 := k.l1.set [] (sec / 8 % 128) ((k.l1Set (sec / 8)).map (fun x =>
        if x.line = sec / 8 then { x with bad := x.bad ||| bit true (sec % 8) } else x)) }

/-- UNCORRECTABLE_ERROR (R376): the sector is poisoned where it is stored: in HBM, in the L2, in an L1, in a stash, or in what shadow
storage holds of a context. -/
def errorEffect (loc : ErrLoc) (s : State) : State :=
  match loc with
  | .hbm sec => { s with poison := s.poison.set false sec true }
  | .l2 sec =>
    (match s.dirty.get none sec with
      | some d => if d.l1 = 0 then { s with dirty := s.dirty.set none sec (some { d with poison := true }) } else s.l2Mark sec true
      | none => s.l2Mark sec true)
  | .l1 c sec =>
    (match s.dirty.get none sec with
      | some d =>
        if d.l1 = c + 1 then { s with dirty := s.dirty.set none sec (some { d with poison := true }) }
        else s.modCore c (fun k => k.l1Mark sec)
      | none => s.modCore c (fun k => k.l1Mark sec))
  | .shadow cl n =>
    let ctx := (s.cluster cl).shadow
    if ctx = 0 then s
    else { s with saved := s.saved.upd Saved.init ctx (fun (v : Saved) => { v with bad := v.bad ++ [(cl, n)] }) }
  | .stash c q n => s.setRow c q { s.row c q with poison := (s.row c q).poison ||| bit true (n % 8) }

/-- A place that exists. -/
def locExists (loc : ErrLoc) : Bool :=
  match loc with
  | .hbm sec | .l2 sec => physExists (32 * sec)
  | .l1 c sec => decide (c < 2048) && physExists (32 * sec)
  | .shadow cl n => decide (cl < 512) && decide (n < 49152)
  | .stash c q n => decide (c < 2048) && decide (q < 8192) && decide (n < 8)

/-- UNCORRECTABLE_ERROR (R376). -/
def execUncorrectableError (loc : ErrLoc) (s : State) : Host.Outcome State Fault Refusal :=
  if locExists loc then .next (errorEffect loc s) else .next s

/-- PATROL_SCRUBBING (R376): a correctable error is corrected, which changes no datum, and the management complex counts it. -/
def execPatrolScrubbing (loc : ErrLoc) (s : State) : Host.Outcome State Fault Refusal :=
  if locExists loc then
    .next (({ s with dev := { s.dev with correctable := s.dev.correctable + 1 } } : State).tell (.corrected (s.dev.correctable + 1)))
  else .next s

end Sys2Proof.Machine
end

