-- ==== Sys2Proof/Machine/SliceMgr.lean ====
section
/-!
DEFINITION. What the slice manager does: slices (R387), pre-emption and restore (R392 to R396), migration (R401 to R403), and
metering (R405 to R409).
-/

namespace Sys2Proof.Machine

/-! ## Meter records (R405 to R407) -/

/-- `n` bytes of a value, little-endian. -/
def bytesOf (n v : Nat) : List Byte := (List.range n).map (fun j => BitVec.ofNat 8 (v / 2 ^ (8 * j)))

/-- The version that this module, which has 1.0, and a partner whose highest is given agree on; 0 where they share no major (R435). -/
def agreedFor (high : BitVec 16) : BitVec 16 := if 1 ≤ (slice high 8 8).toNat then 0x0100 else 0

/-- Bytes 0–143 of a record (R406). -/
def MeterRec.head (r : MeterRec) : List Byte :=
  [1, 0, r.reason, 0] ++ bytesOf 2 r.region.toNat ++ [0, 0] ++ bytesOf 32 r.devid.toNat ++ bytesOf 16 r.licid.toNat ++
    bytesOf 4 r.gen.toNat ++ [0, 0, 0, 0] ++ bytesOf 8 r.count.toNat ++ bytesOf 8 r.rseq.toNat ++ bytesOf 8 r.gtime.toNat ++
    bytesOf 8 r.bound.toNat ++ bytesOf 16 r.nonce.toNat ++ bytesOf 32 r.prev.toNat

/-- The record's 2,596 bytes (R406). -/
def MeterRec.bytes (r : MeterRec) : List Byte := r.head ++ bytesOf 32 r.digest.toNat ++ bytesOf 2420 r.sig.toNat

/-- Clusters of every slice that holds a region (R407). -/
def State.regionClusters (s : State) (r : BitVec 12) : Nat :=
  (s.slices.filter (fun (e : Nat × Slice) => e.2.regions.contains r)).foldl (fun n (e : Nat × Slice) =>
    n + 16 * ((List.range 32).filter (fun g => e.2.granules.getLsbD g)).length) 0

/-- BOUND (R407). -/
def State.meterBound (s : State) (r : BitVec 12) : W64 := BitVec.ofNat 64 (384 * s.regionClusters r * 36000000)

/-- Emits a record of a region that shows a count (R406). -/
def State.emitOf (s : State) (reason : BitVec 8) (region : BitVec 12) (count : W64) : State :=
  let x := s.regions.get Region.init region.toNat
  let r : MeterRec :=
    { reason := reason, region := region, devid := Config.deviceId, licid := x.licid, gen := x.gen, count := count
      rseq := x.rseq, gtime := s.gtime, bound := s.meterBound region, nonce := Config.freeValue 128 s.free, prev := x.prev
      digest := 0, sig := 0 }
  let digest := Config.sha3 r.head
  { s with
    records := s.records ++ [{ r with digest := digest, sig := Config.sign (r.head ++ bytesOf 32 digest.toNat) s.free }]
    regions := s.regions.set Region.init region.toNat { x with rseq := x.rseq + 1, prev := digest, last := s.gtime }
    free := s.free + 1 }

/-- Emits a record of a region (R406). -/
def State.emit (s : State) (reason : BitVec 8) (region : BitVec 12) : State :=
  s.emitOf reason region (s.regions.get Region.init region.toNat).count

/-- Emits a record of every region a slice holds. -/
def State.emitAll (s : State) (reason : BitVec 8) (sl : Nat) : State :=
  (s.slices.get Slice.init sl).regions.foldl (fun (s : State) r => s.emit reason r) s

/-- What a slice that migrates hands off of a region: its own share where another slice holds the region too (R411). -/
def State.handedOff (s : State) (sl : Nat) (r : BitVec 12) : W64 :=
  let x := s.regions.get Region.init r.toNat
  if s.slices.any (fun (e : Nat × Slice) => decide (e.1 ≠ sl) && e.2.regions.contains r) then x.shares.get 0 sl else x.count

/-- Emits a MIGRATE_OUT record of every region a slice holds (R408, R411). -/
def State.handOff (s : State) (sl : Nat) : State :=
  (s.slices.get Slice.init sl).regions.foldl (fun (s : State) r => s.emitOf 2 r (s.handedOff sl r)) s

/-- A slice of this number is a new one: it has counted nothing, and awaits no region. -/
def State.newShares (s : State) (sl : Nat) : State :=
  { s with regions := s.regions.map (fun (e : Nat × Region) =>
      (e.1, { e.2 with shares := e.2.shares.set 0 sl 0, awaited := e.2.awaited.filter (fun n => decide (n ≠ sl)) })) }

/-- A context of a slice that holds a region is being pre-empted: its PREEMPT record serves as the periodic one (R411). -/
def State.recordComes (s : State) (r : BitVec 12) : Bool :=
  s.insts.any (fun (e : Nat × Inst) => (s.slices.get Slice.init e.2.slice.toNat).regions.contains r &&
    (match e.2.status with
      | .stopping _ _ => true
      | .running | .saved _ | .parkedOut _ | .moved _ _ | .ending _ | .ended => false))

/-- A periodic record of a region is due (R407), and no PREEMPT record of it is on its way (R411). -/
def State.recordDue (s : State) (r : BitVec 12) : Bool :=
  s.regionHeld r && decide (10000000 ≤ (s.gtime - (s.regions.get Region.init r.toNat).last).toNat) && !s.recordComes r

/-- PERIODIC_METER_RECORD (R407). -/
def execPeriodicMeterRecord (region : BitVec 12) (s : State) : Host.Outcome State Fault Refusal :=
  if s.recordDue region then .next (s.emit 0 region) else .next s

/-- Changes a region. -/
def State.modRegion (s : State) (r : BitVec 12) (f : Region → Region) : State :=
  { s with regions := s.regions.upd Region.init r.toNat f }

/-- A region-open record is accepted (R405, R435): signed by the licensor, of a version this module shares, at most 16 digests. -/
def meterOpens (m : MeterMsg) : Bool :=
  decide (m.region ≠ 0) && m.verified && decide (m.allow.length ≤ 16) && decide (agreedFor m.version ≠ 0)

/-- Sets what a region-open record sets, and emits an OPEN record. -/
def openEffect (m : MeterMsg) (s : State) : State :=
  (s.modRegion m.region (fun x => { x with opened := true, licid := m.licid, gen := m.gen, allow := m.allow })).emit 5 m.region

/-- REGION_OPEN (R405). -/
def execRegionOpen (m : MeterMsg) (s : State) : Host.Outcome State Fault Refusal :=
  if meterOpens m && s.managed then .next (openEffect m s) else .next s

/-- REGION_CLOSE (R407). -/
def execRegionClose (region : BitVec 12) (s : State) : Host.Outcome State Fault Refusal :=
  if (s.regions.get Region.init region.toNat).opened then
    .next ((s.emit 6 region).modRegion region (fun x => { x with opened := false }))
  else .next s

/-- CARRY_IN is accepted (R409): signed by the licensor; a counter never goes backwards (R405). -/
def State.carries (s : State) (m : MeterMsg) : Bool :=
  decide (m.region ≠ 0) && m.verified &&
    decide ((s.regions.get Region.init m.region.toNat).count.toNat ≤ m.count.toNat)

/-- CARRY_IN (R409). -/
def execCarryIn (m : MeterMsg) (s : State) : Host.Outcome State Fault Refusal :=
  if s.carries m && s.managed then .next ((s.modRegion m.region (fun x => { x with count := m.count })).emit 4 m.region) else .next s

/-- A MIGRATE_OUT record is accepted (R408): another module's, with its signature, DEVID and PREV chain (log 12), for a slice that came
by a migration and waits for the region. -/
def State.meterArrives (s : State) (m : MeterMsg) : Bool :=
  decide (m.region ≠ 0) && decide (m.devid ≠ Config.deviceId) && m.verified &&
    (s.regions.get Region.init m.region.toNat).awaited.contains m.slice.toNat

/-- The region opens for the slice, with the record's count added to the module's own (R408); LICID, GEN and the allow list are set by a
region-open record alone (R405). -/
def migrateInEffect (m : MeterMsg) (s : State) : State :=
  (s.modRegion m.region (fun x =>
    { x with opened := true, count := x.count + m.count, awaited := x.awaited.filter (fun n => decide (n ≠ m.slice.toNat)) })).emit 3 m.region

/-- MIGRATE_IN (R408). -/
def execMigrateIn (m : MeterMsg) (s : State) : Host.Outcome State Fault Refusal :=
  if s.meterArrives m && s.managed then .next (migrateInEffect m s) else .next s

/-! ## Slices (R16, R387) -/

/-- First sector and number of sectors of a granule's memory less its device-owned part (R386). -/
def granuleSectors (g : Nat) : Nat × Nat := (g * 2 ^ 30, 2 ^ 30 - 2 ^ 23)

/-- The slice manager scrubs sectors to a key: they read as zero (R368; log 4). -/
def State.scrubRange (s : State) (first count : Nat) (key : BitVec 7) : State :=
  let inside := fun (sec : Nat) => decide (first ≤ sec) && decide (sec < first + count)
  { s.forgetLines (fun l => inside (8 * l)) with
    scrubs := (first, count, key) :: s.scrubs
    hbm := s.hbm.filter (fun c => !inside (c.1 / 32))
    poison := s.poison.filter (fun (e : Nat × Bool) => !inside e.1)
    dirty := s.dirty.filter (fun (e : Nat × Option DirtySector) => !inside e.1) }

/-- Granules of a mask. -/
def granulesOf (m : BitVec 32) : List Nat := (List.range 32).filter (fun g => m.getLsbD g)

/-- A slice that the slice manager may set (R16, R387): each granule, function and key in one slice; a handler that is none or a
point (R422); a weight for each of the 24 bridge ports (R302). A tag stands for a tenancy, which its slices share (log 14). -/
def State.sliceFits (s : State) (n : BitVec 5) (p : SliceSpec) : Bool :=
  decide (p.granules ≠ 0) && isVf p.vf && decide (p.stag ≠ 0) && (decide (p.trapv = 0) || isPoint p.trapv) &&
    decide (p.weights.length = 24) && p.weights.all (fun w => decide (w ≠ 0)) && p.keys.all (fun k => decide (k ≠ 0)) &&
    p.regions.all (fun r => decide (r ≠ 0)) &&
    s.slices.all (fun (e : Nat × Slice) => decide (e.1 = n.toNat) ||
      (decide (e.2.granules &&& p.granules = 0) && decide (e.2.vf ≠ p.vf) && p.keys.all (fun k => !e.2.keys.contains k)))

/-- Contributions that an exchange unit holds for no context yet stand while their core lies in a slice of their tag (R336, R337). -/
def State.dropStray (s : State) : State :=
  { s with xops := s.xops.filter (fun o => decide (o.ctx ≠ 0) || o.contribs.any (fun k => s.admitsAt o.core k.stag)) }

/-- Sets a slice (R387): granules it gains are scrubbed to its first key; a newly bound function numbers its page requests from
0 (R373). The default handler value is set when the slice is created, and stays (R422). -/
def sliceEffect (n : BitVec 5) (p : SliceSpec) (s : State) : State :=
  let old := s.slices.get Slice.init n.toNat
  let s := (granulesOf (p.granules &&& ~~~old.granules)).foldl (fun (s : State) g =>
    s.scrubRange (granuleSectors g).1 (granuleSectors g).2 (p.keys.headD 0)) s
  let s := if old.vf = p.vf then s else s.modPrq p.vf (fun b => { b with next := 0 })
  let new : Slice := { old with
    granules := p.granules, vf := p.vf, stag := p.stag, keys := p.keys, regions := p.regions
    trapv := if old.granules = 0 then p.trapv else old.trapv, s2root := p.s2root, weights := p.weights }
  ({ s with slices := s.slices.set Slice.init n.toNat new } : State).dropStray

/-- SLICE_CREATE (R387). -/
def execSliceCreate (sl : BitVec 5) (p : SliceSpec) (s : State) : Host.Outcome State Fault Refusal :=
  if s.sliceFits sl p && s.managed then .next (sliceEffect sl p s) else .next s

/-! ## Pre-emption (R392 to R395) -/

/-- A context that the slice manager can pre-empt. -/
def State.isRunning (s : State) (n : Nat) : Bool :=
  s.insts.any (fun (e : Nat × Inst) => decide (e.1 = n) && decide (e.2.status = .running))

/-- A context whose stop can still become a freeze. -/
def State.canFreeze (s : State) (n : Nat) : Bool :=
  s.isRunning n ||
    s.insts.any (fun (e : Nat × Inst) => decide (e.1 = n) &&
      (match e.2.status with
        | .stopping false _ => true
        | _ => false))

/-- An engine stops issuing (R393 steps 2 and 3): its wait is abandoned, and its landing buffer stands still, from this cycle on
unless the cycle's groups have issued (`counted`). -/
def Ctx.halt (x : Ctx) (counted : Bool) : Ctx :=
  { (if counted ∧ !x.frozen then x.countDown else x) with wait := none, stuck := false, frozen := true }

/-- Begins a pre-emption (R393 steps 1 to 8). -/
def State.stop (s : State) (n : Nat) (freeze : Bool) (deadline : Option W64) : State :=
  let t := (s.coresOf n).foldl (fun (t : State) c => t.modCore c (fun k =>
    engines.foldl (fun k e => k.modCtx e (fun x => x.halt s.turn.isEmpty)) k)) s
  t.modInst n (fun i => { i with status := .stopping freeze deadline, stopCycle := s.cycle, stopTime := s.gtime })

/-- PREEMPT_STOP (R393). -/
def execPreemptStop (ctx : Nat) (s : State) : Host.Outcome State Fault Refusal :=
  if s.isRunning ctx then .next (s.stop ctx false none) else .next s

/-- PREEMPT_FREEZE (R394). -/
def execPreemptFreeze (ctx : Nat) (s : State) : Host.Outcome State Fault Refusal :=
  if s.canFreeze ctx then .next (s.stop ctx true none) else .next s

/-- PREEMPT_AUTO (R392): the slice manager gives the deadline of the instance's bind record, of which 0 ns means STOP (R414). -/
def execPreemptAuto (ctx : Nat) (deadline : W64) (s : State) : Host.Outcome State Fault Refusal :=
  if s.isRunning ctx && decide (deadline = (s.insts.get Inst.init ctx).deadline) then
    .next (s.stop ctx false (if deadline = 0 then none else some (s.gtime + deadline)))
  else .next s

/-- A begun command of a core that still has something to do by itself: not one that a page request or trap holds, nor an MRDX
whose queue is full (R394). -/
def Core.arrayBusy (k : Core) : Bool :=
  k.mx.ops.any (fun o => k.begun o &&
    (match o.status with
      | .busy _ | .queued =>
        (match o.instr with
          | .mrdx _ q _ => decide ((k.queue q).slots.length < 8) || (k.queue q).closed
          | _ => true)
      | .paging _ _ _ | .trapped | .departed | .returning => false))

/-- The cores of a context are halted (R393 step 9), and by FREEZE. -/
def State.halted (s : State) (n : Nat) : Option Bool :=
  let landed := (s.coresOf n).all (fun c => engines.all (fun e => ((s.core c).ctx e).returns.isEmpty))
  match (s.insts.get Inst.init n).status with
  | .stopping true _ => if landed then some true else none
  | .stopping false _ => if landed && (s.coresOf n).all (fun c => !(s.core c).arrayBusy) then some false else none
  | _ => none

/-- AUTO's deadline passes before the cores are halted (R392, R411). -/
def State.autoDue (s : State) (n : Nat) : Bool :=
  match (s.insts.get Inst.init n).status with
  | .stopping false (some d) => decide (d.toNat ≤ s.gtime.toNat) && (s.halted n).isNone
  | _ => false

/-- AUTO_DEADLINE (R392). -/
def execAutoDeadline (ctx : Nat) (s : State) : Host.Outcome State Fault Refusal :=
  if s.autoDue ctx then .next (s.stop ctx true none) else .next s

/-- An engine as it is saved: loop buffers refill, waits begin anew (R393 step 2, R396). -/
def Ctx.saved (x : Ctx) : Ctx := { x with lbuf := [], fresh := false, wait := none, stuck := false, landed := [] }

/-- An operation whose times are all a number of cycles later. -/
def PendOp.later (o : PendOp) (d : Nat) : PendOp :=
  { o with
    issued := o.issued + d
    status := match o.status with
      | .busy u => .busy (u + d)
      | .queued => .queued
      | .paging r a x => .paging r a x
      | .trapped => .trapped
      | .departed => .departed
      | .returning => .returning }

/-- The times of begun array commands a number of cycles later, as a FREEZE leaves them (R394). -/
def Core.arrayLater (k : Core) (d : Nat) : Core :=
  let up (n : Nat) : Nat := if n = 0 then 0 else n + d
  { k with
    mx := { k.mx with ops := k.mx.ops.map (fun (o : PendOp) => if k.begun o then o.later d else o) }
    mxs := { k.mxs with
      last0 := up k.mxs.last0, last1 := up k.mxs.last1, began := up k.mxs.began
      flights := k.mxs.flights.map (fun (f : Flight) => { f with start := f.start + d }) } }

/-- A core all of whose times are a number of cycles later: it goes on after a restore where it was saved (R396). -/
def Core.later (k : Core) (d : Nat) : Core :=
  let ctx (x : Ctx) : Ctx := { x with ops := x.ops.map (fun (o : PendOp) => o.later d) }
  let tile (t : Tile) : Tile := { t with from_ := t.from_ + d }
  let up (n : Nat) : Nat := if n = 0 then 0 else n + d
  { k with
    scu := ctx k.scu, ve := ctx k.ve, ce := ctx k.ce, mx := ctx k.mx
    mxs := { k.mxs with
      fifoA := k.mxs.fifoA.map tile, fifoB := k.mxs.fifoB.map tile, freeA := k.mxs.freeA + d, freeB := k.mxs.freeB + d
      last0 := up k.mxs.last0, last1 := up k.mxs.last1, began := up k.mxs.began
      flights := k.mxs.flights.map (fun (f : Flight) => { f with start := f.start + d }) } }

/-- What is saved of a core (R397, R399): everything but its memories, which stay (R164, R167). -/
def Core.image (k : Core) : Core :=
  { k with rows := [], tlb := [], icache := [], icorder := [], l1 := [], banks := [], bankWaits := [], latched := [], chanSeen := [], moved := []
           scu := k.scu.saved, ve := k.ve.saved, ce := k.ce.saved, mx := k.mx.saved }

/-- A message of a core's operation or channel that has not left is taken back: what it stands for departs anew after the restore
(log 20). -/
def State.takeBack (s : State) (c : Nat) (m : Msg) : State :=
  match m.who, m.body with
  | some (.op e num), _ =>
    s.modOp c e num (fun o => if m.vc = 2 then { o with mask := 0 } else { o with status := .queued, pkg := none })
  | some (.chan n), .part k =>
    s.modJob c (BitVec.ofNat 3 n) (fun j =>
      { j with told := j.told.filter (fun p => decide ((j.grp.table[p]?).map memberPlace ≠ some (m.dpkg, k.dest))) })
  | some (.chan n), _ => s.modJob c (BitVec.ofNat 3 n) Job.unasked
  | some (.fetch _), _ => s
  | some (.far _ _), _ => s
  | none, _ => s

/-- The messages that wait at the bridge stations for a core's operations and channels are taken back; one of which slots have left
goes on, also where it is sent again (R305). -/
def State.recall (s : State) (c : Nat) : State :=
  let own (m : Msg) : Bool := m.who.isSome && decide (m.core = c)
  let t := (s.waiting.filter (fun m => own m && !m.numbered)).foldl (fun s m => s.takeBack c m) s
  { t with waiting := t.waiting.filterMap (fun m =>
      if own m then (if m.numbered then some { m with who := none } else none) else some m) }

/-- The clusters of a list of cores. -/
def clustersOf (cs : List Nat) : List Nat := (cs.map clusterOf).eraseDups

/-- The shadow storage of every cluster of a context is free for it (R388). -/
def State.shadowFree (s : State) (n : Nat) : Bool :=
  (clustersOf (s.coresOf n)).all (fun cl => decide ((s.cluster cl).shadow = 0) || decide ((s.cluster cl).shadow = n))

/-- A core's fixed part goes to the shadow storage of its cluster, and the core is idle (R395); tenure and formed tiles end
(R394). -/
def State.saveCore (s : State) (n c : Nat) : State :=
  let s := s.recall c
  let k := s.core c
  let cl := clusterOf c
  let sv := s.saved.get Saved.init n
  let i := s.insts.get Inst.init n
  let k' :=
    match i.status with
    | .stopping true _ => k.arrayLater (s.cycle - i.stopCycle)
    | .stopping false _ | .running | .saved _ | .parkedOut _ | .moved _ _ | .ending _ | .ended => k
  let s := { s with saved := s.saved.set Saved.init n { sv with cores := sv.cores.set Core.init c k'.image, cycle := s.cycle } }
  let x := s.cluster cl
  (s.setCluster cl { x with shadow := n, formed := x.formed.filter (fun f => decide (f.pos ≠ posOf c)) }).giveUp c

/-- A context is swapped out (R395), and a record of every region its slice holds is emitted (R393 step 10). -/
def swapEffect (n : Nat) (freeze : Bool) (s : State) : State :=
  let s := (s.coresOf n).foldl (fun (s : State) c => s.saveCore n c) s
  (s.modInst n (fun i => { i with status := .saved freeze })).emitAll 1 (s.insts.get Inst.init n).slice.toNat

/-- CONTEXT_SWAP_OUT (R395). -/
def execContextSwapOut (ctx : Nat) (s : State) : Host.Outcome State Fault Refusal :=
  match s.halted ctx with
  | none => .next s
  | some f => if s.shadowFree ctx then .next (swapEffect ctx f s) else .next s

/-- A cluster's saved context moves to its context area (R388): it is parked out once no shadow storage holds any of it. -/
def parkEffect (cl : Nat) (s : State) : State :=
  let n := (s.cluster cl).shadow
  let s := s.setCluster cl { s.cluster cl with shadow := 0 }
  if s.clusters.any (fun (e : Nat × Cluster) => decide (e.2.shadow = n)) then s
  else
    match (s.insts.get Inst.init n).status with
    | .saved f => s.modInst n (fun i => { i with status := .parkedOut f })
    | _ => s

/-- CONTEXT_PARK_OUT (R388). -/
def execContextParkOut (cluster : Nat) (s : State) : Host.Outcome State Fault Refusal :=
  match (s.insts.get Inst.init (s.cluster cluster).shadow).status with
  | .saved _ => if (s.cluster cluster).shadow = 0 then .next s else .next (parkEffect cluster s)
  | _ => .next s

/-! ## Restore (R396) -/

/-- The core of the new panel at the place of a core of the old one. -/
def movedCore (i : Inst) (ox oy : BitVec 4) (c : Nat) : Nat :=
  256 * (c / 256) + 16 * (c % 256 / 16 - i.oy.toNat + oy.toNat) + (c % 16 - i.ox.toNat + ox.toNat)

/-- A slice that came by a migration waits for the meter hand-off of a region it holds (R401 step 4, R408). -/
def State.awaitsMeter (s : State) (sl : Nat) : Bool :=
  s.awaitsRegion sl (s.slices.get Slice.init sl).regions

/-- A context can be restored to a panel (R396): saved, and not struck by an uncorrectable error there (R376), the panel legal, its
granules of the slice, its cores idle, and the regions of its slice open for it (R401, R408). -/
def State.restorable (s : State) (n : Nat) (ox oy : BitVec 4) : Bool :=
  let i := s.insts.get Inst.init n
  let g := { i.geo with ox := ox.toNat, oy := oy.toNat }
  (match i.status with
    | .saved _ => true
    | .parkedOut _ => true
    | _ => false) && (s.saved.get Saved.init n).bad.isEmpty && !s.awaitsMeter i.slice.toNat && g.legal && s.ownsPanel i.slice.toNat g &&
    g.cores.all (fun c => s.coreFree c none)

/-- Renames the cores of this package in a member table (R396 step 4). -/
def renameTable (pkg : BitVec 21) (f : Nat → Nat) (table : List W64) : List W64 :=
  table.map (fun w => if (memberPlace w).1 = pkg then (w &&& ~~~(0x7FF#64 <<< 32)) ||| field (BitVec.ofNat 11 (f (memberPlace w).2.toNat)) 32
    else w)

/-- Renames the cores of a group operation at the exchange units (R355). -/
def XOp.rename (x : XOp) (pkg : BitVec 21) (f : Nat → Nat) : XOp :=
  let one (k : Contribution) : Contribution :=
    { k with core := if k.pkg = pkg then BitVec.ofNat 11 (f k.core.toNat) else k.core, dest := BitVec.ofNat 11 (f k.dest.toNat)
             table := renameTable pkg f k.table }
  { x with core := f x.core, own := x.own.map one, contribs := x.contribs.map one, answers := x.answers.map one }

/-- Renames the cores that a job names. -/
def Job.rename (j : Job) (pkg : BitVec 21) (f : Nat → Nat) : Job :=
  { j with grp := { j.grp with table := renameTable pkg f j.grp.table }, recv := j.recv.map (fun r => { r with core := f r.core }) }

/-- Renames the cores that a saved core names: its group slots and jobs (R396 step 4). -/
def Core.rename (k : Core) (pkg : BitVec 21) (f : Nat → Nat) : Core :=
  { k with
    groups := k.groups.foldl (fun (t : Tbl Group) (e : Nat × Group) =>
      t.set Group.init e.1 { e.2 with table := renameTable pkg f e.2.table }) k.groups
    chans := k.chans.foldl (fun (t : Tbl Channel) (e : Nat × Channel) =>
      t.set Channel.init e.1 { e.2 with jobs := e.2.jobs.map (fun j => j.rename pkg f) }) k.chans
    caddy := k.caddy.map (fun x => { x with job := x.job.rename pkg f }) }

/-- A row is claimed for the context a core runs (R164); a write-back that fails is reported. -/
def State.claimFor (s : State) (c q : Nat) : State :=
  match s.claim c q with
  | .ok t => t
  | .error _ =>
    match (s.writeBackOrReport c q).claim c q with
    | .ok t => t
    | .error _ => s

/-- A row of the context moves from its old core to the new one (R396): a bound row is written back and refills on touch, a
scratch row is copied. A bound row whose write-back meets a fault moves with its data. -/
def State.moveRow (s : State) (c d q : Nat) : State :=
  let (s, r) :=
    match s.writeBack c q with
    | .ok t => (t, if (s.row c q).bound then { s.row c q with filled := false, dirty := 0, region := 0, poison := 0 } else s.row c q)
    | .error _ => (s, s.row c q)
  ((s.setRow c q StashRow.init).claimFor d q).setRow d q r

/-- The rows of a core that a context owns. -/
def State.ownRows (s : State) (n c : Nat) : List Nat :=
  ((s.core c).rows.filter (fun (e : Nat × StashRow) => decide (e.2.owner = n))).map (fun e => e.1)

/-- A cluster's paths that the frozen commands of a restored core go on using (R229, R394). -/
def Cluster.resume (x : Cluster) (now : Nat) (k : Core) : Cluster :=
  let x := k.mxs.flights.foldl (fun (x : Cluster) (f : Flight) =>
    if f.cmd.instr.drains then x else { x with entry := max x.entry ((x.take f.start f.cmd.instr).entry) }) x
  (k.mx.ops.filter (fun o => k.begun o && o.instr.drains)).foldl (fun (x : Cluster) (o : PendOp) =>
    { x with drain := max x.drain (now + o.rowsLeft) }) x

/-- A restored core: its image over the memories that stay there; a landing buffer counts again from its engine's first group (R86). -/
def State.loadCore (s : State) (n c : Nat) (k : Core) : State :=
  let k := engines.foldl (fun k e => if k.parked e then k else k.modCtx e (fun x => { x with frozen := true }.thaw)) k
  let k := k.modCtx .mx (fun x => { x with ops := x.ops.map (fun o =>
    if k.begun o ∧ o.instr.drains then { o with first := s.cycle + o.rowsLeft } else o) })
  let s := s.modCore c (fun old =>
    { k with
      rows := old.rows, tlb := old.tlb, l1 := old.l1, banks := old.banks, icache := old.icache, icorder := old.icorder, inst := n })
  s.setCluster (clusterOf c) ((s.cluster (clusterOf c)).resume s.cycle k)

/-- A RESTORE (R396): swap in, moved rows, saved scratch rows, renamed groups; replies that came meanwhile act (R375); the leases
arbitrate anew with h = 3. -/
def restoreEffect (n : Nat) (ox oy : BitVec 4) (s : State) : State :=
  let i := s.insts.get Inst.init n
  let sv := s.saved.get Saved.init n
  let f := movedCore i ox oy
  let mine (c : Nat) : Bool := i.geo.cores.contains c
  let g (c : Nat) : Nat := if mine c then f c else c
  let s := s.modInst n (fun i => { i with ox := ox, oy := oy, status := .running, restored := s.gtime, sampled := s.gtime, asserted := false })
  let s := sv.cores.foldl (fun (s : State) (e : Nat × Core) => s.loadCore n (f e.1) ((e.2.rename s.pkg g).later (s.cycle - sv.cycle))) s
  let s :=
    if i.ox = ox ∧ i.oy = oy then s
    else sv.cores.foldl (fun (s : State) (e : Nat × Core) =>
      (s.ownRows n e.1).foldl (fun (s : State) q => s.moveRow e.1 (f e.1) q) s) s
  let s := sv.rows.foldl (fun (s : State) r => (s.claimFor (f r.1) r.2.1).setRow (f r.1) r.2.1 r.2.2) s
  let s := { s with xops := s.xops.map (fun (x : XOp) => if x.ctx = n then x.rename s.pkg g else x) }
  let cs := sv.cores.map (fun e => f e.1)
  let s := (clustersOf cs).foldl (fun (s : State) cl => s.setCluster cl { s.cluster cl with h := 3 }) (s.forgetSaved n)
  cs.foldl (fun (s : State) c => s.answerCore c) s

/-- RESTORE (R396). -/
def execRestore (ctx : Nat) (ox oy : BitVec 4) (s : State) : Host.Outcome State Fault Refusal :=
  if !s.dev.running && s.restorable ctx ox oy then .next (restoreEffect ctx ox oy s) else .next s

/-! ## Migration (R401 to R403, R408) -/

/-- Contexts of a slice that have not ended. -/
def State.contextsOf (s : State) (sl : Nat) : List Nat :=
  (s.insts.filter (fun (e : Nat × Inst) => decide (e.2.slice.toNat = sl) && e.2.status.resumes)).map (fun e => e.1)

/-- A row as it moves to another package: a bound one is not filled (R401 step 3). -/
def StashRow.movedOut (r : StashRow) : StashRow :=
  if r.bound then { r with filled := false, dirty := 0, region := 0, poison := 0 } else r

/-- A context that has not been swapped out: its pre-emption has not been recorded yet (R407). -/
def State.unsaved (s : State) (n : Nat) : Bool :=
  match (s.insts.get Inst.init n).status with
  | .running => true
  | .stopping _ _ => true
  | .saved _ | .parkedOut _ | .moved _ _ | .ending _ | .ended => false

/-- A context leaves with its slice: it stops under FREEZE where it still runs, with its PREEMPT records (R407), its dirty rows are
written back, and its rows move; its image stays here for replies that come late (R401, R403). -/
def State.moveOut (s : State) (target : BitVec 21) (n : Nat) : State :=
  let s := if s.unsaved n then s.emitAll 1 (s.insts.get Inst.init n).slice.toNat else s
  let s := if s.canFreeze n then s.stop n true none else s
  let s := ((s.coresOf n).foldl (fun (s : State) c => s.saveCore n c) s).flushContext n
  let rows := (s.cores.map (fun (e : Nat × Core) => (s.ownRows n e.1).map (fun q => (e.1, q, (s.row e.1 q).movedOut)))).flatten
  let s := { s with cores := s.cores.foldl (fun (t : Tbl Core) (e : Nat × Core) =>
    t.set Core.init e.1 { e.2 with rows := e.2.rows.filter (fun (r : Nat × StashRow) => decide (r.2.owner ≠ n)) }) s.cores }
  let sv := s.saved.get Saved.init n
  let s := s.forgetSaved n
  { s.modInst n (fun i => { i with status := .moved s.gtime target }) with
    saved := s.saved.set Saved.init n { sv with rows := sv.rows ++ rows } }

/-- The dirty sectors of some granules are written to HBM. -/
def State.flushGranules (s : State) (gs : List Nat) : State :=
  s.dirty.foldl (fun (s : State) (e : Nat × Option DirtySector) => if gs.contains (e.1 / 2 ^ 30) then s.flushDirty e.1 else s) s

/-- A stage-2 leaf that is marked dirty (R367): its place, the slice address that it maps, its frame and log2 of the frame's size. -/
structure DirtyLeaf where
  at_ : Nat
  sa : Nat
  frame : Nat
  log : Nat
  deriving DecidableEq, Repr

/-- The leaves marked dirty that a table leads to; `sa` is the slice address from which it maps (R364, R365). -/
def State.dirtyFrom (s : State) : List Nat → Nat → Nat → Bool → List DirtyLeaf
  | [], _, _, _ => []
  | level :: rest, t, sa, coarse =>
    ((List.range (if coarse then 32 else 512)).map (fun n =>
      let e : W64 := BitVec.ofNat 64 (s.physRead (t + 8 * n) 8)
      let sa := sa + n * 2 ^ entryLog level coarse
      if entryForm e = 0 ∨ malformed true level coarse e then []
      else if entryForm e = 2 then
        (if e.getLsbD 2 then [{ at_ := t + 8 * n, sa := sa, frame := entryOA e, log := leafLog level coarse : DirtyLeaf }] else [])
      else State.dirtyFrom s rest (entryOA e) sa (entryForm e = 3))).flatten

/-- The leaves of a slice that are marked dirty. -/
def State.dirtyLeaves (s : State) (sl : BitVec 5) : List DirtyLeaf :=
  s.dirtyFrom [0, 1, 2, 3] (s.slices.get Slice.init sl.toNat).s2root.toNat 0 false

/-- D of a leaf is cleared by a rewrite and an invalidation (R367, R371, R401 step 1). -/
def State.cleanLeaf (s : State) (sl : BitVec 5) (l : DirtyLeaf) : State :=
  invalEffect sl.toNat { stage2 := true, whole := false, addr := BitVec.ofNat 64 l.sa, len := BitVec.ofNat 64 (2 ^ l.log) }
    (s.physWrite l.at_ 1 (s.physRead l.at_ 1 &&& 0xFB) 0)

/-- The dirty sectors of a frame are written to HBM. -/
def State.flushFrame (s : State) (frame log : Nat) : State :=
  s.dirty.foldl (fun (s : State) (e : Nat × Option DirtySector) => if 32 * e.1 / 2 ^ log = frame / 2 ^ log then s.flushDirty e.1 else s) s

/-- A frame goes to the slice's target, in place of what went there before. -/
def State.copyFrame (s : State) (sl : BitVec 5) (l : DirtyLeaf) : State :=
  let s := s.flushFrame l.frame l.log
  let x : CopiedFrame := { base := l.frame, size := 2 ^ l.log, cells := s.hbm.filter (fun c => decide (c.1 / 2 ^ l.log = l.frame / 2 ^ l.log)) }
  { s with copied := s.copied.upd [] sl.toNat (fun (fs : List CopiedFrame) => fs.filter (fun f => decide (f.base ≠ x.base)) ++ [x]) }

/-- A round of the pre-copy (R401 step 1): the dirty leaves are cleared, and their frames copied, while the slice runs. -/
def precopyEffect (sl : BitVec 5) (s : State) : State :=
  let ls := s.dirtyLeaves sl
  ls.foldl (fun (s : State) l => s.copyFrame sl l) (ls.foldl (fun (s : State) l => s.cleanLeaf sl l) s)

/-- The bytes of memory that a slice's target has at the move: those of frames that a pre-copy brought and that are not dirty again as
it brought them, all others as they stand (R401 step 2). -/
def State.movedCells (s : State) (sl : BitVec 5) : List Host.Cell :=
  let dirty := (s.dirtyLeaves sl).map (fun l => l.frame)
  let kept := (s.copied.get [] sl.toNat).filter (fun f => !dirty.contains f.base)
  s.hbm.filter (fun c => !kept.any (fun f => decide (f.base ≤ c.1) && decide (c.1 < f.base + f.size))) ++
    (kept.map (fun f => f.cells)).flatten

/-- Contributions for a core of a slice that no context has taken yet (R336) belong to the slice. -/
def State.heldIn (s : State) (sl : Nat) (o : XOp) : Bool :=
  decide (o.ctx = 0) && (s.slices.get Slice.init sl).granules.getLsbD (granuleOf o.core)

/-- A slice as it moves to another package, once its contexts have stopped and its frames are in HBM (R401 to R403). -/
def State.pack (s : State) (sl : BitVec 5) (target : BitVec 21) (ns : List Nat) : Migrant :=
  let x := s.slices.get Slice.init sl.toNat
  let gs := granulesOf x.granules
  let place (n unit : Nat) : Option Nat :=
    if gs.contains (n / unit) then some (gs.findIdx (fun g => decide (g = n / unit)) * unit + n % unit) else none
  { slice := sl.toNat, to_ := target, stag := x.stag
    insts := ns.map (fun n => (n, s.insts.get Inst.init n, s.saved.get Saved.init n))
    reqs := s.reqs.filter (fun (e : Nat × PageReq) => decide (e.2.slice = sl.toNat)), next := (s.prqOf x.vf).next
    xops := s.xops.filter (fun o => ns.contains o.ctx || s.heldIn sl.toNat o), granules := gs
    cells := (s.movedCells sl).filterMap (fun c => (place c.1 (2 ^ 35)).map (fun a => (a, c.2)))
    scrubs := s.scrubs.filterMap (fun r => (place r.1 (2 ^ 30)).map (fun a => (a, r.2.1, r.2.2)))
    poison := s.poison.filterMap (fun (e : Nat × Bool) => (place e.1 (2 ^ 30)).map (fun a => (a, e.2))) }

/-- MIGRATION of a slice to another package (R401): its contexts and what belongs to it move, with a meter hand-off (R408), and its place
here is free. -/
def migrateEffect (sl : BitVec 5) (target : BitVec 21) (s : State) : State :=
  let ns := s.contextsOf sl.toNat
  let s := ns.foldl (fun (s : State) n => s.moveOut target n) s
  let s := ((s.flushGranules (granulesOf (s.slices.get Slice.init sl.toNat).granules)).handOff sl.toNat).newShares sl.toNat
  { s with
    outbound := s.outbound ++ [s.pack sl target ns]
    reqs := s.reqs.filter (fun (e : Nat × PageReq) => decide (e.2.slice ≠ sl.toNat))
    xops := s.xops.filter (fun o => !(ns.contains o.ctx || s.heldIn sl.toNat o))
    copied := s.copied.set [] sl.toNat []
    slices := s.slices.set Slice.init sl.toNat Slice.init }

/-- An operation that came by a migration: its page request has another number here, and what has departed departed before (R402,
R403). -/
def PendOp.carry (o : PendOp) (f : Nat → Nat) : PendOp :=
  let lane (n : BitVec 32) : BitVec 32 := if n = 0 ∨ n = 0xFFFFFFFF then n else BitVec.ofNat 32 (f n.toNat)
  { o with
    status := match o.status with
      | .paging r a x => .paging (f r) a x
      | .queued => .queued
      | .busy u => .busy u
      | .trapped => .trapped
      | .departed => .departed
      | .returning => .returning
    val2 := if o.instr.isGather then (List.range 64).foldl (fun v j => setLaneWait v j (lane (elem 32 o.val2 j)).toNat) o.val2 else o.val2
    first := if o.status = .departed then 0 else o.first }

/-- An engine's state after a migration. -/
def RunState.carry (f : Nat → Nat) : RunState → RunState
  | .fetchParked r a x => .fetchParked (f r) a x
  | .halted => .halted
  | .halting => .halting
  | .running => .running

/-- A copy that came by a migration: its message under way departed before (R403). -/
def Job.carry (j : Job) : Job := { j with carried := j.asked.isSome }

/-- A channel that came by a migration. -/
def Channel.carry (x : Channel) (f : Nat → Nat) : Channel :=
  { x with
    jobs := x.jobs.map Job.carry
    park := match x.park with
      | .paging r a y => .paging (f r) a y
      | .none_ => .none_
      | .trapped => .trapped }

/-- A saved core of a context that came by a migration: it belongs to context `n`, and page requests are renumbered. -/
def Core.carry (k : Core) (n : Nat) (f : Nat → Nat) : Core :=
  let ctx (x : Ctx) : Ctx := { x with ops := x.ops.map (fun (o : PendOp) => o.carry f), run := x.run.carry f }
  { k with
    inst := n, scu := ctx k.scu, ve := ctx k.ve, ce := ctx k.ce, mx := ctx k.mx
    hand := k.hand.map (fun h => { h with run := h.run.carry f })
    chans := k.chans.map (fun (e : Nat × Channel) => (e.1, e.2.carry f)) }

/-- A context of a migrated slice arrives, parked out in its new context area: its number, its slice's function and stage-2 root are
those of this package; MIGR counts up (R388, R398, R401). -/
def State.unpackCtx (s : State) (sl : BitVec 5) (f : Nat → Nat) (m : Nat × Inst × Saved) : State :=
  let n := s.freeCtx
  let x := s.slices.get Slice.init sl.toNat
  let v := m.2.2
  { s with
    insts := s.insts.set Inst.init n { m.2.1 with
      slice := sl, vf := x.vf, s2root := x.s2root, status := .parkedOut true, migr := m.2.1.migr + 1 }
    saved := s.saved.set Saved.init n { v with
      cores := v.cores.map (fun (e : Nat × Core) => (e.1, e.2.carry n f)), rows := v.rows.map (fun r => (r.1, r.2.1, { r.2.2 with owner := n })) }
    xops := s.xops.map (fun (o : XOp) => if o.ctx = 2 ^ 16 + m.1 then { o with ctx := n } else o)
    nextCtx := n % 65535 + 1 }

/-- The core at the same place of a slice's granules in another package. -/
def coreAmong (old new : List Nat) (c : Nat) : Nat :=
  let g := new.getD (old.findIdx (fun g => decide (g = granuleOf c))) (granuleOf c)
  256 * (g / 4) + 16 * (8 * (g % 4 / 2) + c / 16 % 8) + 8 * (g % 2) + c % 8

/-- Contributions that no context has taken yet, at the unit of another core. -/
def XOp.moveCore (o : XOp) (f : Nat → Nat) : XOp :=
  { o with core := f o.core, contribs := o.contribs.map (fun k => { k with dest := BitVec.ofNat 11 (f k.dest.toNat) }) }

/-- MIGRATION of a slice into this package (R401 steps 3 and 5, R402): its frames, its page requests, whose numbers go on, its state at
the exchange units, and its contexts, which a RESTORE then starts; the regions it holds are opened for it by their records (R408). -/
def installEffect (sl : BitVec 5) (m : Migrant) (s : State) : State :=
  let x := s.slices.get Slice.init sl.toNat
  let gs := granulesOf x.granules
  let place (n unit : Nat) : Nat := gs.getD (n / unit) 0 * unit + n % unit
  let number (r : Nat) : Nat := s.nextReq + m.reqs.findIdx (fun e => decide (e.1 = r))
  let s := (m.scrubs.reverse).foldl (fun (s : State) r => s.scrubRange (place r.1 (2 ^ 30)) r.2.1 r.2.2) s
  let s := { s with
    hbm := m.cells.foldl (fun (h : List Host.Cell) (c : Host.Cell) => Tbl.set h 0 (place c.1 (2 ^ 35)) c.2) s.hbm
    poison := m.poison.foldl (fun (t : Tbl Bool) (e : Nat × Bool) => t.set false (place e.1 (2 ^ 30)) e.2) s.poison
    reqs := m.reqs.foldl (fun (t : Tbl PageReq) (e : Nat × PageReq) =>
      t.set PageReq.init (number e.1) { e.2 with vf := x.vf, slice := sl.toNat }) s.reqs
    nextReq := s.nextReq + m.reqs.length
    xops := s.xops ++ m.xops.map (fun (o : XOp) => if o.ctx = 0 then o.moveCore (coreAmong m.granules gs) else { o with ctx := 2 ^ 16 + o.ctx })
    regions := x.regions.foldl (fun (t : Tbl Region) (r : BitVec 12) =>
      t.upd Region.init r.toNat (fun (y : Region) => { y with awaited := y.awaited.filter (fun n => decide (n ≠ sl.toNat)) ++ [sl.toNat] })) s.regions
    inbound := s.inbound.erase m }
  m.insts.foldl (fun (s : State) c => s.unpackCtx sl number c) (s.modPrq x.vf (fun b => { b with next := m.next }))

/-- The slice that arrives for a slice set up here: of its tag, with as many granules (R401). -/
def State.arriving (s : State) (sl : BitVec 5) : Option Migrant :=
  let x := s.slices.get Slice.init sl.toNat
  s.inbound.find? (fun m => decide (m.stag = x.stag) && decide (m.granules.length = (granulesOf x.granules).length))

/-- A keyed link by which the managers of two packages have their session (R308, R439): on the ring towards the other one, or, of a slice
that arrives, on any. -/
def State.sessionLink (s : State) (p : BitVec 21) : Bool :=
  (match nextRing s.pkg p with
    | some (lv, _) => [lv]
    | none => [1, 2, 3]).any (fun lv => (List.range 8).any (fun d =>
      s.linkUp lv (BitVec.ofNat 3 d) && (s.link lv (BitVec.ofNat 3 d)).keyed))

/-- MIGRATION (R401): a round of the pre-copy of a slice, its move to another package, or, where this package is the target, that of one
that arrives; refused where the two managers share no save format (R435) or have no keyed link (R439). -/
def execMigration (sl : BitVec 5) (target : MoveTo) (s : State) : Host.Outcome State Fault Refusal :=
  if agreedFor target.version = 0 ∨ (s.slices.get Slice.init sl.toNat).granules = 0 ∨ !s.sessionLink target.pkg ∨ !s.managed then .next s
  else if target.pkg ≠ s.pkg then .next (if target.round then precopyEffect sl s else migrateEffect sl target.pkg s)
  else
    match s.arriving sl with
    | none => .next s
    | some m => .next (installEffect sl m s)

/-- A slice that has moved away comes back: it arrives as the target leaves it, which the model takes to be as it went (log 20). -/
def returnEffect (sl : Nat) (s : State) : State :=
  match s.outbound.find? (fun m => decide (m.slice = sl)) with
  | none => s
  | some m => { s with outbound := s.outbound.erase m, inbound := s.inbound ++ [m] }

/-- An entry of a member table whose package has moved (R334). -/
def repackEntry (old new : BitVec 21) (w : W64) : W64 :=
  if slice w 43 21 = old then field new 43 ||| (slice w 0 43).setWidth 64 else w

/-- A contribution of or to a member whose package has moved. -/
def Contribution.repack (k : Contribution) (old new : BitVec 21) : Contribution :=
  { k with pkg := if k.pkg = old then new else k.pkg, table := k.table.map (repackEntry old new) }

/-- A core's group slots and collectives once a member's package has moved. -/
def Core.repack (k : Core) (old new : BitVec 21) : Core :=
  let grp (g : Group) : Group := { g with table := g.table.map (repackEntry old new) }
  { k with
    groups := k.groups.map (fun (e : Nat × Group) => (e.1, grp e.2))
    chans := k.chans.map (fun (e : Nat × Channel) => (e.1, { e.2 with jobs := e.2.jobs.map (fun j => { j with grp := grp j.grp }) })) }

/-- The bound tables of a slice's contexts name the package to which a member has moved (R334, R401 step 5): in running and saved cores,
and at the exchange units. -/
def membersEffect (sl : Nat) (old new : BitVec 21) (s : State) : State :=
  let mine (n : Nat) : Bool := decide (n ≠ 0) && decide ((s.insts.get Inst.init n).slice.toNat = sl)
  let one (k : Contribution) : Contribution := Contribution.repack k old new
  { s with
    cores := s.cores.map (fun (e : Nat × Core) => (e.1, if mine e.2.inst then e.2.repack old new else e.2))
    saved := s.saved.map (fun (e : Nat × Saved) =>
      (e.1, if mine e.1 then { e.2 with cores := e.2.cores.map (fun (c : Nat × Core) => (c.1, c.2.repack old new)) } else e.2))
    xops := s.xops.map (fun o =>
      if mine o.ctx ∨ s.heldIn sl o then { o with own := o.own.map one, contribs := o.contribs.map one, answers := o.answers.map one } else o) }

/-! ## Replies that come late (R403) -/

/-- The target of a context that has moved, within 10 ms of the stop, with the tag of its slice. -/
def State.movedTo (s : State) (e : Nat × Inst) : Option (BitVec 21 × BitVec 21) :=
  match e.2.status with
  | .moved t p =>
    if (s.gtime - t).toNat < 10000000 then
      some (p, ((s.outbound.find? (fun m => m.insts.any (fun x => decide (x.1 = e.1)))).map (fun m => m.stag)).getD 0)
    else none
  | _ => none

/-- A departed remote instruction or copy of a context that has moved: the context, its target and tag, and the engine. -/
def State.forwards (s : State) (c num : Nat) : Option (Nat × BitVec 21 × BitVec 21 × Engine) :=
  s.insts.findSome? (fun (e : Nat × Inst) =>
    (s.movedTo e).bind (fun t =>
      let k := s.savedCore e.1 c
      if (k.scu.op? num).any (fun o => decide (o.status = .departed)) then some (e.1, t.1, t.2, .scu)
      else if k.chans.any (fun x => x.2.jobs.any (fun j => decide (j.num = num) && j.asked.isSome)) then some (e.1, t.1, t.2, .ce)
      else none))

/-- The reply goes on to the target on the response VC; nothing is left to wait for here. -/
def forwardEffect (n c num : Nat) (e : Engine) (p stag : BitVec 21) (r : ReplyData) (s : State) : State :=
  let t := { s with saved := s.saved.upd Saved.init n (fun (v : Saved) =>
      { v with cores := v.cores.upd Core.init c (fun (k : Core) =>
          match e with
          | .scu => k.modCtx .scu (fun x => x.finish num)
          | _ => { k with chans := k.chans.map (fun (x : Nat × Channel) =>
              (x.1, { x.2 with jobs := x.2.jobs.filter (fun j => decide (j.num ≠ num)) })) }) }) }
  t.post { Msg.make s p (coreEnd c) (homeEnd (c / 256)) 1 stag (.reply r 0) 1 with code := r.code }

/-- REPLY_FORWARD (R403). -/
def execReplyForward (core num : Nat) (r : ReplyData) (s : State) : Host.Outcome State Fault Refusal :=
  match s.forwards core num with
  | none => .next s
  | some (n, p, stag, e) => .next (forwardEffect n core num e p stag r s)

/-- A core's context came by a migration, and was restored 10 ms ago (R403). -/
def State.lateHere (s : State) (c : Nat) : Bool :=
  let i := s.instOf c
  decide ((s.core c).inst ≠ 0) && decide (i.status = .running) && decide (i.migr ≠ 0) &&
    decide (10000000 ≤ (s.gtime - i.restored).toNat)

/-- The channel whose copy of a number waits for the answer to what departed before the migration. -/
def State.waitingChan (s : State) (c num : Nat) : Option (BitVec 3 × Job) :=
  (List.range 8).findSome? (fun ch =>
    let ch := BitVec.ofNat 3 ch
    (s.movingJob c ch).bind (fun j => if j.num = num ∧ j.kind.copies ∧ j.carried then some (ch, j) else none))

/-- The word of the far end that a copy's message under way names (R284). -/
def State.askedWord (s : State) (c : Nat) (ch : BitVec 3) (j : Job) : W64 :=
  let (z, y, x) := j.desc.place ((s.core c).chan ch).prog
  j.desc.remoteWord (if j.desc.skind = 0 then j.desc.dstAt z y x else j.desc.srcAt z y x)

/-- A channel's copy gets a negative reply LINK (R284, R403); a cancelled one is released (R295). -/
def timeoutChan (c : Nat) (ch : BitVec 3) (j : Job) (s : State) : State :=
  if j.cancelled then s.endJob c ch j true
  else (s.modJob c ch Job.unasked).chanTrap c ch 0x30 (s.askedWord c ch j) 0x0D

/-- REPLY_TIMEOUT (R403): a remote instruction, or a copy, that departed before a migration gets a negative reply LINK. -/
def execReplyTimeout (core num : Nat) (s : State) : Host.Outcome State Fault Refusal :=
  if !s.lateHere core then .next s
  else
    match s.inFlight core num with
    | some (o, _) => .next (if o.first = 0 then s.holdReply core num (nackReply 0x0D) else s)
    | none =>
      match s.waitingChan core num with
      | none => .next s
      | some (ch, j) => .next (timeoutChan core ch j s)

end Sys2Proof.Machine
end

