-- ==== Sys2Proof/Machine/HostPort.lean ====
section
/-!
DEFINITION. The host port's registers (R431 to R436), checkpoint (R404), the event ring (R391, R433), writes of plain registers
and tables, boot and measurement (R437, R438), the management complex (R439), hand-over (R440) and service (R441, R442).
-/

namespace Sys2Proof.Machine

/-- Changes the device. -/
def State.modDev (s : State) (f : Device → Device) : State := { s with dev := f s.dev }

/-! ## Versions (R435, R436) -/

/-- QVER (R436): a write sets AGREED. -/
def execQver (vf : BitVec 6) (v : BitVec 16) (s : State) : Host.Outcome State Fault Refusal :=
  if isVf vf && s.managed then .next (s.modDev (fun d => { d with qver := d.qver.set 0 vf.toNat (agreedFor v) })) else .next s

/-- QVERPF (R433, R436): the same for the physical function's driver. -/
def execQverpf (v : BitVec 16) (s : State) : Host.Outcome State Fault Refusal :=
  if s.managed then .next (s.modDev (fun d => { d with qverpf := agreedFor v })) else .next s

/-! ## Checkpoint (R404, R433) -/

/-- Contexts that run. -/
def State.runningContexts (s : State) : List Nat :=
  (s.insts.filter (fun (e : Nat × Inst) => decide (e.2.status = .running))).map (fun e => e.1)

/-- A checkpoint begins: every context is pre-empted under FREEZE (R404 step 1). -/
def State.startCheckpoint (s : State) : State :=
  let cs := s.runningContexts
  let s := s.insts.foldl (fun (s : State) (e : Nat × Inst) => if s.canFreeze e.1 then s.stop e.1 true none else s) s
  s.modDev (fun d => { d with running := true, failed := false, ckptDue := false, ckptCtx := cs })

/-- What writing 1 to CKPT bit 0 does: ignored while RUNNING; refused in reduced service (R441); after commit during a hand-over
(R444). -/
def ckptEffect (s : State) : State :=
  if s.dev.running then s
  else if s.dev.svc = 1 then s.modDev (fun d => { d with failed := true })
  else if s.dev.handover then s.modDev (fun d => { d with ckptDue := true })
  else s.startCheckpoint

/-- CKPT (R433). -/
def execCkpt (v : W64) (s : State) : Host.Outcome State Fault Refusal :=
  if v.getLsbD 0 && s.managed then .next (ckptEffect s) else .next s

/-- Every context has reached its area (R404 step 2). -/
def State.allParked (s : State) : Bool :=
  s.insts.all (fun (e : Nat × Inst) =>
    match e.2.status with
    | .running => false
    | .stopping _ _ => false
    | .saved _ => false
    | .ending _ => false
    | .parkedOut _ => true
    | .moved _ _ => true
    | .ended => true)

/-- Region numbers that slices hold. -/
def State.heldRegions (s : State) : List (BitVec 12) :=
  ((s.slices.map (fun (e : Nat × Slice) => e.2.regions)).flatten).eraseDups

/-- A context resumes on its own panel. -/
def State.resume (s : State) (n : Nat) : State :=
  let i := s.insts.get Inst.init n
  match i.status with
  | .parkedOut _ => restoreEffect n i.ox i.oy s
  | _ => s

/-- All of HBM is written to the safe tier (R404 step 3): what the L2s hold of it first. -/
def State.writeTier (s : State) : State :=
  let s := s.dirty.foldl (fun (s : State) (e : Nat × Option DirtySector) => s.flushDirty e.1) s
  { s with tier := { cells := s.hbm, scrubs := s.scrubs, poison := s.poison } }

/-- A sector on the tier: its key tag, and its bytes as ciphertext under the checkpoint key (R404, R434). -/
def Tier.sector (t : Tier) (sec : Nat) : BitVec 7 × BitVec 256 :=
  let m := { State.reset with hbm := t.cells, scrubs := t.scrubs }
  (m.keyAt sec, Config.checkpointCipher (m.hbmSector sec) sec)

/-- The last checkpoint is written back to HBM, decrypted, with its tags (R404); the meter counters stay (R406). -/
def tierBackEffect (s : State) : State :=
  if s.tier = Tier.init then s
  else { s.forgetLines (fun _ => true) with hbm := s.tier.cells, scrubs := s.tier.scrubs, poison := s.tier.poison, dirty := [] }

/-- The area of a context that is parked out moves to the CXL port's memory, where a range answers, or back (R434). -/
def areaOutEffect (n : Nat) (out : Bool) (s : State) : State :=
  match (s.insts.get Inst.init n).status with
  | .parkedOut _ =>
    if out ∧ s.dev.hdm = 0 then s
    else { s with saved := s.saved.upd Saved.init n (fun (v : Saved) => { v with cxl := out }) }
  | .running | .stopping _ _ | .saved _ | .moved _ _ | .ending _ | .ended => s

/-- The end of a checkpoint: the copy on the tier unless it failed, a record of every region, and the slices resume (R404 steps 3 to
5). -/
def checkpointEffect (ok : Bool) (s : State) : State :=
  let s := if ok then s.writeTier else s
  let s := s.heldRegions.foldl (fun (s : State) r => s.emit 7 r) s
  let s := s.dev.ckptCtx.foldl (fun (s : State) n => s.resume n) s
  s.modDev (fun d => { d with running := false, failed := !ok, ckptCtx := [] })

/-- CHECKPOINT_COMPLETE (R404). -/
def execCheckpointComplete (ok : Bool) (s : State) : Host.Outcome State Fault Refusal :=
  if s.dev.running && s.allParked then .next (checkpointEffect ok s) else .next s

/-! ## The event ring (R391, R433) -/

/-- A tamper event as it is written. -/
def TamperRec.record (t : TamperRec) : BitVec 256 :=
  field t.gtime 0 ||| field t.vf 64 ||| field t.queue 72 ||| field t.mask 80 ||| field t.pval 96 ||| field t.gval 128 |||
    field t.count 192

/-- Writes the oldest event. -/
def eventEffect (t : TamperRec) (rest : List TamperRec) (s : State) : State :=
  let d := s.dev
  let (s, tail) := s.ringWrite d.evbase d.evctl d.evtail d.evhead (slice d.evctl 16 8).toNat t.record
  s.modDev (fun d => { d with evtail := tail, events := rest })

/-- EVENT_RECORD_WRITE (R433). -/
def execEventRecordWrite (s : State) : Host.Outcome State Fault Refusal :=
  match s.dev.events with
  | [] => .next s
  | t :: rest => if ringRoom s.dev.evctl s.dev.evtail s.dev.evhead then .next (eventEffect t rest s) else .next s

/-! ## Registers and tables without a behaviour of their own -/

/-- Bits of a bind record that a write keeps. -/
def bindBits : BitVec 128 := 0xFFFFFFFF0000FFFFFFFFFFFC00000001
/-- Bits of EVCTL that a write keeps. -/
def evctlBits : W64 := 0x80FF011F

/-- Measurements of images whose frames can be written again are current no more (R410, R421). -/
def State.checkMeasures (s : State) : State :=
  { s with images := s.images.map (fun (m : ImageMeas) =>
      if m.leaves.any (fun a => (BitVec.ofNat 8 (s.physRead a 1)).getLsbD 1) then { m with current := false } else m) }

/-- What REGISTER_WRITE does. -/
def registerEffect (r : DevReg) (v : BitVec 128) (s : State) : State :=
  let w : W64 := v.setWidth 64
  match r with
  | .prqbase vf => s.modPrq vf (fun b => { b with base := w &&& ~~~0xFFF#64 })
  | .prqhead vf => s.modPrq vf (fun b => { b with head := w })
  | .invaddr vf => s.modPrq vf (fun b => { b with invaddr := w })
  | .invlen vf => s.modPrq vf (fun b => { b with invlen := w })
  | .evbase => s.modDev (fun d => { d with evbase := w &&& ~~~0xFFF#64 })
  | .evctl => s.modDev (fun d => { d with evctl := w &&& evctlBits })
  | .evhead => s.modDev (fun d => { d with evhead := w })
  | .pkgmap sl n => { s with slices := s.slices.upd Slice.init sl.toNat (fun (x : Slice) =>
      { x with pkgmap := x.pkgmap.set 0 n.toNat (w &&& 0xFFFFFC0000000000#64) }) }
  | .window sl n => { s with slices := s.slices.upd Slice.init sl.toNat (fun (x : Slice) =>
      { x with windows := x.windows.set 0 n.toNat (v &&& windowBits) }) }
  | .bindrec die n => { s with slots := s.slots.set 0 (256 * die.toNat + n.toNat) (v &&& bindBits) }
  | .l2rng die n => s.setL2rng die.toNat n.toNat v
  | .scrub frame => s.scrubRange (frame.toNat / 4096 * 128) 128 (slice v 0 7)
  | .hbm pa => (s.physWrite (pa.toNat / 8 * 8) 8 w.toNat 0).checkMeasures
  | .hostmem a => s.hostWrite a.toNat 8 w.toNat
  | .fitted p => { s with unfitted := s.unfitted.set false p.toNat (!w.getLsbD 0) }
  | .linkkey level die stag =>
    { s with links := s.links.upd Link.init (8 * level.toNat + die.toNat) (fun (l : Link) =>
      let others := l.tags.filter (fun t => decide (t ≠ stag))
      { l with tags := if w.getLsbD 0 then others ++ [stag] else others }) }
  | .members sl old => membersEffect sl.toNat old (slice v 0 21) s
  | .returned sl => returnEffect sl.toNat s
  | .scratch a => s.modDev (fun d => { d with
      scratch := (List.range 8).foldl (fun (m : List Host.Cell) j => Tbl.set m 0 (a.toNat / 8 * 8 + j) (slice w (8 * j) 8)) d.scratch })
  | .hdm n => s.modDev (fun d => { d with hdm := if w.getLsbD 0 then d.hdm ||| bit true n.toNat else d.hdm &&& ~~~(bit true n.toNat) })
  | .areaout ctx => areaOutEffect ctx.toNat (w.getLsbD 0) s
  | .tierback => tierBackEffect s
  | .dmaerr vf page => s.modDev (fun d => { d with dmaErr := d.dmaErr.set false (2 ^ 52 * vf.toNat + page.toNat) (w.getLsbD 0) })
  | .bar0 _ _ | .bar0read _ _ => s

/-! ## BAR 0 (R373, R415, R432, R433, R436) -/

/-- A register of BAR 0: of the device, of a page-request block, of a queue, of the version of a function's driver, or a shadow register. -/
inductive BarReg where
  | dev (n : Nat)
  | prq (vf : BitVec 6) (n : Nat)
  /-- a stage-1 invalidation register of a virtual function's own block, numbered as in its page-request block -/
  | inv (vf : BitVec 6) (n : Nat)
  | queue (vf q : BitVec 6) (n : Nat)
  | qver (vf : BitVec 6)
  | shadow (vf q : BitVec 6) (n : Nat)
  deriving DecidableEq, Repr

/-- The register of 8 bytes at an offset of a function's BAR 0; function 0 is the physical one (R432). -/
def barReg (f : BitVec 6) (off : Nat) : Option BarReg :=
  if off % 8 ≠ 0 then none
  else if f = 0 then
    if off < 0x100 then some (.dev (off / 8))
    else if 0x10000 ≤ off ∧ off < 0x11000 then some (.prq (BitVec.ofNat 6 ((off - 0x10000) / 0x80 + 1)) (off % 0x80 / 8))
    else if 0x20000 ≤ off ∧ off < 0x40000 then
      some (.queue (BitVec.ofNat 6 ((off - 0x20000) / 0x1000 + 1)) (BitVec.ofNat 6 (off % 0x1000 / 0x40)) (off % 0x40 / 8))
    else none
  else if !isVf f then none
  else if off < 0x1000 then some (.queue f (BitVec.ofNat 6 (off / 0x40)) (off % 0x40 / 8))
  else if 0x8000 ≤ off ∧ off < 0x8020 then some (.inv f (6 + (off - 0x8000) / 8))
  else if off = 0x9000 then some (.qver f)
  else if 0x10000 ≤ off ∧ off < 0x14000 then some (.shadow f (BitVec.ofNat 6 ((off - 0x10000) / 0x100)) (off % 0x100 / 8))
  else none

/-- DEVSTAT (R433). -/
def Device.devstat (d : Device) : W64 :=
  field d.svc 0 ||| bit d.handover 2 ||| field d.dies 8 ||| field d.clock 16

/-- A device register as it reads (R433). -/
def Device.reg (d : Device) (n : Nat) : W64 :=
  match n with
  | 0 => d.devstat
  | 1 => d.fwver.setWidth 64
  | 2 => d.evbase
  | 3 => d.evctl
  | 4 => d.evtail
  | 5 => d.evhead
  | 6 => field d.qverpf 16 ||| 0x0100
  | 8 => bit d.running 1 ||| bit d.failed 2
  | _ => 0

/-- A page-request block's register as it reads (R373). -/
def State.prqReg (s : State) (vf : BitVec 6) (n : Nat) : W64 :=
  let b := s.prqOf vf
  match n with
  | 0 => b.base
  | 1 => b.ctl
  | 2 => b.tail
  | 3 => b.head
  | 5 => s.prstat vf
  | 6 => b.invaddr
  | 7 => b.invlen
  | 9 => b.invdone
  | _ => 0

/-- QCTL (R415). -/
def CmdQueue.qctl (x : CmdQueue) : W64 := bit x.en 0 ||| bit x.halted 2 ||| field x.reason 8

/-- A queue register as it reads (R415). -/
def CmdQueue.reg (x : CmdQueue) (n : Nat) : W64 :=
  match n with
  | 0 => x.tail.setWidth 64
  | 1 => x.head.setWidth 64
  | 2 => x.seqc.setWidth 64
  | 3 => x.seqs.setWidth 64
  | 4 => x.seqd.setWidth 64
  | 5 => x.qerr
  | 6 => x.qtok
  | 7 => x.qctl
  | _ => 0

/-- What a read of 8 bytes of BAR 0 gives: 0 where no register stands (R431). -/
def State.barRead (s : State) (f : BitVec 6) (off : Nat) : W64 :=
  match barReg f off with
  | none => 0
  | some (.dev n) => s.dev.reg n
  | some (.prq vf n) => s.prqReg vf n
  | some (.inv vf n) => s.prqReg vf n
  | some (.queue vf q n) => (s.cq vf q).reg n
  | some (.qver vf) => field (s.agreed vf) 16 ||| 0x0100
  | some (.shadow vf q n) => (s.cq vf q).shadow.get 0 n

/-- A write of INVCMD (R371, R373). -/
def invcmdEffect (vf : BitVec 6) (v : W64) (s : State) : State := s.invalidateLater vf (v.getLsbD 0) (v.getLsbD 1)

/-- A write of QCTL (R415, R416): EN, then RESET. -/
def qctlWrite (vf q : BitVec 6) (v : W64) (s : State) : Host.Outcome State Fault Refusal :=
  match execQueueEnable vf q (v.getLsbD 0) s with
  | .next t => if v.getLsbD 1 then execReset vf q t else .next t
  | o => o

/-- A write of 8 bytes of BAR 0: ignored where no register stands (R431), and by one that is read-only. -/
def barWrite (f : BitVec 6) (off : Nat) (v : W64) (s : State) : Host.Outcome State Fault Refusal :=
  match barReg f off with
  | some (.dev 2) => .next (registerEffect .evbase (v.setWidth 128) s)
  | some (.dev 3) => .next (registerEffect .evctl (v.setWidth 128) s)
  | some (.dev 5) => .next (registerEffect .evhead (v.setWidth 128) s)
  | some (.dev 6) => execQverpf (slice v 0 16) s
  | some (.dev 8) => execCkpt v s
  | some (.prq vf 0) => .next (registerEffect (.prqbase vf) (v.setWidth 128) s)
  | some (.prq vf 1) => execPrqctl vf v s
  | some (.prq vf 3) => .next (registerEffect (.prqhead vf) (v.setWidth 128) s)
  | some (.prq vf 4) => if slice v 32 32 = 1#32 then execPrrplyFail vf v s else execPrrplyRetry vf v s
  | some (.prq vf 6) => .next (registerEffect (.invaddr vf) (v.setWidth 128) s)
  | some (.prq vf 7) => .next (registerEffect (.invlen vf) (v.setWidth 128) s)
  | some (.prq vf 8) => .next (invcmdEffect vf v s)
  | some (.inv vf 6) => .next (registerEffect (.invaddr vf) (v.setWidth 128) s)
  | some (.inv vf 7) => .next (registerEffect (.invlen vf) (v.setWidth 128) s)
  | some (.inv vf 8) => .next (if v.getLsbD 0 then s else invcmdEffect vf v s)
  | some (.queue vf q 0) => execQtail vf q v s
  | some (.queue vf q 7) => qctlWrite vf q v s
  | some (.qver vf) => execQver vf (slice v 0 16) s
  | _ => .next s

/-- The virtual function whose register it is. -/
def DevReg.function : DevReg → Option (BitVec 6)
  | .prqbase vf => some vf
  | .prqhead vf => some vf
  | .invaddr vf => some vf
  | .invlen vf => some vf
  | .dmaerr vf _ => some vf
  | _ => none

/-- What is no write of the slice manager's: the host's, and what the model takes as given of the world outside. -/
def DevReg.outside : DevReg → Bool
  | .hostmem _ | .fitted _ | .dmaerr _ _ | .hdm _ | .bar0 _ _ | .bar0read _ _ => true
  | .prqbase _ | .prqhead _ | .invaddr _ | .invlen _ | .evbase | .evctl | .evhead | .pkgmap _ _ | .window _ _ | .bindrec _ _
  | .l2rng _ _ | .scrub _ | .hbm _ | .linkkey _ _ _ | .members _ _ | .returned _ | .scratch _ | .areaout _ | .tierback => false

/-- REGISTER_WRITE: of a register or table entry by its name, or, by its place, an access to BAR 0 (R432). After a failed boot nothing
takes one but what lies outside (R437). -/
def execRegisterWrite (r : DevReg) (v : BitVec 128) (s : State) : Host.Outcome State Fault Refusal :=
  match r with
  | .bar0 f off => if s.managed then barWrite f off.toNat (slice v 0 64) s else .next s
  | .bar0read f off => .next (s.modDev (fun d => { d with readData := s.barRead f off.toNat }))
  | _ => if (DevReg.function r).all isVf && (s.managed || DevReg.outside r) then .next (registerEffect r v s) else .next s

/-! ## Boot and measurement (R437, R438) -/

/-- Extends a measurement register and appends to the log (R438). -/
def Device.extend (d : Device) (k : Nat) (digest : BitVec 256) (now : W64) : Device :=
  { d with
    meas := d.meas.set 0 k (Config.sha3 (bytesOf 32 (d.meas.get 0 k).toNat ++ bytesOf 32 digest.toNat))
    log := d.log ++ [(k, digest, d.fwver.setWidth 64, now)] }

/-- The four management cores have just been heard (R439). -/
def beatsAt (now : W64) : Tbl Nat := (List.range 4).foldl (fun (t : Tbl Nat) k => t.set 0 k now.toNat) []

/-- The device once the ROM and the image have run (R437): an image that verifies is measured and runs, and the repair and configuration
data are measured and used unless their signature fails (log 12); without an image the boot has failed. -/
def bootDevice (copy : Option BootCopy) (now : W64) : Device :=
  let d := { Device.init with responder := true, beats := beatsAt now }
  match copy with
  | none => { d with svc := 3 }
  | some x =>
    let d := { d with image := x.digest, fwver := Config.imageVersion x.digest }
    let d := (d.extend 0 x.digest now).extend 1 (Config.bootDigest 1) now
    if x.dataOk then { d.extend 2 (Config.bootDigest 2) now with repaired := true } else d

/-- POWER_GOOD (R437): everything starts at its reset value but the host's memory and DMA space, global time and the meter counters, which
never decrease (R405; log 25). -/
def powerEffect (copy : Option BootCopy) (s : State) : State :=
  { State.reset with
    pkg := s.pkg, cycle := s.cycle, gtime := s.gtime, gphase := s.gphase, free := s.free, hostMem := s.hostMem
    regions := s.regions, records := s.records, dev := { bootDevice copy s.gtime with dmaErr := s.dev.dmaErr } }

/-- POWER_GOOD (R437): copy A where its signature verifies, otherwise copy B. -/
def execPowerGood (copyA copyB : Option BootCopy) (s : State) : Host.Outcome State Fault Refusal :=
  .next (powerEffect (copyA <|> copyB) s)

/-! ## Service (R441, R442) -/

/-- REDUCED_SERVICE (R441). -/
def execReducedService (s : State) : Host.Outcome State Fault Refusal :=
  if s.dev.svc = 0 ∧ s.dev.responder then .next (s.modDev (fun d => { d with svc := 1, dies := 1, clock := 1800 })) else .next s

/-- FULL_SERVICE (R441). -/
def execFullService (s : State) : Host.Outcome State Fault Refusal :=
  if s.dev.svc = 1 then .next (s.modDev (fun d => { d with svc := 2, dies := 0xFF, clock := 3600 })) else .next s

/-- CLOCK_LOWER (R442). -/
def execClockLower (s : State) : Host.Outcome State Fault Refusal :=
  if 1800 + 225 ≤ s.dev.clock.toNat then .next (s.modDev (fun d => { d with clock := d.clock - 225 })) else .next s

/-- CLOCK_RAISE (R442): to 3,600 MHz at most, and in reduced service not above its 1,800 MHz. -/
def execClockRaise (s : State) : Host.Outcome State Fault Refusal :=
  if s.dev.svc = 2 ∧ s.dev.clock.toNat + 225 ≤ 3600 then .next (s.modDev (fun d => { d with clock := d.clock + 225 })) else .next s

/-! ## Hand-over and the management complex (R439, R440) -/

/-- A hand-over ends: a checkpoint that waited for it starts (R444). -/
def State.afterHandover (s : State) : State :=
  if s.dev.ckptDue then ckptEffect (s.modDev (fun d => { d with ckptDue := false })) else s

/-- A hand-over fails: the old image continues, and nothing is extended (R440, R444). -/
def abandonHandover (s : State) : State := (s.modDev (fun d => { d with handover := false })).afterHandover

/-- Management cores that have missed three heartbeats. -/
def State.silent (s : State) (core : BitVec 2) : List Nat :=
  (List.range 4).filter (fun k => decide (k ≠ core.toNat) && decide (s.dev.beats.get 0 k + 3000000 ≤ s.gtime.toNat))

/-- The others reset a silent core: it is logged, and a hand-over under way fails (R439, R444). -/
def State.resetManagement (s : State) (k : Nat) : State :=
  let s := (s.modDev (fun d => { d with beats := d.beats.set 0 k s.gtime.toNat })).tell (.coreReset (BitVec.ofNat 2 k))
  if s.dev.handover then abandonHandover s else s

/-- What a heartbeat does (R439). -/
def heartbeatEffect (core : BitVec 2) (s : State) : State :=
  (s.silent core).foldl (fun (s : State) k => s.resetManagement k)
    (s.modDev (fun d => { d with beats := d.beats.set 0 core.toNat s.gtime.toNat }))

/-- HEARTBEAT (R439), of cores that run. -/
def execHeartbeat (core : BitVec 2) (s : State) : Host.Outcome State Fault Refusal :=
  if s.managed then .next (heartbeatEffect core s) else .next s

/-- HANDOVER_START (R440): the old image goes on until commit; an image that does not verify changes nothing. -/
def execHandoverStart (image : BitVec 256) (sigOk : Bool) (s : State) : Host.Outcome State Fault Refusal :=
  if sigOk ∧ s.dev.responder ∧ s.dev.svc ≠ 3 ∧ !s.dev.handover then
    .next (s.modDev (fun d => { d with handover := true, next := image }))
  else .next s

/-- HANDOVER_COMMIT (R440): the new image, MEAS3, FWVER and HANDOVER change in one step; the log entry bears the new FWVER. -/
def commitHandover (fwver : BitVec 32) (s : State) : State :=
  (s.modDev (fun d => { ({ d with image := d.next, fwver := fwver } : Device).extend 3 d.next s.gtime with handover := false })).afterHandover

/-- HANDOVER_COMMIT (R440), or, without a version, the failure of the new image's start-up. -/
def execHandoverCommit (fwver : Option (BitVec 32)) (s : State) : Host.Outcome State Fault Refusal :=
  if s.dev.handover then .next ((fwver.map (fun v => commitHandover v s)).getD (abandonHandover s)) else .next s

/-- GET_VERSION (R435, R440): not after a failed boot (R437). -/
def execGetVersion (s : State) : Host.Outcome State Fault Refusal :=
  if s.dev.responder && s.managed then .next (s.modDev (fun d => { d with doe := .versions [0x1200, 0x1300] })) else .next s

/-- GET_MEASUREMENTS (R438, R440). -/
def execGetMeasurements (s : State) : Host.Outcome State Fault Refusal :=
  if !s.dev.responder then .next s
  else if s.dev.handover then .next (s.modDev (fun d => { d with doe := .notReady }))
  else .next (s.modDev (fun d => { d with doe := .measurements ((List.range 4).map (fun k => d.meas.get 0 k)) d.log }))

/-- GET_CERTIFICATE of slot 0, the chain of the identity key (R438, R440): not after a failed boot, when only measurements are answered (R437). -/
def execGetCertificate (s : State) : Host.Outcome State Fault Refusal :=
  if !s.dev.responder ∨ s.dev.svc = 3 then .next s
  else if s.dev.handover then .next (s.modDev (fun d => { d with doe := .notReady }))
  else .next (s.modDev (fun d => { d with doe := .certificate Config.certificateChain }))

end Sys2Proof.Machine
end

