-- ==== Sys2Proof/Machine/Serve.lean ====
section
/-!
DEFINITION. The requests that other packages send to this one (R313, R317 to R320, R322, R329): runs of copies and puts, and the order
in which the agents serve what has arrived (R331).
-/

namespace Sys2Proof.Machine

/-- What a run of a copy gets: a reply with its region (R282) and the state it leaves, or an address where the package has no memory. -/
abbrev RunServed : Type := Except Nat (ReplyData × BitVec 12 × State)

/-- A negative reply to a run; nothing has been done. -/
def runNack (s : State) (code : BitVec 8) (region : BitVec 12 := 0) : RunServed := .ok (nackReply code, region, s)

/-- The reply to a run that failed at a window or a row. -/
def runFailed (s : State) (x : WinErr) : RunServed :=
  match x with
  | .nack c => runNack s c
  | .gone pa => .error pa

/-- A positive reply to a run, with what was read. -/
def runReply (v : Nat) (region : BitVec 12) (s : State) : RunServed :=
  .ok ({ code := 0, value := 0, status := 0, pkt := BitVec.ofNat 512 v }, region, s)

/-- The flag that a last landing raises at a peer, at the end of the cycle (R99, R279, R329). -/
def State.raiseFar (s : State) (core : Nat) (flag : Option (BitVec 4)) (n : W64) : State :=
  match flag with
  | none => s
  | some f => s.later core (.fadd f (slice n 0 16))

/-- A run at a core's stash, by another package (R282, R322): the core must belong to a slice that carries the tag. -/
def State.servePeer (s : State) (r : FarReq) : RunServed :=
  let p := r.core.toNat
  let a : W64 := bit true 63 ||| r.off.setWidth 64
  if (s.sliceOfCore p).map (fun n => (s.slices.get Slice.init n).stag) ≠ some r.stag then runNack s 0x0B
  else
    match r.kind with
    | .peerWrite flag =>
      if r.n = 0 then runReply 0 0 (s.raiseFar p flag r.parm)
      else
        match s.landRow p a r.n r.pkt.toNat r.region true with
        | .error (.mem x) => runFailed s x.reply
        | .error (.region m) => runNack s 0x09 m
        | .ok t => runReply 0 0 (t.raiseFar p flag r.parm)
    | _ =>
      match s.copyRow p a r.n with
      | .error x => runFailed s x.reply
      | .ok (v, region, t) => runReply v region t

/-- A run through a window, by another package (R282, R313): it reads with the region that it finds, and lands only bytes of the
region of its destination. -/
def State.serveWindow (s : State) (t : Target) (r : FarReq) : RunServed :=
  match r.kind with
  | .copyWrite =>
    match s.windowLoc t r.win.toNat r.off.toNat r.n .write .write with
    | .error x => runFailed s x
    | .ok (l, u) => if l.region ≠ r.region then runNack s 0x09 l.region else runReply 0 0 (u.store t.slice l.pa r.n r.pkt.toNat 0)
  | _ =>
    match s.windowLoc t r.win.toNat r.off.toNat r.n .read .read with
    | .error x => runFailed s x
    | .ok (l, u) => if (s.sector (l.pa / 32)).2.1 then runNack s 0x0A else runReply (u.physRead l.pa r.n) l.region u

/-- A request of another package has been answered. -/
def State.replied (s : State) (x : Nat × FarReq) (a : ReplyData) (region : BitVec 12) : State :=
  { s with arrived := s.arrived.erase x }.replyTo x.2 a region

/-- What an agent hands on for a request of another package (R320): the rest of a CHASE with its issuer, or the link of a node, for
which it waits itself, with the head word noted (R317). -/
def State.handOn (s : State) (x : Nat × FarReq) (h : Hand) : State :=
  if h.kind = .chase then { s with arrived := s.arrived.erase x }.post (s.forwardMsg x.2 h none)
  else
    { s with arrived := s.arrived.map (fun y =>
        if y = x then (x.1, { x.2 with n := 1, node := some { nackReply 0 with status := h.data } }) else y) }.post
      (s.forwardMsg { x.2 with issuer := (s.pkg, homeEnd x.2.die.toNat) } h none)

/-- What serving a request of another package leads to, as `State.directed`: the claim waits at the stash whose banks it needs. -/
def State.directedFar (s : State) (x : Nat × FarReq) (u : State) (done : State → State) : Option State :=
  if u.banksFree then some (done u.takeBanks) else s.directed u (((u.claims.head?).map (fun b => b.1)).getD 0) (.far x.1 x.2)

/-- A request of another package is served (R313, R317, R319, R322); none where it must wait for stash banks. -/
def State.serveFar (s : State) (x : Nat × FarReq) : Option (Host.Outcome State Fault Refusal) :=
  let r := x.2
  let t := { s with claims := [] }
  let run (a : RunServed) : Option (Host.Outcome State Fault Refusal) :=
    match a with
    | .error pa => some (.fault (.noMemory pa))
    | .ok (a, region, u) => (s.directedFar x u (fun u => u.replied x a region)).map (fun u => .next u)
  match r.kind with
  | .peerRead | .peerWrite _ => run (t.servePeer r)
  | .copyRead | .copyWrite => run (t.serveWindow (s.farTarget r) r)
  | _ =>
    if r.node.isNone ∧ s.headHeld (s.farTarget r) (farIn r) then none
    else
    match t.serve (s.farTarget r) (farIn r) r.node with
    | .reply a u => (s.directedFar x u (fun u => u.replied x a 0)).map (fun u => .next u)
    | .away h => some (.next (s.handOn x h))
    | .gone pa => some (.fault (.noMemory pa))

/-- Place of a request among those that arrived in the same cycle: by SPKG, SDIE and SEP (R331). -/
def sourceKey (pkg : BitVec 21) (sep : BitVec 12) : Nat := 4096 * pkg.toNat + sep.toNat

/-- Requests that the agents have to serve, in the order of their arrival (R331): of cores of this package, and of others. -/
def State.agentQueue (s : State) : List (Nat × Nat × (Nat × Nat ⊕ Nat × FarReq)) :=
  let here := (s.cores.map (fun (ck : Nat × Core) =>
    (ck.2.scu.ops.filter (fun o =>
      o.instr.request.isSome && decide (o.status = .departed) && o.reply?.isNone && s.staysHere o && decide (o.mask = 0))).map (fun o =>
        (o.first, sourceKey s.pkg (coreEnd ck.1), (Sum.inl (ck.1, o.num) : Nat × Nat ⊕ Nat × FarReq))))).flatten
  let far := (s.arrived.filter (fun x => !nodeAsked x.2)).map (fun x => (x.1 + 1, sourceKey x.2.spkg x.2.sep, (Sum.inr x : Nat × Nat ⊕ Nat × FarReq)))
  byAge (here ++ far)

/-- The agents serve the first request that they can (R331). -/
def State.agentStep (s : State) : Option (Host.Outcome State Fault Refusal) :=
  s.agentQueue.findSome? (fun x =>
    match x.2.2 with
    | .inl (c, num) => s.serveHere c num
    | .inr r => s.serveFar r)

end Sys2Proof.Machine
end

