-- ==== Sys2Proof/Machine/Fabric.lean ====
section
/-!
DEFINITION. Slots at the bridge ports and at their destination endpoints (R301 to R308), messages that a bridge station turns back
(R303, R306, R307), and the bridge links (R306 to R309). What a message carries acts in the events of its own kind
(REMOTE_REQUEST_CHECK, COPY_LANDING, …; log 16).
-/

namespace Sys2Proof.Machine

/-! ## Endpoints (R301, R304, R305) -/

/-- Receive buffers of an endpoint on a virtual channel. -/
def State.endpoint (s : State) (x : Slot) : Endpoint := s.endpoints.get Endpoint.init (8 * x.dep.toNat + x.vc.toNat)

/-- Replaces them. -/
def State.setEndpoint (s : State) (x : Slot) (e : Endpoint) : State :=
  { s with endpoints := s.endpoints.set Endpoint.init (8 * x.dep.toNat + x.vc.toNat) e }

/-- What has landed of the message of which a slot is the next. -/
def Endpoint.before (e : Endpoint) (x : Slot) : Option Partial :=
  e.under.find? (fun m => decide (m.spkg = x.spkg) && decide (m.sep = x.sep) && decide (m.seq = x.seq))

/-- A slot is the next of its message to land (R301). -/
def Endpoint.inOrder (e : Endpoint) (x : Slot) : Bool := x.first || (e.before x).isSome

/-- A slot lands with its payload. -/
def Endpoint.landSlot (e : Endpoint) (x : Slot) : Endpoint :=
  let old := e.before x
  let m : Partial := { spkg := x.spkg, sep := x.sep, seq := x.seq + 1, got := (old.map (fun m => m.got)).getD [] ++ [x.payload] }
  let u := e.under.filter (fun p => decide (some p ≠ old))
  if x.last then { e with under := u, landed := some m } else { e with under := u ++ [m] }

/-- Buffered slots land while one is next. -/
def Endpoint.drain (e : Endpoint) : Nat → Endpoint
  | 0 => e
  | n + 1 =>
    match e.buf.find? e.inOrder with
    | some x => Endpoint.drain ({ e with buf := e.buf.erase x }.landSlot x) n
    | none =>
      match e.elder with
      | some x => if e.inOrder x then Endpoint.drain ({ e with elder := none }.landSlot x) n else e
      | none => e

/-- A slot arrives at its endpoint (R304, R305): a time slot is accepted as it arrives; an elder slot takes the elder buffer or is
refused for the second time; another takes an ordinary buffer, or goes round the package ring once more as an elder. -/
def Endpoint.arrive (e : Endpoint) (x : Slot) : Endpoint :=
  let e := { e with circling := e.circling.filter (fun y => decide (y.1 ≠ x))
                    nacked := e.nacked.filter (fun y => decide ((y.spkg, y.sep, y.seq) ≠ (x.spkg, x.sep, x.seq))) }
  if x.vc = 5 then e.landSlot x
  else if x.elder then
    (if e.elder = none then { e with elder := some x }.drain (e.buf.length + 1) else { e with nacked := e.nacked ++ [x] })
  else if e.buf.length < Config.receiveBuffers then { e with buf := e.buf ++ [x] }.drain (e.buf.length + 2)
  else { e with circling := e.circling ++ [({ x with elder := true }, dieClockwise (slice x.sep 9 3) (slice x.dep 9 3))] }

/-- A message of one slot reaches its endpoint inside the package. -/
def State.landInside (s : State) (m : Msg) : State :=
  let x := s.nextSlot m
  let t := { s with seqs := s.seqs.set 0 (seqKey m.sep m.vc) (x.seq + 1), free := s.free + 3 }
  t.setEndpoint x ((t.endpoint x).arrive x)

/-- A reply to the source of a slot, from an endpoint of this package: with a code, or a NACK-BUSY (R305; log 16). -/
def State.slotReply (s : State) (x : Slot) (sep : BitVec 12) (code : BitVec 8) : State :=
  let die : BitVec 12 := (slice x.sep 9 3 : BitVec 3).setWidth 12 <<< 9
  let m := { Msg.make s x.spkg x.sep (die ||| (slice sep 0 9 : BitVec 9).setWidth 12) 1 x.stag (.reply (nackReply code) 0) 1 with code := code }
  if x.spkg = s.pkg then s.landInside m else s.post m

/-- A slot comes to its endpoint; one refused twice is sent back with NACK-BUSY. -/
def endpointEffect (x : Slot) (s : State) : State :=
  let e := (s.endpoint x).arrive x
  let t := s.setEndpoint x e
  if e.nacked.contains x then t.slotReply x x.dep 0 else t

/-! ## Slots at the bridge ports (R302 to R304, R307, R308) -/

/-- A slot on its way through the package waits for its next ring: another ring clears ELDER (R303, R304). -/
def State.passOn (s : State) (level : Nat) (x : Slot) : State :=
  let other := (nextRing s.pkg x.dpkg).map (fun r => r.1) ≠ some level
  let x := if other then { x with elder := false } else x
  s.post { Msg.make s x.dpkg x.dep x.sep x.vc x.stag (.slot x) 1 with code := x.code }

/-- A tenant slot that a bridge station does not let in (R307): a package tag, one without a key on the port, or, for this package,
one that it does not admit. -/
def State.turnsAway (s : State) (level : Nat) (die : BitVec 3) (x : Slot) : Bool :=
  decide (x.vc.toNat ≤ 3) && (!x.stag.getLsbD 20 || !(s.link level die).tags.contains x.stag ||
    (decide (x.dpkg = s.pkg) && !s.admitsTag x.stag))

/-- The endpoint by which the management complex sends through the port of a die (R301, R308; log 16). -/
def mgmtEnd (die : BitVec 3) : BitVec 12 := BitVec.ofNat 12 (512 * die.toNat + 260)

/-- The management complex sends a message of the session that sets a link up (R308, R439). -/
def State.postSetup (s : State) (die : BitVec 3) (partner : BitVec 21) : State :=
  s.post (Msg.make s partner (mgmtEnd die) (mgmtEnd die) 4 0 .setup 1)

/-- A slot comes in by a bridge port: in set-up only the set-up kind does, on the management channel, and the complex goes on with the
session; once keyed, that kind is dropped and logged (R308). What enters the package ring has no ELDER (R304). -/
def portEffect (level : BitVec 2) (die : BitVec 3) (x : Slot) (s : State) : State :=
  let setup := decide (x.kind = 0xF)
  if !s.linkUp level.toNat die then s
  else if !(s.link level.toNat die).keyed then
    (if setup && decide (x.vc = 4) && decide (x.dpkg = s.pkg) then (endpointEffect { x with elder := false } s).postSetup die x.spkg else s)
  else if setup then s.tell (.link level die 2)
  else if s.turnsAway level.toNat die x then s.slotReply x (homeEnd die.toNat) 0x0B
  else if x.dpkg = s.pkg then endpointEffect { x with elder := false } s
  else s.passOn level.toNat x

/-- What a slot's arrival does: codes 6 and 7 are dropped and logged as a link error (kind 2 of a link event; R302); on the package
ring (level 0) a slot comes to its endpoint, on a higher ring to the bridge port. -/
def slotEffect (level : BitVec 2) (die : BitVec 3) (x : Slot) (s : State) : State :=
  if 6 ≤ x.vc.toNat then s.tell (.link level die 2)
  else if level ≠ 0 then portEffect level die x s
  else if x.dpkg = s.pkg then endpointEffect x s
  else s

/-- SLOT_ARRIVAL (R304). -/
def execSlotArrival (a : SlotAt) (s : State) : Host.Outcome State Fault Refusal :=
  .next (slotEffect a.level a.die a.slot s)

/-! ## Messages that a bridge station turns back (R303, R306, R307) -/

/-- The request of another package for which a link of a node has been asked of a third one (R320). -/
def State.nodeAsker (s : State) (m : Msg) : Option (Nat × FarReq) :=
  s.arrived.find? (fun x => nodeAsked x.2 &&
    (match s.serve (s.farTarget x.2) (farIn x.2) none with
      | .away h => decide ((s.forwardMsg { x.2 with issuer := (s.pkg, homeEnd x.2.die.toNat), n := 0, node := none } h none).body = m.body)
      | .reply _ _ | .gone _ => false))

/-- What a negative reply to a request that has been turned back does: the operation or channel that sent it has its reply, also where its
context has been saved since, or whoever the request was handed on for. -/
def State.requestBack (s : State) (m : Msg) (q : FarReq) (code : BitVec 8) : State :=
  match m.who with
  | some (.op _ num) => s.giveReply m.core num (nackReply code)
  | some (.chan n) => s.keepCopy m.core (BitVec.ofNat 3 n) (some { code := code, region := 0, data := 0 })
  | some (.fetch _) | some (.far _ _) => s
  | none =>
    if q.kind = .chase then s.replyTo q (nackReply code) 0
    else if q.issuer.1 = s.pkg ∧ q.issuer.2 = coreEnd (endCore q.issuer.2) ∧ !ReqKind.ofCopy q.kind then
      s.giveReply (endCore q.issuer.2) q.num (nackReply code)
    else
      match s.nodeAsker m with
      | none => s
      | some x => { s with arrived := s.arrived.map (fun y => if y = x then (x.1, FarReq.answered x.2 (nackReply code)) else y) }

/-- A contribution that has been turned back: the member's unit holds the negative answer of the rank it was for (R337, R345). -/
def State.partTurned (s : State) (m : Msg) (k : Contribution) (code : BitVec 8) : State :=
  match m.who with
  | some (.chan n) =>
    let p := k.table.findIdx (fun w => decide (memberPlace w = (m.dpkg, k.dest)))
    s.takeFar k.core.toNat (BitVec.ofNat 3 n)
      { k with bytes := [], regions := [], pkg := m.dpkg, core := k.dest, rank := BitVec.ofNat 24 p, code := code }
  | _ => s

/-- A message is turned back with a code: its source in this package, or the source of a slot on its way, has a negative reply (R307). -/
def State.turnBack (s : State) (m : Msg) (code : BitVec 8) : State :=
  let s := { s with waiting := s.waiting.erase m, sent := s.sent.filter (fun n => !m.same n) }
  match m.body with
  | .request q => s.requestBack m q code
  | .reply _ _ =>
    s.landInside { Msg.make s s.pkg m.sep (homeEnd m.die.toNat) 1 m.stag (.reply (nackReply code) 0) 1 with code := code }
  | .part k => s.partTurned m k code
  | .slot x => s.slotReply x (homeEnd m.die.toNat) code
  | .setup => s

/-- The bridge stations turn back the messages that they cannot send. -/
def State.turnBacks (s : State) : State :=
  s.waiting.foldl (fun (s : State) m =>
    match s.turnsBack m with
    | none => s
    | some code => s.turnBack m code) s

/-! ## NACK-BUSY (R305) -/

/-- The message of this package whose slot a NACK-BUSY reply names by its source endpoint, virtual channel and sequence number, with the
slots of it that have been accepted. -/
def State.refused (s : State) (sep : BitVec 12) (vc : BitVec 3) (seq : BitVec 16) : Option (Msg × Nat) :=
  ((s.sent ++ s.waiting.filter Msg.numbered).find? (fun m =>
    decide (m.sep = sep) && decide (m.vc = vc) && decide ((seq - m.seq).toNat < m.slots))).map (fun m => (m, (seq - m.seq).toNat))

/-- A message that has been refused for the k-th time is sent again from its first slot not accepted. -/
def State.resend (s : State) (m : Msg) (accepted : Nat) : State :=
  s.post { m with left := max m.left (m.slots - accepted), busy := m.busy + 1, since := s.cycle + ringCycles * retryDelay (m.busy + 1) }

/-- A NACK-BUSY reply: the message is sent again, and the 64th in a row is a negative reply BUSY. -/
def busyEffect (m : Msg) (accepted : Nat) (s : State) : State :=
  let t := { s with waiting := s.waiting.filter (fun n => !m.same n), sent := s.sent.filter (fun n => !m.same n) }
  if m.busy + 1 < 64 then t.resend m accepted else t.turnBack m 0x0C

/-- NACK_BUSY_RETRY (R305). -/
def execNackBusyRetry (sep : BitVec 12) (vc : BitVec 3) (seq : BitVec 16) (s : State) : Host.Outcome State Fault Refusal :=
  match s.refused sep vc seq with
  | none => .next s
  | some (m, k) => .next (busyEffect m k s)

/-! ## Links (R306 to R309) -/

/-- FRAME_AUTH_FAIL (R307): the frame is sent again; the management complex receives a link event of kind 3. -/
def execFrameAuthFail (level : BitVec 2) (die : BitVec 3) (s : State) : Host.Outcome State Fault Refusal :=
  if s.linkUp level.toNat die then
    .next ((s.modLink level.toNat die (fun l => { l with errors := l.errors + 1 })).tell (.link level die 3))
  else .next s

/-- Messages of a set-up session through a port that have not left are of no use any more. -/
def State.dropSetup (s : State) (level : BitVec 2) (die : BitVec 3) : State :=
  { s with waiting := s.waiting.filter (fun m =>
      !(m.isSetup && decide (m.die = die) && decide ((s.wayOf m).map (fun w => w.1) = some level.toNat))) }

/-- LINK_TRAINING (R308, R435): a trained link is in set-up, and the session begins; one whose partner shares no version of the link
protocol stays down, and the management complex learns of it. Nothing runs after a failed boot (R437). -/
def execLinkTraining (level : BitVec 2) (o : LinkOffer) (s : State) : Host.Outcome State Fault Refusal :=
  if level = 0 ∨ s.dev.svc = 3 then .next s
  else if agreedFor o.version = 0 then
    .next ((s.modLink level.toNat o.die (fun l => { l with trained := false, keyed := false })).tell (.link level o.die 4))
  else .next (((s.dropSetup level o.die).modLink level.toNat o.die (fun l => { l with trained := true, keyed := false })).postSetup
    o.die o.partner)

/-- LINK_KEYED (R308, R439). -/
def execLinkKeyed (level : BitVec 2) (die : BitVec 3) (s : State) : Host.Outcome State Fault Refusal :=
  if s.linkUp level.toNat die then .next ((s.dropSetup level die).modLink level.toNat die (fun l => { l with keyed := true })) else .next s

/-- A direction holds the reserve: two slots of credit for each virtual channel (R306). -/
def Way.reserve (w : Way) : Bool := (List.range 6).all (fun v => decide (2 ≤ w.credits.get 2 v))

/-- A direction's link extends some slots of credit for each virtual channel from now on (R306): without the reserve it is in protected
mode; one that is, and holds the reserve again, counts its 10 ms from here. -/
def Way.hold (w : Way) (n : List Nat) (now : W64) : Way :=
  let t := { w with credits := (List.range 6).foldl (fun (t : Tbl Nat) v => t.set 2 v (n.getD v 2)) [] }
  { t with protected_ := w.protected_ || !t.reserve, held := if w.protected_ ∧ !w.reserve ∧ t.reserve then now else w.held }

/-- PROTECTED_MODE_ENTER (R306): lane failures or retired buffers leave a direction of a link some credits, or it has them again; a link
event of kind 1 where it comes into protected mode. -/
def execProtectedModeEnter (level : BitVec 2) (x : LinkCredit) (s : State) : Host.Outcome State Fault Refusal :=
  let d := x.dir
  if !s.linkUp level.toNat d.die then .next s
  else
    let old := (s.link level.toNat d.die).way d.cw
    let t := s.modLink level.toNat d.die (fun l => l.modWay d.cw (fun w => w.hold x.credits s.gtime))
    .next (if !old.protected_ && !(old.hold x.credits s.gtime).reserve then t.tell (.link level d.die 1) else t)

/-- A direction has held the reserve for 10 ms (R306). -/
def State.mayLeave (s : State) (level : BitVec 2) (die : BitVec 3) (cw : Bool) : Bool :=
  let w := (s.link level.toNat die).way cw
  s.linkUp level.toNat die && w.protected_ && w.reserve && decide (10000000 ≤ (s.gtime - w.held).toNat)

/-- PROTECTED_MODE_EXIT (R306). -/
def execProtectedModeExit (level : BitVec 2) (d : LinkDir) (s : State) : Host.Outcome State Fault Refusal :=
  if s.mayLeave level d.die d.cw then
    .next (s.modLink level.toNat d.die (fun l => l.modWay d.cw (fun w => { w with protected_ := false })))
  else .next s

/-- TIME_EXCHANGE (R20, R309): over a keyed link, also in protected mode; the correction due replaces the last one. -/
def execTimeExchange (level : BitVec 2) (die : BitVec 3) (slew : Int) (s : State) : Host.Outcome State Fault Refusal :=
  if s.linkUp level.toNat die && (s.link level.toNat die).keyed then
    .next { s.modLink level.toNat die (fun l => { l with slew := slew }) with slew := slew }
  else .next s

end Sys2Proof.Machine
end

