-- ==== Sys2Proof/Machine/Dispatch.lean ====
section
/-!
DEFINITION. The dispatch: one arm for each instruction and for each step of the hardware.
-/

namespace Sys2Proof.Machine

/-- The meaning of one instruction, or of one step of the hardware or the outside world. -/
def exec (i : Instr) (s : State) : Host.Outcome State Fault Refusal :=
  match i with
  | .nop => Sys2Proof.Machine.execNop s
  | .halt => Sys2Proof.Machine.execHalt s
  | .waitk mask => Sys2Proof.Machine.execWaitk mask s
  | .slack n => Sys2Proof.Machine.execSlack n s
  | .mfs d r g => Sys2Proof.Machine.execMfs d r g s
  | .mts r a g => Sys2Proof.Machine.execMts r a g s
  | .fset f a imm => Sys2Proof.Machine.execFset f a imm s
  | .fwait f a imm => Sys2Proof.Machine.execFwait f a imm s
  | .fclr f => Sys2Proof.Machine.execFclr f s
  | .fence k x m w => Sys2Proof.Machine.execFence k x m w s
  | .mark g => Sys2Proof.Machine.execMark g s
  | .tlsig d w => Sys2Proof.Machine.execTlsig d w s
  | .tlwait t n w => Sys2Proof.Machine.execTlwait t n w s
  | .tlrd d t w => Sys2Proof.Machine.execTlrd d t w s
  | .binit r b o w => Sys2Proof.Machine.execBinit r b o w s
  | .barr r b o w => Sys2Proof.Machine.execBarr r b o w s
  | .bwait r b o w => Sys2Proof.Machine.execBwait r b o w s
  | .btry r b o w => Sys2Proof.Machine.execBtry r b o w s
  | .binv r b o w => Sys2Proof.Machine.execBinv r b o w s
  | .trap n g => Sys2Proof.Machine.execTrap n g s
  | .brk n g => Sys2Proof.Machine.execBrk n g s
  | .faultrd d k g => Sys2Proof.Machine.execFaultrd d k g s
  | .hcall d a svc w => Sys2Proof.Machine.execHcall d a svc w s
  | .eret a drop newpt => Sys2Proof.Machine.execEret a drop newpt s
  | .icinv sc a b w => Sys2Proof.Machine.execIcinv sc a b w s
  | .mtrrd d a w => Sys2Proof.Machine.execMtrrd d a w s
  | .add d a b g => Sys2Proof.Machine.execAdd d a b g s
  | .sub d a b g => Sys2Proof.Machine.execSub d a b g s
  | .and d a b g => Sys2Proof.Machine.execAnd d a b g s
  | .or d a b g => Sys2Proof.Machine.execOr d a b g s
  | .xor d a b g => Sys2Proof.Machine.execXor d a b g s
  | .andn d a b g => Sys2Proof.Machine.execAndn d a b g s
  | .shl d a b g => Sys2Proof.Machine.execShl d a b g s
  | .shr d a b g => Sys2Proof.Machine.execShr d a b g s
  | .sra d a b g => Sys2Proof.Machine.execSra d a b g s
  | .rotl d a b g => Sys2Proof.Machine.execRotl d a b g s
  | .min d a b g => Sys2Proof.Machine.execMin d a b g s
  | .max d a b g => Sys2Proof.Machine.execMax d a b g s
  | .minn d a b g => Sys2Proof.Machine.execMinn d a b g s
  | .maxn d a b g => Sys2Proof.Machine.execMaxn d a b g s
  | .sel d a b g => Sys2Proof.Machine.execSel d a b g s
  | .clz d a g => Sys2Proof.Machine.execClz d a g s
  | .ctz d a g => Sys2Proof.Machine.execCtz d a g s
  | .popc d a g => Sys2Proof.Machine.execPopc d a g s
  | .addi d a imm => Sys2Proof.Machine.execAddi d a imm s
  | .andi d a imm => Sys2Proof.Machine.execAndi d a imm s
  | .ori d a imm => Sys2Proof.Machine.execOri d a imm s
  | .xori d a imm => Sys2Proof.Machine.execXori d a imm s
  | .shli d a n => Sys2Proof.Machine.execShli d a n s
  | .shri d a n => Sys2Proof.Machine.execShri d a n s
  | .srai d a n => Sys2Proof.Machine.execSrai d a n s
  | .mul d a b g => Sys2Proof.Machine.execMul d a b g s
  | .mulh d a b g => Sys2Proof.Machine.execMulh d a b g s
  | .mulhn d a b g => Sys2Proof.Machine.execMulhn d a b g s
  | .div d a b w => Sys2Proof.Machine.execDiv d a b w s
  | .divn d a b w => Sys2Proof.Machine.execDivn d a b w s
  | .rem d a b w => Sys2Proof.Machine.execRem d a b w s
  | .remn d a b w => Sys2Proof.Machine.execRemn d a b w s
  | .divideComplete core => Sys2Proof.Machine.execDivideComplete core s
  | .cmp p c a b g => Sys2Proof.Machine.execCmp p c a b g s
  | .cmpi p c a imm => Sys2Proof.Machine.execCmpi p c a imm s
  | .movi d imm => Sys2Proof.Machine.execMovi d imm s
  | .movk d imm h => Sys2Proof.Machine.execMovk d imm h s
  | .ldi d imm => Sys2Proof.Machine.execLdi d imm s
  | .bext d a b g => Sys2Proof.Machine.execBext d a b g s
  | .bins d a b g => Sys2Proof.Machine.execBins d a b g s
  | .aadd d src g => Sys2Proof.Machine.execAadd d src g s
  | .aaddi d src imm => Sys2Proof.Machine.execAaddi d src imm s
  | .amov d a => Sys2Proof.Machine.execAmov d a s
  | .aget d src => Sys2Proof.Machine.execAget d src s
  | .amesh d sel => Sys2Proof.Machine.execAmesh d sel s
  | .br l y g => Sys2Proof.Machine.execBr l y g s
  | .jmp l y => Sys2Proof.Machine.execJmp l y s
  | .call l y g => Sys2Proof.Machine.execCall l y g s
  | .jmpr a g => Sys2Proof.Machine.execJmpr a g s
  | .ret g => Sys2Proof.Machine.execRet g s
  | .loopImmediate lvl n eline esyl => Sys2Proof.Machine.execLoopImmediate lvl n eline esyl s
  | .loopRegister lvl a eline esyl => Sys2Proof.Machine.execLoopRegister lvl a eline esyl s
  | .join ve ce mx g => Sys2Proof.Machine.execJoin ve ce mx g s
  | .fork e l y g => Sys2Proof.Machine.execFork e l y g s
  | .qclose q g => Sys2Proof.Machine.execQclose q g s
  | .qstat d q g => Sys2Proof.Machine.execQstat d q g s
  | .ld t d m w => Sys2Proof.Machine.execLd t d m w s
  | .ldn t d m w => Sys2Proof.Machine.execLdn t d m w s
  | .lda t d m w => Sys2Proof.Machine.execLda t d m w s
  | .st t src m w => Sys2Proof.Machine.execSt t src m w s
  | .atm op wide d b src w => Sys2Proof.Machine.execAtm op wide d b src w s
  | .acas wide d b src w => Sys2Proof.Machine.execAcas wide d b src w s
  | .acas2 d b src w => Sys2Proof.Machine.execAcas2 d b src w s
  | .stbind r b w => Sys2Proof.Machine.execStbind r b w s
  | .stunbd r w => Sys2Proof.Machine.execStunbd r w s
  | .stflsh r w => Sys2Proof.Machine.execStflsh r w s
  | .stdrop r w => Sys2Proof.Machine.execStdrop r w s
  | .sttch r w => Sys2Proof.Machine.execSttch r w s
  | .cflsh n b w => Sys2Proof.Machine.execCflsh n b w s
  | .cinv n b w => Sys2Proof.Machine.execCinv n b w s
  | .cdisc n b w => Sys2Proof.Machine.execCdisc n b w s
  | .rld t d b w => Sys2Proof.Machine.execRld t d b w s
  | .rst t src b w => Sys2Proof.Machine.execRst t src b w s
  | .ratm op d b src w => Sys2Proof.Machine.execRatm op d b src w s
  | .rcas t d b src w => Sys2Proof.Machine.execRcas t d b src w s
  | .casn d b src w => Sys2Proof.Machine.execCasn d b src w s
  | .enq d b src w => Sys2Proof.Machine.execEnq d b src w s
  | .deq d b src w => Sys2Proof.Machine.execDeq d b src w s
  | .chase d b src w => Sys2Proof.Machine.execChase d b src w s
  | .fadd d b src w => Sys2Proof.Machine.execFadd d b src w s
  | .fminloc d b src w => Sys2Proof.Machine.execFminloc d b src w s
  | .rfence w => Sys2Proof.Machine.execRfence w s
  | .vadd t d a b g => Sys2Proof.Machine.execVadd t d a b g s
  | .vsub t d a b g => Sys2Proof.Machine.execVsub t d a b g s
  | .vmul t d a b g => Sys2Proof.Machine.execVmul t d a b g s
  | .vmin t d a b g => Sys2Proof.Machine.execVmin t d a b g s
  | .vmax t d a b g => Sys2Proof.Machine.execVmax t d a b g s
  | .vdiv t d a b w => Sys2Proof.Machine.execVdiv t d a b w s
  | .vfma t d a b g => Sys2Proof.Machine.execVfma t d a b g s
  | .vfms t d a b g => Sys2Proof.Machine.execVfms t d a b g s
  | .vfnma t d a b g => Sys2Proof.Machine.execVfnma t d a b g s
  | .vabs t d a g => Sys2Proof.Machine.execVabs t d a g s
  | .vneg t d a g => Sys2Proof.Machine.execVneg t d a g s
  | .vsqrt t d a w => Sys2Proof.Machine.execVsqrt t d a w s
  | .vrcp t d a w => Sys2Proof.Machine.execVrcp t d a w s
  | .vrsq t d a w => Sys2Proof.Machine.execVrsq t d a w s
  | .vexp2 t d a w => Sys2Proof.Machine.execVexp2 t d a w s
  | .vlog2 t d a w => Sys2Proof.Machine.execVlog2 t d a w s
  | .veUnitComplete core => Sys2Proof.Machine.execVeUnitComplete core s
  | .viadd t d a b g => Sys2Proof.Machine.execViadd t d a b g s
  | .visub t d a b g => Sys2Proof.Machine.execVisub t d a b g s
  | .vimul t d a b g => Sys2Proof.Machine.execVimul t d a b g s
  | .vimulh t d a b g => Sys2Proof.Machine.execVimulh t d a b g s
  | .vimin t d a b g => Sys2Proof.Machine.execVimin t d a b g s
  | .vimax t d a b g => Sys2Proof.Machine.execVimax t d a b g s
  | .vclamp t d a b g => Sys2Proof.Machine.execVclamp t d a b g s
  | .vwadd t d a b g => Sys2Proof.Machine.execVwadd t d a b g s
  | .vand t d a b g => Sys2Proof.Machine.execVand t d a b g s
  | .vor t d a b g => Sys2Proof.Machine.execVor t d a b g s
  | .vxor t d a b g => Sys2Proof.Machine.execVxor t d a b g s
  | .vnot t d a g => Sys2Proof.Machine.execVnot t d a g s
  | .vshl t d a b g => Sys2Proof.Machine.execVshl t d a b g s
  | .vshr t d a b g => Sys2Proof.Machine.execVshr t d a b g s
  | .vsra t d a b g => Sys2Proof.Machine.execVsra t d a b g s
  | .vrshr t d a b g => Sys2Proof.Machine.execVrshr t d a b g s
  | .vmacb q d a b g => Sys2Proof.Machine.execVmacb q d a b g s
  | .vimulr half d a b g => Sys2Proof.Machine.execVimulr half d a b g s
  | .vnarb q d a g => Sys2Proof.Machine.execVnarb q d a g s
  | .vcmp c t p a b g => Sys2Proof.Machine.execVcmp c t p a b g s
  | .vfcmp c t p a b g => Sys2Proof.Machine.execVfcmp c t p a b g s
  | .vpand p a b g => Sys2Proof.Machine.execVpand p a b g s
  | .vpor p a b g => Sys2Proof.Machine.execVpor p a b g s
  | .vpnot p a g => Sys2Proof.Machine.execVpnot p a g s
  | .vsel t d a b g => Sys2Proof.Machine.execVsel t d a b g s
  | .vcvtLow dst src d a k => Sys2Proof.Machine.execVcvtLow dst src d a k s
  | .vcvtHigh dst src d a k => Sys2Proof.Machine.execVcvtHigh dst src d a k s
  | .vqnt dst d a b k => Sys2Proof.Machine.execVqnt dst d a b k s
  | .vperm t d a b g => Sys2Proof.Machine.execVperm t d a b g s
  | .vrot o d a g => Sys2Proof.Machine.execVrot o d a g s
  | .vrmrg o d a g => Sys2Proof.Machine.execVrmrg o d a g s
  | .vshuf t p d a g => Sys2Proof.Machine.execVshuf t p d a g s
  | .vbcast blk imm d a g => Sys2Proof.Machine.execVbcast blk imm d a g s
  | .vextr wide imm d a g => Sys2Proof.Machine.execVextr wide imm d a g s
  | .viota t start d g => Sys2Proof.Machine.execViota t start d g s
  | .vscan op d a g => Sys2Proof.Machine.execVscan op d a g s
  | .xclr x g => Sys2Proof.Machine.execXclr x g s
  | .xacc x a g => Sys2Proof.Machine.execXacc x a g s
  | .xsca e8m0 x a b g => Sys2Proof.Machine.execXsca e8m0 x a b g s
  | .xred grp x a g => Sys2Proof.Machine.execXred grp x a g s
  | .xrnd bf16 d a g => Sys2Proof.Machine.execXrnd bf16 d a g s
  | .xld x m w => Sys2Proof.Machine.execXld x m w s
  | .xst x m w => Sys2Proof.Machine.execXst x m w s
  | .vkey t d a b g => Sys2Proof.Machine.execVkey t d a b g s
  | .vld d m w => Sys2Proof.Machine.execVld d m w s
  | .vst src m w => Sys2Proof.Machine.execVst src m w s
  | .vstm src m p w => Sys2Proof.Machine.execVstm src m p w s
  | .vldq q m p w => Sys2Proof.Machine.execVldq q m p w s
  | .vldt d m p w => Sys2Proof.Machine.execVldt d m p w s
  | .vgath d b sh imm p w => Sys2Proof.Machine.execVgath d b sh imm p w s
  | .vscat src b sh imm p w => Sys2Proof.Machine.execVscat src b sh imm p w s
  | .vpref b sh imm p w => Sys2Proof.Machine.execVpref b sh imm p w s
  | .cpy c m w => Sys2Proof.Machine.execCpy c m w s
  | .cpyt c m w => Sys2Proof.Machine.execCpyt c m w s
  | .cpym at_ c m w => Sys2Proof.Machine.execCpym at_ c m w s
  | .pput c b m w => Sys2Proof.Machine.execPput c b m w s
  | .cwprd d acq c w => Sys2Proof.Machine.execCwprd d acq c w s
  | .ccan all c w => Sys2Proof.Machine.execCcan all c w s
  | .cbuf set n m w => Sys2Proof.Machine.execCbuf set n m w s
  | .cstat d clr c w => Sys2Proof.Machine.execCstat d clr c w s
  | .cgrp slot m w => Sys2Proof.Machine.execCgrp slot m w s
  | .car c m w => Sys2Proof.Machine.execCar c m w s
  | .crs c m w => Sys2Proof.Machine.execCrs c m w s
  | .cag c m w => Sys2Proof.Machine.execCag c m w s
  | .ca2a c m w => Sys2Proof.Machine.execCa2a c m w s
  | .cbc c m w => Sys2Proof.Machine.execCbc c m w s
  | .repart c m w => Sys2Proof.Machine.execRepart c m w s
  | .mlease n => Sys2Proof.Machine.execMlease n s
  | .mfree => Sys2Proof.Machine.execMfree s
  | .mlda src cls m w => Sys2Proof.Machine.execMlda src cls m w s
  | .mldu cls m w => Sys2Proof.Machine.execMldu cls m w s
  | .mldb src cls m w => Sys2Proof.Machine.execMldb src cls m w s
  | .mldbt src cls m w => Sys2Proof.Machine.execMldbt src cls m w s
  | .mmul t d kb ka clr w => Sys2Proof.Machine.execMmul t d kb ka clr w s
  | .mzero d w => Sys2Proof.Machine.execMzero d w s
  | .mrd d m w => Sys2Proof.Machine.execMrd d m w s
  | .mrdx d q w => Sys2Proof.Machine.execMrdx d q w s
  | .mstat d clr w => Sys2Proof.Machine.execMstat d clr w s
  | .rep n => Sys2Proof.Machine.execRep n s
  | .mldp src step col m w => Sys2Proof.Machine.execMldp src step col m w s
  | .mmulp d e5m2 kb ka clr ms w => Sys2Proof.Machine.execMmulp d e5m2 kb ka clr ms w s
  | .mmulpt d e5m2 kb ka clr ms w => Sys2Proof.Machine.execMmulpt d e5m2 kb ka clr ms w s
  | .meps src ms col m w => Sys2Proof.Machine.execMeps src ms col m w s
  | .mseed a b => Sys2Proof.Machine.execMseed a b s
  | .resultLanding core e => Sys2Proof.Machine.execResultLanding core e s
  | .engineHalted core e => Sys2Proof.Machine.execEngineHalted core e s
  | .instructionFetch core e => Sys2Proof.Machine.execInstructionFetch core e s
  | .qTimeout core e => Sys2Proof.Machine.execQTimeout core e s
  | .memoryAccessPerform core e num lane => Sys2Proof.Machine.execMemoryAccessPerform core e num lane s
  | .pageRequestRecordWrite vf => Sys2Proof.Machine.execPageRequestRecordWrite vf s
  | .fenceComplete core e num => Sys2Proof.Machine.execFenceComplete core e num s
  | .tlsigComplete core e num => Sys2Proof.Machine.execTlsigComplete core e num s
  | .tlwaitComplete core e num => Sys2Proof.Machine.execTlwaitComplete core e num s
  | .bwaitComplete core e num => Sys2Proof.Machine.execBwaitComplete core e num s
  | .handlerEntry core => Sys2Proof.Machine.execHandlerEntry core s
  | .leaseArbitration cluster => Sys2Proof.Machine.execLeaseArbitration cluster s
  | .leaseIdleTimeout cluster => Sys2Proof.Machine.execLeaseIdleTimeout cluster s
  | .tileLoadPerform core num => Sys2Proof.Machine.execTileLoadPerform core num s
  | .arrayCommandBegin core => Sys2Proof.Machine.execArrayCommandBegin core s
  | .arrayCommandComplete core num => Sys2Proof.Machine.execArrayCommandComplete core num s
  | .mrdxPush core => Sys2Proof.Machine.execMrdxPush core s
  | .infuserTileForm core => Sys2Proof.Machine.execInfuserTileForm core s
  | .caddyRelease core => Sys2Proof.Machine.execCaddyRelease core s
  | .copyLanding core c far => Sys2Proof.Machine.execCopyLanding core c far s
  | .copyComplete core c => Sys2Proof.Machine.execCopyComplete core c s
  | .contributionArrival die k => Sys2Proof.Machine.execContributionArrival die k s
  | .elementReduce die gid seq elem => Sys2Proof.Machine.execElementReduce die gid seq elem s
  | .collectiveResultLanding core c far => Sys2Proof.Machine.execCollectiveResultLanding core c far s
  | .collectiveComplete core c => Sys2Proof.Machine.execCollectiveComplete core c s
  | .slotArrival slot => Sys2Proof.Machine.execSlotArrival slot s
  | .nackBusyRetry sep vc seq => Sys2Proof.Machine.execNackBusyRetry sep vc seq s
  | .remoteRequestCheck r => Sys2Proof.Machine.execRemoteRequestCheck r s
  | .remoteReply core num far => Sys2Proof.Machine.execRemoteReply core num far s
  | .frameAuthFail level die => Sys2Proof.Machine.execFrameAuthFail level die s
  | .linkTraining level offer => Sys2Proof.Machine.execLinkTraining level offer s
  | .linkKeyed level die => Sys2Proof.Machine.execLinkKeyed level die s
  | .protectedModeEnter level credit => Sys2Proof.Machine.execProtectedModeEnter level credit s
  | .protectedModeExit level dir => Sys2Proof.Machine.execProtectedModeExit level dir s
  | .timeExchange level die slew => Sys2Proof.Machine.execTimeExchange level die slew s
  | .qtail vf q v => Sys2Proof.Machine.execQtail vf q v s
  | .controlBlockRefresh vf q => Sys2Proof.Machine.execControlBlockRefresh vf q s
  | .launch vf q => Sys2Proof.Machine.execLaunch vf q s
  | .update vf q => Sys2Proof.Machine.execUpdate vf q s
  | .gang vf q => Sys2Proof.Machine.execGang vf q s
  | .queueEnable vf q en => Sys2Proof.Machine.execQueueEnable vf q en s
  | .reset vf q => Sys2Proof.Machine.execReset vf q s
  | .launchDispatch vf q => Sys2Proof.Machine.execLaunchDispatch vf q s
  | .launchStart vf q => Sys2Proof.Machine.execLaunchStart vf q s
  | .blockedEvent vf q => Sys2Proof.Machine.execBlockedEvent vf q s
  | .gangReserve gid => Sys2Proof.Machine.execGangReserve gid s
  | .gangto gid => Sys2Proof.Machine.execGangto gid s
  | .instanceEnd ctx => Sys2Proof.Machine.execInstanceEnd ctx s
  | .killed ctx => Sys2Proof.Machine.execKilled ctx s
  | .deadlineEvent ctx => Sys2Proof.Machine.execDeadlineEvent ctx s
  | .prrplyRetry vf w => Sys2Proof.Machine.execPrrplyRetry vf w s
  | .prrplyFail vf w => Sys2Proof.Machine.execPrrplyFail vf w s
  | .invcmdStage1 vf => Sys2Proof.Machine.execInvcmdStage1 vf s
  | .invcmdStage2 vf => Sys2Proof.Machine.execInvcmdStage2 vf s
  | .invcmdWholeSlice vf => Sys2Proof.Machine.execInvcmdWholeSlice vf s
  | .invalidationComplete vf => Sys2Proof.Machine.execInvalidationComplete vf s
  | .prqctl vf v => Sys2Proof.Machine.execPrqctl vf v s
  | .qver vf v => Sys2Proof.Machine.execQver vf v s
  | .qverpf v => Sys2Proof.Machine.execQverpf v s
  | .ckpt v => Sys2Proof.Machine.execCkpt v s
  | .checkpointComplete ok => Sys2Proof.Machine.execCheckpointComplete ok s
  | .eventRecordWrite => Sys2Proof.Machine.execEventRecordWrite s
  | .registerWrite r v => Sys2Proof.Machine.execRegisterWrite r v s
  | .preemptStop ctx => Sys2Proof.Machine.execPreemptStop ctx s
  | .preemptFreeze ctx => Sys2Proof.Machine.execPreemptFreeze ctx s
  | .preemptAuto ctx deadline => Sys2Proof.Machine.execPreemptAuto ctx deadline s
  | .autoDeadline ctx => Sys2Proof.Machine.execAutoDeadline ctx s
  | .contextSwapOut ctx => Sys2Proof.Machine.execContextSwapOut ctx s
  | .contextParkOut cluster => Sys2Proof.Machine.execContextParkOut cluster s
  | .restore ctx ox oy => Sys2Proof.Machine.execRestore ctx ox oy s
  | .migration slice target => Sys2Proof.Machine.execMigration slice target s
  | .migrateIn m => Sys2Proof.Machine.execMigrateIn m s
  | .replyForward core num r => Sys2Proof.Machine.execReplyForward core num r s
  | .replyTimeout core num => Sys2Proof.Machine.execReplyTimeout core num s
  | .periodicMeterRecord region => Sys2Proof.Machine.execPeriodicMeterRecord region s
  | .regionOpen m => Sys2Proof.Machine.execRegionOpen m s
  | .carryIn m => Sys2Proof.Machine.execCarryIn m s
  | .powerGood copyA copyB => Sys2Proof.Machine.execPowerGood copyA copyB s
  | .reducedService => Sys2Proof.Machine.execReducedService s
  | .fullService => Sys2Proof.Machine.execFullService s
  | .clockLower => Sys2Proof.Machine.execClockLower s
  | .clockRaise => Sys2Proof.Machine.execClockRaise s
  | .heartbeat core => Sys2Proof.Machine.execHeartbeat core s
  | .handoverStart image sigOk => Sys2Proof.Machine.execHandoverStart image sigOk s
  | .handoverCommit fwver => Sys2Proof.Machine.execHandoverCommit fwver s
  | .getVersion => Sys2Proof.Machine.execGetVersion s
  | .getMeasurements => Sys2Proof.Machine.execGetMeasurements s
  | .getCertificate => Sys2Proof.Machine.execGetCertificate s
  | .stall core e => Sys2Proof.Machine.execStall core e s
  | .stallWireSample ctx => Sys2Proof.Machine.execStallWireSample ctx s
  | .icinvComplete core num => Sys2Proof.Machine.execIcinvComplete core num s
  | .hcallComplete core status block => Sys2Proof.Machine.execHcallComplete core status block s
  | .queueBind vf q b => Sys2Proof.Machine.execQueueBind vf q b s
  | .sliceCreate slice sp => Sys2Proof.Machine.execSliceCreate slice sp s
  | .regionClose region => Sys2Proof.Machine.execRegionClose region s
  | .uncorrectableError loc => Sys2Proof.Machine.execUncorrectableError loc s
  | .patrolScrubbing loc => Sys2Proof.Machine.execPatrolScrubbing loc s

end Sys2Proof.Machine
end

