-- ==== Sys2Proof/Machine/Issue.lean ====
section
/-!
DEFINITION. One issue slot: an engine's group is checked and issued as a whole, or waits, or traps with no member taking
effect (R27 to R35, R84, R90, R114, R362).
-/

namespace Sys2Proof.Machine

/-- What became of a group's members. -/
inductive GroupRun where
  | issued (s : State)
  /-- a member waits or is held; the wait as noted, and the state in which it was noted -/
  | stuck (s : State)
  | trapped (r : TrapRec)
  /-- a member's descriptor waits on a page request (R283): the state in which it was made -/
  | parked (s : State)
  | fault (f : Fault)
  | refused (r : Refusal)

/-- Encoding checks of a member that depend on the state (R41, R95, R117, R175, R244, R381): ILL_FIELD. -/
def State.fieldBad (s : State) (i : Instr) : Bool :=
  let k := s.cur
  let u := i.uses s.eng
  !(u.srcs.all (k.srcOk s.eng)) || !(k.dstOk s.eng u.dst) ||
    (match i with
      | .qclose q _ => !(k.queue q).en
      | .vldq q _ _ _ => !(k.queue q).row
      | .mrdx _ q _ => k.mrdxBad q
      | .eret _ _ np => (match k.hand with
        | none => true
        | some h => np && decide (h.rec_.kind = 2))
      | _ => false)

/-- The closed queue that a group names, in syllable order (R97). -/
def State.groupClosed (s : State) (is : List Instr) : Option (BitVec 3) :=
  is.findSome? (fun i =>
    let u := i.uses s.eng
    if s.cur.active s.eng u then closedQueue s.cur { srcs := u.srcs, dst := u.dst } else none)

/-- Reads the state as it stands before the cycle, and so goes first (R94, R117). -/
def readsFirst (i : Instr) : Bool :=
  match i with
  | .mfs _ _ _ => true
  | .qstat _ _ _ => true
  | _ => false

/-- What a member that has been executed in state `s` has met where it does not go on: a trap, a page request, a stop of the
model. -/
def State.memberMet (s : State) (o : Host.Outcome State Fault Refusal) : Option GroupRun :=
  match o with
  | .fault f => some (.fault f)
  | .refused r => some (.refused r)
  | .next t =>
    let x := (t.core s.focus).ctx s.eng
    if x.lastRec ≠ s.ctx.lastRec then (x.lastRec).map (fun r => .trapped r.1)
    else
      match x.run with
      | .fetchParked _ _ _ => some (.parked t)
      | .running | .halting | .halted => none

/-- Executes the members of a group one after another. A group in which a member waits or is held does not issue, whatever the
others meet, and every member's reasons are noted (R90); otherwise the first trap or page request is the group's. -/
def runMembers (first : Option GroupRun) : List (Nat × Syl × Instr) → State → GroupRun
  | [], s => if s.ctx.stuck then .stuck s else first.getD (.issued s)
  | (n, w, i) :: r, s =>
    let o := exec i { s with syl := w, idx := BitVec.ofNat 4 n }
    match s.memberMet o with
    | some m => runMembers (first.orElse (fun _ => some m)) r s
    | none =>
      match o with
      | .next t => runMembers first r t
      | .fault _ | .refused _ => runMembers first r s

/-- The count of a group's wait on queues goes on in a cycle in which one of its queue conditions is unmet (R97). -/
def countQueues (s : State) (is : List Instr) (old : Option Wait) (w : Wait) : Wait :=
  let before := (old.map (fun w => w.qlen)).getD 0
  let counted := old.any (fun w => decide (w.last = s.cycle))
  { w with qlen := if !counted ∧ (s.cur.unmetQueue s.eng is).isSome then before + 1 else before }

/-- The slack that applies to a group: that of its SLACK, or the engine's (R89). -/
def Ctx.slackOf (x : Ctx) (is : List Instr) : BitVec 22 :=
  (is.findSome? (fun i =>
    match i with
    | .slack n => some n
    | _ => none)).getD x.slack

/-- A group that has not issued: nothing is left of its members but the wait, with the slack in force for it (R89), and the line it
needs. `t` is the state in which the reasons were noted. -/
def State.keepWaiting (s t : State) (is : List Instr) : State :=
  let y := (t.core s.focus).ctx s.eng
  s.modCtx (fun x =>
    { x with
      wait := some { countQueues s is x.wait (Wait.go x.wait y.why s.cycle (s.asserted s.focus)) with slack := x.slackOf is }
      stuck := true, target := y.target, reach := y.reach })

/-- A group whose descriptor waits on a page request: nothing is left of its members but the request, and the landing buffer
stops in this cycle (R86). -/
def State.keepParked (s t : State) : State :=
  let run := ((t.core s.focus).ctx s.eng).run
  ({ s with reqs := t.reqs, nextReq := t.nextReq, prq := t.prq } : State).modCtx (fun x =>
    { x with run := run, wait := none, frozen := true })

/-- The CE waits: a descriptor is being read, six cycles (R283), or a CGRP binds its slot. -/
def Core.ceBusy (k : Core) (now : Nat) : Bool :=
  k.ce.ops.any (fun o =>
    (decide (o.instr.ord = .copy) && decide (now < o.issued + 6)) ||
      (match o.instr with
        | .cgrp _ _ _ => decide (o.status ≠ .trapped)
        | _ => false))

/-- REP of a group, and how many passes it asks for (R46). -/
def repCount (is : List Instr) : Option Nat :=
  is.findSome? (fun i =>
    match i with
    | .rep n => some (n.toNat + 1)
    | _ => none)

/-- The engine moves on after a group that issued (R27, R52, R113, R114): it repeats it, follows a transfer, goes on where a LOOP of
count 0 continues, goes back to a loop's start, falls through, or ends its stream. -/
def State.moveOn (s : State) (l : Line) (is : List Instr) : State :=
  let x := s.ctx
  let x := { x with wait := none, stuck := false }
  if x.run ≠ .running then s.modCtx (fun _ => { x with target := none })
  else
    let passes := (repCount is).getD 1
    if x.mpc.toNat + 1 < passes then s.modCtx (fun _ => { x with mpc := x.mpc + 1 })
    else
      let x := if (repCount is).isSome then { x with mpc := 0 } else x
      match x.target with
      | some p => s.modCtx (fun _ => if x.falls then { x with pt := p, target := none } else x.transferTo p)
      | none =>
        if s.eng = .scu then
          match loopBack s.cur.loops (Line.stopPt l x.pt) [3, 2, 1, 0] with
          | (some start, loops) => (s.modCur (fun k => { k with loops := loops })).modCtx (fun _ => x.transferTo start)
          | (none, loops) =>
            let s := s.modCur (fun k => { k with loops := loops })
            match Line.follow l x.pt with
            | some p => s.modCtx (fun _ => { x with pt := p })
            | none => s.modCtx (fun _ => { x with run := .halting })
        else
          match Line.follow l x.pt with
          | some p => s.modCtx (fun _ => { x with pt := p })
          | none => s.modCtx (fun _ => { x with run := .halting })

/-- The syllable of a 64-bit instruction with an illegal field that is at fault: the second where its bit 31 alone is wrong
(R29, R35). -/
def Line.illSyl (l : Line) (e : Engine) (n : Nat) : Nat :=
  let w := Line.word l n
  let w2 := Line.word l (n + 1)
  match decode e w (w2 &&& 0x7FFFFFFF) with
  | .ok _ => if sylIsWide w then n + 1 else n
  | .error _ => n

/-- An encoding fault as a trap names it: code, line address, and the syllable with its index (R35, R363). -/
def Line.encFault (l : Line) (p : W64) (code : BitVec 8) (n : Nat) : BitVec 8 × W64 × W64 :=
  (code, ptLine p, (Line.word l n).setWidth 64 ||| field (BitVec.ofNat 4 n) 32)

/-- The first encoding fault of a group's members, in syllable order (R35): its code and the index of its syllable. -/
def State.memberFault (s : State) (l : Line) (ms : List (Nat × Syl × Except DecodeFault Instr)) : Option (BitVec 8 × Nat) :=
  ms.findSome? (fun m =>
    match m.2.2 with
    | .error .illOp => some (1, m.1)
    | .error .illField => some (2, Line.illSyl l s.eng m.1)
    | .ok i => if s.fieldBad i then some (2, m.1) else none)

/-- The new point of an ERET that issues now, with the engine whose stream resumes there (R381). -/
def State.returnsTo (s : State) (a : GField) (newpt : Bool) : Option (Engine × W64) :=
  s.cur.hand.bind (fun h =>
    if newpt ∧ h.rec_.kind ≠ 2 ∧ h.rec_.kind ≠ 3 ∧ (unmetPops s.cur [a.qref]).isEmpty then some (h.rec_.eng, (s.cur.readG a).1)
    else none)

/-- The point to which an instruction transfers if its group issues now: its guard holds, and its operand is there (R112, R113, R381);
with the engine that resumes there, for an ERET. -/
def State.takes (s : State) (i : Instr) : Option (Option Engine × W64) :=
  match i with
  | .br l y g => if s.cur.guardP g then some (none, s.labelPt l y) else none
  | .jmp l y => some (none, s.labelPt l y)
  | .call l y g => if s.cur.guardP g then some (none, s.labelPt l y) else none
  | .jmpr a g => if s.cur.guardP g ∧ (unmetPops s.cur [a.qref]).isEmpty then some (none, (s.cur.readG a).1) else none
  | .ret g => if s.cur.guardP g then some (none, s.cur.scu.ar 15) else none
  | .eret a _ np => (s.returnsTo a np).map (fun x => (some x.1, x.2))
  | _ => none

/-- What a taken transfer of the group meets: ILL_LINK or ILL_LINE, of the target or of the transfer itself, comes before the
group's other encoding faults (R35, R111, R381). `.error p` where the line of the target must be fetched first. -/
def State.linkFault (s : State) (l : Line) (ms : List (Nat × Syl × Instr)) :
    Option (Except (Option Engine × W64) (Option (BitVec 8 × W64 × W64))) :=
  ms.findSome? (fun m => (s.takes m.2.2).map (fun p =>
    match (match p.1 with
      | none => s.targetFault p.2
      | some e => s.pointFault s.focus e p.2) with
    | none => .error p
    | some f =>
      let own :=
        match m.2.2 with
        | .call _ _ _ => s.callFault l (BitVec.ofNat 4 m.1)
        | _ => none
      .ok ((firstLink own f).filter (fun f => decide (f.1 ≠ 3)))))

/-- A group with an encoding fault `f` of its own traps, with it or with what its taken transfer meets, by the order of R35. -/
def State.encodingTrap (s : State) (l : Line) (ms : List (Nat × Syl × Instr)) (f : BitVec 8 × W64 × W64) : State :=
  match s.linkFault l ms with
  | some (.error p) =>
    let t := s.modCtx (fun x => { x with why := [] })
    s.keepWaiting (if p.1.isNone then t.askLine p.2 else t.needLine p.2) (ms.map (fun m => m.2.2))
  | some (.ok (some t)) => s.faultTrap (if t.1 = 5 ∨ f.1 ≠ 4 then t else f)
  | some (.ok none) | none => s.faultTrap f

/-- A fault of the point at which an engine reaches a line (R28, R30): of the checks of a FORK's target where it has just been
started (R115). -/
def State.startTrap (s : State) (f : BitVec 8 × W64 × W64) : State :=
  s.takeTrap s.focus { s.groupRec f.1 f.2.1 f.2.2 with entry := s.ctx.starting }

/-- Issues a decoded group whose checks have passed. A closed queue traps before what a transfer of the group meets at its target
(log 25). -/
def State.issueGroup (s : State) (l : Line) (ms : List (Nat × Syl × Instr)) : Host.Outcome State Fault Refusal :=
  let is := ms.map (fun m => m.2.2)
  match s.groupClosed is with
  | some q => .next ((s.modCtx (fun x => { x with wait := none })).qClosed q)
  | none =>
    let order := ms.filter (fun m => readsFirst m.2.2) ++ ms.filter (fun m => !readsFirst m.2.2)
    let s0 := s.modCtx (fun x => { (x.keepLine (ptLine x.pt) l) with stuck := false, why := [], target := none, falls := false })
    if s.eng = .ce ∧ s.cur.ceBusy s.cycle then .next (s.keepWaiting (s0.noteWait [.order]) is)
    else
    match runMembers none order s0 with
    | .fault f => .fault f
    | .refused r => .refused r
    | .trapped r => .next ((s.modCtx (fun x => { x with wait := none })).takeTrap s.focus r)
    | .stuck t => .next (s.keepWaiting t is)
    | .parked t => .next (s.keepParked t)
    | .issued t =>
      if s.waitsBank t then .next (s.keepWaiting (s0.noteWait [.bank]) is)
      else
      let t := s.takeGroup t
      if s.cur.hand.isSome ∧ t.cur.hand.isNone then .next t else .next (t.moveOn l is)

/-- One issue slot of an engine: the line, encoding and group checks of R28 to R35, then the group. Among the group rules those of
R31 to R33 are tested before R30's of a start in mid-group (log 25). -/
def State.issueAt (s : State) : Host.Outcome State Fault Refusal :=
  let e := s.eng
  let p := s.ctx.pt
  match s.cached s.focus p with
  | none => .next s
  | some l =>
    let s := s.modCtx (fun x => { x with frozen := false })
    let y := (ptSyl p).toNat
    if Line.engine l ≠ e then .next (s.startTrap (5, ptLine p, linkDetail l (ptSyl p)))
    else if Line.startFault l y = some 4 then .next (s.startTrap (4, ptLine p, linkDetail l (ptSyl p)))
    else
      let ms := Line.members l e y
      let ok := ms.filterMap (fun m => (m.2.2.toOption).map (fun i => (m.1, m.2.1, i)))
      if Line.brokenAt l y then .next (s.encodingTrap l ok (4, ptLine p, linkDetail l (Line.badSyl l)))
      else
        match s.memberFault l ms with
        | some (code, n) => .next (s.encodingTrap l ok (Line.encFault l p code n))
        | none =>
          match groupFault e (ok.map (fun m => m.2.2.uses e)) with
          | some n => .next (s.encodingTrap l ok (Line.encFault l p 3 (ok.getD n (y, 0, .nop)).1))
          | none =>
            if Line.startFault l y = some 3 then
              (match s.linkFault l ok with
                | some (.ok none) | none => .next (s.startTrap (Line.encFault l p 3 y))
                | some _ => .next (s.encodingTrap l ok (Line.encFault l p 3 y)))
            else (s.modCtx (fun x => { x with starting := false })).issueGroup l ok

/-- An HCALL of the SCU is pending: it issues no group until it completes (R380); one that has trapped waits for the
handler. -/
def Core.hcallPending (k : Core) : Bool :=
  k.scu.ops.any (fun o =>
    match o.instr with
    | .hcall _ _ _ _ => decide (o.status ≠ .trapped)
    | _ => false)

/-- A group that has come to issue in this cycle and waited for room in a queue. -/
def Ctx.pushStuck (x : Ctx) (now : Nat) : Bool :=
  x.wait.any (fun w => decide (w.last = now) && w.causes.any (fun c =>
    match c with
    | .push _ => true
    | .pop _ | .flag | .token | .fork | .join | .order | .hold | .bank => false))

/-- The cycle in which an engine's FWAIT began to wait: this one where its group does not wait yet; none where its group holds
none (R99). -/
def State.fwaitSince (s : State) (c : Nat) (e : Engine) : Option Nat :=
  if (s.groupAt c e).any (fun i =>
      match i with
      | .fwait _ _ _ => true
      | _ => false) then some ((((s.core c).ctx e).wait.map (fun w => w.since)).getD s.cycle)
  else none

/-- Places an engine among those whose groups hold an FWAIT: oldest first (R99). -/
def insertSince (e : Engine) (n : Nat) : List (Engine × Nat) → List (Engine × Nat)
  | [] => [(e, n)]
  | (f, m) :: r => if n < m then (e, n) :: (f, m) :: r else (f, m) :: insertSince e n r

/-- The order in which engines of a core issue in a cycle: those whose groups hold no FWAIT, then the others, oldest FWAIT first
and in engine order where two began together (R99). -/
def State.issueOrder (s : State) (c : Nat) (es : List Engine) : List Engine :=
  let old := es.foldl (fun l e =>
    match s.fwaitSince c e with
    | none => l
    | some n => insertSince e n l) []
  es.filter (fun e => (s.fwaitSince c e).isNone) ++ old.map (fun p => p.1)

/-- A queue has more room than it had. -/
def Core.freed (k before : Core) : Bool :=
  (List.range 8).any (fun n =>
    decide ((k.queue (BitVec.ofNat 3 n)).slots.length < (before.queue (BitVec.ofNat 3 n)).slots.length))

/-- What follows an issue slot that has popped queues: a slot freed in a cycle takes a push of the same cycle (R96), so groups of
the core that waited for room try again. -/
def State.retries (s : State) (before : Core) (c : Nat) : State :=
  if (s.core c).freed before then
    { s with turn := (s.issueOrder c (engines.filter (fun e => ((s.core c).ctx e).pushStuck s.cycle))).map (fun e =>
        ({ core := c, eng := e, again := true, late := false } : IssueSlot)) ++ s.turn }
  else s

/-- The flags that the FWAITs of an engine's group name. -/
def State.fwaitFlags (s : State) (c : Nat) (e : Engine) : List (BitVec 4) :=
  (s.groupAt c e).filterMap (fun i =>
    match i with
    | .fwait f _ _ => some f
    | _ => none)

/-- An older FWAIT on a flag that an engine's group waits for has found no room in a queue in this cycle, which a group still to issue
may make (R96, R99): the engines of one core come oldest FWAIT first. -/
def State.yieldsFlag (s : State) (c : Nat) (e : Engine) : Bool :=
  engines.any (fun f => decide (f ≠ e) && ((s.core c).ctx f).pushStuck s.cycle &&
    (s.fwaitFlags c f).any (fun n => (s.fwaitFlags c e).contains n))

/-- Puts an issue slot behind the others of its core. -/
def State.putOff (s : State) (t : IssueSlot) : State :=
  { s with turn := s.turn.takeWhile (fun u => decide (u.core = t.core)) ++ { t with late := true } ::
      s.turn.dropWhile (fun u => decide (u.core = t.core)) }

/-- An issue slot (R27, R52, R96, R99): a bubble passes, or the engine's group issues if it may. A further slot of a cycle is for
groups that waited for room in a queue, and one whose FWAIT must let such a group go first comes behind the others. -/
def State.issueSlot (s : State) (t : IssueSlot) : Host.Outcome State Fault Refusal :=
  let x := (s.core t.core).ctx t.eng
  if !s.mayIssue t.core t.eng ∨ (t.eng = .scu ∧ (s.core t.core).hcallPending) then .next s
  else if t.again ∧ !x.pushStuck s.cycle then .next s
  else if x.bubble ≠ 0 then .next (s.modCore t.core (fun k => k.modCtx t.eng (fun x => { x with bubble := x.bubble - 1 })))
  else if !t.late ∧ s.yieldsFlag t.core t.eng then .next (s.putOff t)
  else
    match (s.at_ t.core t.eng).issueAt with
    | .next u => .next (u.retries (s.core t.core) t.core)
    | o => o

end Sys2Proof.Machine
end

