-- ==== Sys2Proof/Machine/Cycle.lean ====
section
/-!
DEFINITION. The end of a cycle (R20, R84, R86, R92, R94, R98) and the issue slots of the next one (log 2).
-/

namespace Sys2Proof.Machine

/-- The landing buffers of the engines that count go down by one (R86). -/
def Core.countLandings (k : Core) (counts : Engine → Bool) : Core :=
  engines.foldl (fun k e => if counts e then k.modCtx e Ctx.countDown else k) k

/-- An engine's landing buffer at the end of a cycle: the write slots are free again, and it stands still in the next cycle where
`stands` says so (R85, R86). -/
def Core.endLandings (k : Core) (stands : Engine → Bool) : Core :=
  engines.foldl (fun k e => k.modCtx e (fun x => { x with landed := [], frozen := stands e })) k

/-- An engine's group waited for stash banks in a cycle (R159). -/
def Core.bankStall (k : Core) (now : Nat) (e : Engine) : Bool :=
  !k.parked e && (k.ctx e).wait.any (fun w => decide (w.last = now) && w.causes.contains .bank)

/-- STALLC counts a cycle in which an engine of the core stalls, or waits for stash banks (R92). -/
def Core.countStall (k : Core) (now : Nat) : Core :=
  if engines.any (fun e => k.stalls e || k.bankStall now e) then { k with stallc := k.stallc + 1 } else k

/-- A channel at the end of a cycle: a CSTAT has cleared the sticky bits that were not raised in it (R297). -/
def Channel.endCycle (x : Channel) : Channel :=
  { x with sticky := if x.clear then x.raised else x.sticky, raised := 0, clear := false }

/-- The end of a cycle in one core: what MTS, flags and configurations changed takes effect, stalls are counted, landing
buffers count down, and the copy engine's rates start anew (R292). -/
def State.endCycle (s : State) (c : Nat) : Core :=
  { (((s.core c).doLates.countStall s.cycle).countLandings (s.counts c)).endLandings (s.stands c) with
    moved := [], bankWaits := (s.core c).bankWaits.filter (fun x => decide (x.tried = s.cycle))
    chans := (s.core c).chans.map (fun x => (x.1, x.2.endCycle)) }

/-- Engines that wait on a queue whose new configuration no longer connects them trap Q_CLOSED (R98). -/
def State.cutOffs (s : State) (c : Nat) : State :=
  engines.foldl (fun s e =>
    match (s.core c).cutOff e with
    | none => s
    | some q => ((s.modCore c (fun k => k.modCtx e (fun x => { x with wait := none }))).at_ c e).qClosed q) s

/-- Cycles per microsecond: the clock that DEVSTAT shows, or 3,600 before one is set (log 6). -/
def State.clockMhz (s : State) : Nat := if s.dev.clock = 0 then 3600 else s.dev.clock.toNat

/-- GTIME moves on by some nanoseconds; while a correction is due, one nanosecond in 10,000 is added or left out (R20). -/
def State.advanceTime (s : State) (n : Nat) : State :=
  if s.slew = 0 then { s with gtime := s.gtime + BitVec.ofNat 64 n }
  else
    let p := s.slewPhase + n
    if p < 10000 then { s with gtime := s.gtime + BitVec.ofNat 64 n, slewPhase := p }
    else if 0 < s.slew then { s with gtime := s.gtime + BitVec.ofNat 64 (n + 1), slew := s.slew - 1, slewPhase := p - 10000 }
    else { s with gtime := s.gtime + BitVec.ofNat 64 (n - 1), slew := s.slew + 1, slewPhase := p - 10000 }

/-- GTIME after one more cycle (R20; log 6). -/
def State.tickTime (s : State) : State :=
  let t := s.gphase + 1000
  { s with cycle := s.cycle + 1, gphase := t % s.clockMhz }.advanceTime (t / s.clockMhz)

/-- The issue slots of a core in a cycle. -/
def State.coreTurns (s : State) (c : Nat) : List IssueSlot :=
  (s.issueOrder c (engines.filter (fun e => decide (((s.core c).ctx e).run = .running)))).map (fun e =>
    { core := c, eng := e, again := false, late := false })

/-- The special registers that an engine's next group reads and that others may change in the cycle, as they stand now (R94, R117). -/
def State.latchFor (s : State) (c : Nat) (e : Engine) : List (Engine × SReg × W64) :=
  (s.groupAt c e).filterMap (fun i =>
    match i with
    | .mfs _ .gtime _ | .mfs _ .ptime _ => none
    | .mfs _ r _ => some (e, r, s.sreg c e r)
    | .qstat _ q _ => some (e, .qcfg q, s.sreg c e (.qcfg q))
    | _ => none)

/-- The same of the engines of a core: of an MX that the SCU may start in the cycle (R115) too, its lease status. -/
def State.latch (s : State) (c : Nat) : List (Engine × SReg × W64) :=
  let starts := (s.groupAt c .scu).any (fun i =>
    match i with
    | .fork .mx _ _ _ => true
    | _ => false)
  (engines.map (s.latchFor c)).flatten ++ (if starts then [(.mx, .leasest, s.sreg c .mx .leasest)] else [])

/-- WP and the CSTAT word of each channel, as they stand now, where the CE's next group reads one (R294, R297). -/
def State.latchChans (s : State) (c : Nat) : List (W64 × W64) :=
  let reads := (s.groupAt c .ce).any (fun i =>
    match i with
    | .cwprd _ _ _ _ | .cstat _ _ _ _ => true
    | _ => false)
  if reads then (List.range 8).map (fun n =>
    (((s.core c).chan (BitVec.ofNat 3 n)).wp, (s.core c).cstat (BitVec.ofNat 3 n))) else []

/-- The leases of arrays at the start of a cycle: a tenure that has idled ends, and a free lease passes on (R223, R233). -/
def State.passLeases (s : State) : State :=
  (clustersOf ((s.cores.filter (fun (ck : Nat × Core) => decide (ck.2.inst ≠ 0) && decide ((s.instOf ck.1).status = .running))).map
    (fun ck => ck.1))).foldl (fun (t : State) cl =>
      let t := if t.idleOut cl then t.endTenure cl t.cycle else t
      match t.nextHolder cl with
      | none => t
      | some p => arbitrateEffect cl p t) s

/-- The bridge ports in a cycle that begins a ring cycle (R302, R303). -/
def State.ringTurn (s : State) : State :=
  if s.waiting.isEmpty ∨ s.cycle % ringCycles ≠ 0 then s else s.turnBacks.injectAll

/-- The issue slots of a cycle. -/
def State.turns (s : State) : List IssueSlot :=
  ((s.cores.filter (fun (ck : Nat × Core) => decide (ck.2.inst ≠ 0))).map (fun (ck : Nat × Core) => s.coreTurns ck.1)).flatten

/-- Releases of timed copies that are due in the cycle, at most one for a core: they come before its groups (R286). -/
def State.releases (s : State) : List Instr :=
  s.cores.filterMap (fun (ck : Nat × Core) =>
    if ck.2.caddy.isEmpty ∨ (s.dueTimed ck.1).isNone then none else some (Instr.caddyRelease ck.1))

/-- The samples of stall wires that are due: one for each nanosecond of global time, before anything that reads panel time (R91,
R287). -/
def State.sampleAll (s : State) : State :=
  s.insts.foldl (fun (t : State) (i : Nat × Inst) =>
    if s.sampleDue i.1 then (List.range (s.gtime.toNat - i.2.sampled.toNat)).foldl (fun (t : State) _ => t.sampleWire i.1) t
    else t) s

/-- THE END OF A CYCLE. -/
def State.tick (s : State) : State :=
  let t := { s with
    claims := [], barStage := 0
    cores := s.cores.foldl (fun (t : Tbl Core) (ck : Nat × Core) => t.set Core.init ck.1 (s.endCycle ck.1)) s.cores }
  let t := t.cores.foldl (fun (t : State) (ck : Nat × Core) => t.cutOffs ck.1) t
  let t := t.clusters.foldl (fun (t : State) (x : Nat × Cluster) => t.countIdle x.1) t
  let t := t.tickTime.sampleAll.passLeases.ringTurn
  let t := { t with cores := t.cores.foldl (fun (l : Tbl Core) (ck : Nat × Core) =>
    l.set Core.init ck.1 { ck.2 with latched := t.latch ck.1, chanSeen := t.latchChans ck.1 }) t.cores }
  { t with turn := t.turns, agenda := t.releases }

end Sys2Proof.Machine
end

