-- ==== Sys2Proof/Machine/Auto.lean ====
section
/-!
DEFINITION. The model's schedule of the hardware's own steps (log 2): which of them is taken next once every issue slot of a
cycle is used. The order is the model's; a step that is not enabled is never chosen. What comes from outside (the host, the
slice manager's decisions, other packages, errors) is taken from the agenda alone.
-/

namespace Sys2Proof.Machine

/-- What a step answers. -/
abbrev Answer : Type := Host.Outcome State Fault Refusal

/-- Cores that run an instance which is running. -/
def State.runningCores (s : State) : List Nat :=
  (s.cores.filter (fun (ck : Nat × Core) => decide (ck.2.inst ≠ 0) && decide ((s.instOf ck.1).status = .running))).map (fun ck => ck.1)

/-- Cores whose arrays go on (R392, R394). -/
def State.arrayCores (s : State) : List Nat :=
  (s.cores.filter (fun (ck : Nat × Core) => decide (ck.2.inst ≠ 0) && s.arrayRuns ck.1)).map (fun ck => ck.1)

/-- The first answer of a list of cores and engines. -/
def firstOf (cs : List Nat) (f : Nat → Engine → Option Answer) : Option Answer :=
  cs.findSome? (fun c => engines.findSome? (fun e => f c e))

/-- An instruction with a step of its own to perform in `performOp`. -/
def performs (i : Instr) : Bool :=
  match i with
  | .ld _ _ _ _ | .ldn _ _ _ _ | .lda _ _ _ _ | .st _ _ _ _ | .atm _ _ _ _ _ _ | .acas _ _ _ _ _ | .acas2 _ _ _ _ => true
  | .stbind _ _ _ | .stunbd _ _ | .stflsh _ _ | .stdrop _ _ | .sttch _ _ | .cflsh _ _ _ | .cinv _ _ _ | .cdisc _ _ _ => true
  | .rld _ _ _ _ | .rst _ _ _ _ | .ratm _ _ _ _ _ | .rcas _ _ _ _ _ | .casn _ _ _ _ | .enq _ _ _ _ | .deq _ _ _ _ => true
  | .chase _ _ _ _ | .fadd _ _ _ _ | .fminloc _ _ _ _ | .rfence _ | .mtrrd _ _ _ => true
  | .vld _ _ _ | .vldq _ _ _ _ | .vldt _ _ _ _ | .vst _ _ _ | .vstm _ _ _ _ | .vscat _ _ _ _ _ _ | .vpref _ _ _ _ _ => true
  | .vgath _ _ _ _ _ _ | .xld _ _ _ | .xst _ _ _ | .fset _ _ _ | .mark _ | .tlrd _ _ _ => true
  | .binit _ _ _ _ | .binv _ _ _ _ | .btry _ _ _ _ | .barr _ _ _ _ | .bwait _ _ _ _ => true
  | .cwprd _ _ _ _ | .cstat _ _ _ _ | .cbuf _ _ _ _ | .ccan _ _ _ | .cgrp _ _ _ | .mrd _ _ _ | .meps _ _ _ _ _ => true
  | _ => false

/-- The lane of an operation that can perform now; none where there is none (R170, R177). -/
def State.performLane (s : State) (c : Nat) (e : Engine) (o : PendOp) : Option Nat :=
  if !performs o.instr || s.turnedAway c (.op e o.num) || s.ccanWaits c o || !s.mayPerform c e o then none
  else if o.instr.isReadout then (if s.rowDue c o then some 0 else none)
  else if o.mpc = 0 then some 0
  else
    match o.instr with
    | .vgath _ _ sh _ _ _ => (List.range 64).find? (fun j => laneFree o j && s.laneDue o sh j)
    | _ => some 0

/-- Place of an operation's next access among claimants of equal age (R159): it comes behind the engines' own accesses and the CE's
where it brings a fill, a write-back or an access that the directory sends. -/
def State.opRank (s : State) (c : Nat) (e : Engine) (o : PendOp) (j : Nat) : Nat :=
  match performOp c e j o { s with claims := [] } with
  | .next t => rankOf (claimRank e) t.claims
  | .fault _ | .refused _ => claimRank e

/-- The operations of a core of one kind, with places in a range, that can perform now, oldest first (R159, R188): what a fill, a
write-back or the directory brings has arisen in this cycle. -/
def State.performable (s : State) (c : Nat) (kind : Instr → Bool) (lo hi : Nat) : List (Nat × Nat × Engine × Nat × Nat) :=
  byAge ((engines.map (fun e => ((s.core c).ctx e).ops.filterMap (fun o =>
    if kind o.instr then
      (s.performLane c e o).bind (fun j =>
        let r := s.opRank c e o j
        if lo ≤ r ∧ r ≤ hi then some (if ceRank < r then s.cycle else o.issued, r, e, o.num, j) else none)
    else none))).flatten)

/-- The oldest operation of a core of one kind, with a place in a range, performs (R159, R188). -/
def State.oldestStep (s : State) (c : Nat) (kind : Instr → Bool) (lo hi : Nat) : Option Answer :=
  ((s.performable c kind lo hi).head?).map (fun x => execMemoryAccessPerform c x.2.2.1 x.2.2.2.1 x.2.2.2.2 s)

/-- An operation of an engine of one kind performs. -/
def State.performStep (s : State) (c : Nat) (e : Engine) (kind : Instr → Bool) : Option Answer :=
  ((s.core c).ctx e).ops.findSome? (fun o =>
    if kind o.instr then (s.performLane c e o).map (fun j => execMemoryAccessPerform c e o.num j s) else none)

/-- BINIT and BINV, which come before the landings of a cycle (R207). -/
def isBarSet (i : Instr) : Bool :=
  match i with
  | .binit _ _ _ _ | .binv _ _ _ _ => true
  | _ => false

/-- BARR (R207). -/
def isBarr (i : Instr) : Bool :=
  match i with
  | .barr _ _ _ _ => true
  | _ => false

/-- BTRY (R207). -/
def isBtry (i : Instr) : Bool :=
  match i with
  | .btry _ _ _ _ => true
  | _ => false

/-- BWAIT (R207). -/
def isBwait (i : Instr) : Bool :=
  match i with
  | .bwait _ _ _ _ => true
  | _ => false

/-- TLRD, which sees every advance of its target's T in the cycle (R218). -/
def isTlrd (i : Instr) : Bool :=
  match i with
  | .tlrd _ _ _ => true
  | _ => false

/-- CCAN, which comes after the landings of its cycle (R300, R356). -/
def isCcan (i : Instr) : Bool :=
  match i with
  | .ccan _ _ _ => true
  | _ => false

/-- An operation whose place in a cycle is not that of its age (R218, R229, R300). -/
def placed (i : Instr) : Bool := (Instr.barStage i).isSome || isTlrd i || isCcan i || i.isReadout

/-- An operation whose place in a cycle is that of its claims performs, of the cores in ascending order (R159, R188). -/
def State.accessStep (s : State) (lo hi : Nat) : Option Answer :=
  s.runningCores.findSome? (fun c => s.oldestStep c (fun i => !placed i) lo hi)

/-- Channels in the order of the round robin: one that is being served goes on, up to its share (R292). -/
def Core.serving (k : Core) : List Nat :=
  let after := (List.range 8).map (fun j => (k.served + 1 + j) % 8)
  if 0 < k.moved.get 0 k.served ∧ k.moved.get 0 k.served < 128 then k.served :: after else after

/-- A channel lands the next run of its copy, or its collective reads or sends its source; one that waits on another package stays. -/
def State.chanStep (s : State) (c n : Nat) : Option Answer :=
  let k := s.core c
  let ch := BitVec.ofNat 3 n
  if k.left n = 0 ∨ s.turnedAway c (.chan n) ∨ (s.movingJob c ch).isNone then none
  else
    match execCopyLanding c ch none s with
    | .next t => if ((t.core c).chan ch) = k.chan ch ∧ !t.turnedAway c (.chan n) then none else some (.next t)
    | o => some o

/-- A result of a channel's collective lands, or an answer to it is taken (R344). -/
def State.resultStep (s : State) (c n : Nat) : Option Answer :=
  let ch := BitVec.ofNat 3 n
  if (s.core c).left n = 0 ∨ s.turnedAway c (.chan n) then none
  else
    (s.collJob c ch).bind (fun (j, h) =>
      if (s.heldRefusal c j h).isSome ∨ (s.nextAnswer c j h).isSome ∨ (s.nextItem c j h).isSome then
        some (execCollectiveResultLanding c ch none s)
      else none)

/-- A channel of a core lands, in the order of the round robin (R292). -/
def State.landStep (s : State) (c : Nat) : Option Answer :=
  (s.core c).serving.findSome? (fun n => s.chanStep c n <|> s.resultStep c n)

/-- A channel makes the credit that it owes first (R280): by ascending core, then channel (R218). -/
def State.creditStep (s : State) : Option Answer :=
  s.runningCores.findSome? (fun c => (List.range 8).findSome? (fun n =>
    let ch := BitVec.ofNat 3 n
    (s.creditDue c ch).map (fun x => s.makeCredit c ch x)))

/-- A copy completes. -/
def State.copyDone (s : State) (c : Nat) : Option Answer :=
  (List.range 8).findSome? (fun n =>
    let ch := BitVec.ofNat 3 n
    match s.movingJob c ch with
    | none => none
    | some j =>
      let x := (s.core c).chan ch
      if j.kind.copies ∧ j.landedAll x.prog ∧ x.owed = [] then some (execCopyComplete c ch s) else none)

/-- An ordering operation of an engine completes: FENCE, TLSIG. -/
def State.orderStep (s : State) (c : Nat) (e : Engine) : Option Answer :=
  ((s.core c).ctx e).ops.findSome? (fun o =>
    if (s.orderTurn c e o.num).isNone then none
    else
      match o.instr with
      | .fence _ _ _ _ => some (execFenceComplete c e o.num s)
      | .tlsig _ _ => some (execTlsigComplete c e o.num s)
      | _ => none)

/-- A TLWAIT or BWAIT of an engine ends. -/
def State.waitStep (s : State) (c : Nat) (e : Engine) : Option Answer :=
  ((s.core c).ctx e).ops.findSome? (fun o =>
    let try_ (r : Answer) : Option Answer :=
      match r with
      | .next t => if ((t.core c).ctx e).op? o.num = some o then none else some (.next t)
      | o => some o
    match o.instr with
    | .tlwait _ _ _ => try_ (execTlwaitComplete c e o.num s)
    | .bwait _ _ _ _ =>
      if o.status = .departed ∧ !s.turnedAway c (.op e o.num) then try_ (execBwaitComplete c e o.num s) else none
    | _ => none)

/-- A contribution of a core's collective reaches a unit of this package. -/
def State.partStep (s : State) (c : Nat) : Option Answer :=
  (List.range 8).findSome? (fun n => ((s.outgoing c (BitVec.ofNat 3 n)).head?).map (fun k =>
    execContributionArrival (BitVec.ofNat 3 (k.dest.toNat / 256)) k s))

/-- A collective completes. -/
def State.collStep (s : State) (c : Nat) : Option Answer :=
  (List.range 8).findSome? (fun n =>
    let ch := BitVec.ofNat 3 n
    (s.collJob c ch).bind (fun (j, h) =>
      if s.collDone c j h && !s.turnedAway c (.chan n) then some (execCollectiveComplete c ch s) else none))

/-- An element is reduced at its owner. -/
def State.reduceStep (s : State) : Option Answer :=
  s.xops.findSome? (fun (x : XOp) =>
    match x.own with
    | none => none
    | some h =>
      ((h.ownedBy h.rank.toNat).find? (fun e => x.reducible e)).map (fun e =>
        execElementReduce (BitVec.ofNat 3 (x.core / 256)) x.gid x.seq e s))

/-- A remote instruction takes its reply; a reply that migration lost is negative (R403). -/
def State.remoteStep (s : State) (c : Nat) : Option Answer :=
  (s.core c).scu.ops.findSome? (fun o =>
    if o.instr.request.isNone ∨ o.status ≠ .departed ∨ s.turnedAway c (.op .scu o.num) then none
    else
      match o.reply? with
      | none => if s.lateHere c ∧ o.first = 0 then some (execReplyTimeout c o.num s) else none
      | some _ =>
        match execRemoteReply c o.num none s with
        | .next t => if (t.core c).scu.op? o.num = some o ∧ !t.turnedAway c (.op .scu o.num) then none else some (.next t)
        | o => some o)

/-- A copy whose answer migration lost (R403). -/
def State.lateStep (s : State) (c : Nat) : Option Answer :=
  if !s.lateHere c then none
  else
    (List.range 8).findSome? (fun n =>
      match s.movingJob c (BitVec.ofNat 3 n) with
      | none => none
      | some j => if (s.waitingChan c j.num).isSome then some (execReplyTimeout c j.num s) else none)

/-- Steps of a core's matrix engine but the beginning of commands. -/
def State.mxStep (s : State) (c : Nat) : Option Answer :=
  match (s.core c).mx.ops.find? (fun o => s.tileReady c o || s.tileLands c o) with
  | some o => some (execTileLoadPerform c o.num s)
  | none =>
    if (s.forms c).isSome then some (execInfuserTileForm c s)
    else none

/-- What begun commands still do (R229, R244). -/
def State.arrayStep (s : State) (c : Nat) : Option Answer :=
  match s.performStep c .mx (fun i => i.isReadout) with
  | some o => some o
  | none =>
    if (s.mrdxDue c).isSome then some (execMrdxPush c s)
    else
      match (s.core c).mx.ops.find? (fun o => (s.core c).mstatDue o || s.commandDone c o) with
      | some o => some (execArrayCommandComplete c o.num s)
      | none => none

/-- The lease of a cluster: a tenure that has idled ends, and a free lease passes on (R223). -/
def State.leaseStep (s : State) (cl : Nat) : Option Answer :=
  if s.idleOut cl then some (execLeaseIdleTimeout cl s)
  else if (s.nextHolder cl).isSome then some (execLeaseArbitration cl s)
  else none

/-- The clusters of the cores that run. -/
def State.runningClusters (s : State) : List Nat := clustersOf s.runningCores

/-- Steps of a core's engines in a cycle, before results land. -/
def State.engineSteps (s : State) : Option Answer :=
  let cs := s.runningCores
  firstOf cs (fun c e => s.performStep c e isBarSet) <|>
  s.accessStep 0 ceRank <|>
  cs.findSome? (fun c => s.mxStep c) <|>
  s.arrayCores.findSome? (fun c => s.arrayStep c) <|>
  cs.findSome? (fun c => s.partStep c) <|>
  s.reduceStep <|>
  cs.findSome? (fun c => s.landStep c) <|>
  s.accessStep fillRank fillRank <|>
  s.accessStep backRank backRank <|>
  s.accessStep dirRank dirRank <|>
  s.creditStep <|>
  cs.findSome? (fun c => s.copyDone c) <|>
  cs.findSome? (fun c => s.collStep c) <|>
  firstOf cs (fun c e => s.performStep c e isCcan) <|>
  cs.findSome? (fun c => if (s.divideDue c).isSome then some (execDivideComplete c s) else none) <|>
  cs.findSome? (fun c => if (s.unitDue c).isSome then some (execVeUnitComplete c s) else none) <|>
  s.agentStep <|>
  cs.findSome? (fun c => s.remoteStep c) <|>
  cs.findSome? (fun c => s.lateStep c) <|>
  s.answerFar.map (fun t => .next t) <|>
  s.runningClusters.findSome? (fun cl => s.leaseStep cl) <|>
  cs.findSome? (fun c => if s.beginsNow c then some (execArrayCommandBegin c s) else none) <|>
  cs.findSome? (fun c => ((s.core c).scu.ops.find? (fun o => (s.icinvDue o).isSome)).map (fun o => execIcinvComplete c o.num s)) <|>
  firstOf cs (fun c e => s.orderStep c e) <|>
  firstOf cs (fun c e => s.performStep c e isBarr)

/-- An answer to a claimant of stash banks whose claim is older than this cycle (R159). -/
def State.serveClaim (s : State) (c : Nat) (w : Claimant) : Option Answer :=
  match w with
  | .chan n => s.chanStep c n <|> s.resultStep c n
  | .fetch e => if (s.wantedLine c e).isSome then some (execInstructionFetch c e s) else none
  | .far at_ r => if s.arrived.contains (at_, r) then s.serveFar (at_, r) else none
  | .op e num =>
    (((s.core c).ctx e).op? num).bind (fun o =>
      if (Instr.barStage o.instr).isSome then none
      else if o.instr.request.isSome ∧ o.status = .departed then s.serveHere c num
      else if o.instr.tileOf.isSome then (if s.tileReady c o then some (execTileLoadPerform c num s) else none)
      else (s.performLane c e o).map (fun j => execMemoryAccessPerform c e num j s))

/-- Claimants of stash banks at a core that are older than this cycle and have not had their turn in it: those that wait, tile loads
under way and the rows of begun readouts (R159). -/
def State.coreClaims (s : State) (c : Nat) : List (Nat × Nat × Nat × Claimant) :=
  let k := s.core c
  let tiles := (k.mx.ops.filter (fun o => o.instr.tileOf.isSome && decide (o.issued < s.cycle))).map (fun o =>
    (o.issued, claimRank .mx, c, Claimant.op .mx o.num))
  let rows := (k.mx.ops.filter (fun o => o.instr.isReadout && k.begun o)).map (fun o =>
    (k.beganAt o.num, readoutRank, c, Claimant.op .mx o.num))
  let waits := (k.bankWaits.filter (fun x => decide (x.since < s.cycle) && decide (x.tried < s.cycle) &&
    !(tiles ++ rows).any (fun y => decide (y.2.2.2 = x.who)))).map (fun x => (x.since, x.rank, c, x.who))
  waits ++ tiles ++ rows

/-- The same of all cores, oldest first: claimants of different cores may claim the banks of one stash (R159). -/
def State.oldClaims (s : State) : List (Nat × Nat × Nat × Claimant) := byAge ((s.runningCores.map s.coreClaims).flatten)

/-- A claimant that has been served waits no more. -/
def Core.dropClaim (k : Core) (w : Claimant) (now : Nat) : Core :=
  { k with bankWaits := k.bankWaits.filter (fun x => decide (x.who ≠ w) || decide (x.tried = now)) }

/-- What comes before the groups of a cycle: older claimants of stash banks are served before the SCU's and the VE's accesses
(R159). -/
def State.earlySteps (s : State) : Option Answer :=
  s.oldClaims.findSome? (fun x =>
    (s.serveClaim x.2.2.1 x.2.2.2).map (fun o =>
      match o with
      | .next t => .next (t.modCore x.2.2.1 (fun k => k.dropClaim x.2.2.2 s.cycle))
      | o => o))

/-- Results land, before what reads timelines and objects (R84, R100, R218). -/
def State.landingSteps (s : State) : Option Answer :=
  firstOf ((s.cores.filter (fun (ck : Nat × Core) => decide (ck.2.inst ≠ 0))).map (fun ck => ck.1)) (fun c e =>
    if s.landsNow c e then some (execResultLanding c e s) else none)

/-- What comes last of a core's engines in a cycle: readers of objects and timelines, in the order of R218. -/
def State.lastSteps (s : State) : Option Answer :=
  let cs := s.runningCores
  firstOf cs (fun c e => s.performStep c e isBtry) <|>
  firstOf cs (fun c e => s.performStep c e isBwait) <|>
  firstOf cs (fun c e => s.waitStep c e)

/-- Halting, time-outs, stalls, fetches and handler entry. -/
def State.sequencerSteps (s : State) : Option Answer :=
  let cs := s.runningCores
  firstOf cs (fun c e => if ((s.core c).ctx e).drained then some (execEngineHalted c e s) else none) <|>
  firstOf cs (fun c e => if (s.timedOut c e).isSome then some (execQTimeout c e s) else none) <|>
  firstOf cs (fun c e => if ((s.core c).ctx e).stallsNow then some (execStall c e s) else none) <|>
  cs.findSome? (fun c => if s.canEnterHandler c then some (execHandlerEntry c s) else none) <|>
  firstOf cs (fun c e =>
    if (s.wantedLine c e).isSome ∧ !s.turnedAway c (.fetch e) ∨ (s.fetchAnswer c e).isSome then some (execInstructionFetch c e s)
    else none) <|>
  s.insts.findSome? (fun (i : Nat × Inst) => if s.sampleDue i.1 then some (execStallWireSample i.1 s) else none)

/-- Virtual functions. -/
def vfs : List (BitVec 6) := (List.range 32).map (fun n => BitVec.ofNat 6 (n + 1))

/-- Function and queue of each command queue the state lists. -/
def State.queueKeys (s : State) : List (BitVec 6 × BitVec 6) := s.queues.map (fun (e : Nat × CmdQueue) => vfOf e.1)

/-- A packet commits. -/
def State.packetStep (s : State) (vf q : BitVec 6) : Option Answer :=
  match s.packet vf q with
  | none => none
  | some p => some (if p.kind = 1 then execUpdate vf q s else if p.kind = 2 then execGang vf q s else execLaunch vf q s)

/-- Steps of the front end for one queue. -/
def State.queueStep (s : State) (vf q : BitVec 6) : Option Answer :=
  let x := s.cq vf q
  if x.bound ∧ 1000000 ≤ (s.gtime - x.refreshed).toNat then some (execControlBlockRefresh vf q s)
  else
    match s.packetStep vf q with
    | some o => some o
    | none =>
      if (s.dispatches vf q).isSome then some (execLaunchDispatch vf q s)
      else if (s.startable vf q).isSome then some (execLaunchStart vf q s)
      else if (s.blocked vf q).isSome then some (execBlockedEvent vf q s)
      else none

/-- Steps of a gang. -/
def State.gangStep (s : State) (gid : BitVec 16) : Option Answer :=
  if s.gangReady gid then some (execGangReserve gid s) else if s.gangLate gid then some (execGangto gid s) else none

/-- Steps of an instance: its end, its deadlines, and a pre-emption under way. -/
def State.instStep (s : State) (n : Nat) : Option Answer :=
  if (s.endDue n).isSome then some (execInstanceEnd n s)
  else if s.deadlineDue n then some (execDeadlineEvent n s)
  else if s.autoDue n then some (execAutoDeadline n s)
  else if (s.halted n).isSome ∧ s.shadowFree n then some (execContextSwapOut n s)
  else none

/-- A saved context leaves its shadow storage: for another that is to be swapped out there, or for a checkpoint (R388, R404). -/
def State.parkStep (s : State) (cl : Nat) : Option Answer :=
  let n := (s.cluster cl).shadow
  let wanted := s.dev.running || s.insts.any (fun (i : Nat × Inst) =>
    decide (i.1 ≠ n) && (s.halted i.1).isSome && (clustersOf (s.coresOf i.1)).contains cl)
  match (s.insts.get Inst.init n).status with
  | .saved _ => if n ≠ 0 ∧ wanted then some (execContextParkOut cl s) else none
  | _ => none

/-- Steps of the front end, the slice manager and the device. -/
def State.deviceSteps (s : State) : Option Answer :=
  vfs.findSome? (fun vf =>
    let b := s.prqOf vf
    if (s.nextRecord vf).isSome ∧ ringRoom b.ctl b.tail b.head then some (execPageRequestRecordWrite vf s)
    else if !b.invals.isEmpty then some (execInvalidationComplete vf s)
    else none) <|>
  (if !s.dev.events.isEmpty ∧ ringRoom s.dev.evctl s.dev.evtail s.dev.evhead then some (execEventRecordWrite s) else none) <|>
  s.insts.findSome? (fun (i : Nat × Inst) => s.instStep i.1) <|>
  s.clusters.findSome? (fun (x : Nat × Cluster) => s.parkStep x.1) <|>
  s.queueKeys.findSome? (fun k => s.queueStep k.1 k.2) <|>
  s.gangs.findSome? (fun (g : Nat × Gang) => s.gangStep (BitVec.ofNat 16 g.1)) <|>
  s.heldRegions.findSome? (fun r => if s.recordDue r then some (execPeriodicMeterRecord r s) else none)

/-- TLRD performs. -/
def State.timelineStep (s : State) : Option Answer := firstOf s.runningCores (fun c e => s.performStep c e isTlrd)

/-- The next step of the hardware. -/
def State.nextAuto (s : State) : Option Answer :=
  s.engineSteps <|> s.landingSteps <|> s.lastSteps <|> s.sequencerSteps <|> s.deviceSteps <|> s.timelineStep

end Sys2Proof.Machine
end

