-- ==== Sys2Proof/Machine/Step.lean ====
section
/-!
DEFINITION. The step of the machine, and the placing of one instruction where the next step fetches it.
-/

namespace Sys2Proof.Machine

/-- One step (log 2): the next event of the agenda; else the next issue slot of the cycle; else the next step that the
hardware takes by itself; else the end of the cycle. -/
def step (s : State) : Host.Outcome State Fault Refusal :=
  match s.agenda with
  | i :: r => exec i { s with agenda := r }
  | [] =>
    match s.turn with
    | t :: r =>
      match s.earlySteps with
      | some o => o
      | none => { s with turn := r }.issueSlot t
    | [] =>
      match s.nextAuto with
      | some o => o
      | none => .next s.tick

/-- A line of engine `e` that holds an instruction's words and, where it does not end its group, a NOP that does. -/
def oneLine (e : Engine) (w w2 : Syl) : Line :=
  let n := if sylIsWide w then 2 else 1
  let nop := !sylStop w
  let link : Syl := field e.code 30 ||| field (BitVec.ofNat 4 (if nop then n + 1 else n)) 24
  (link.setWidth 512) ||| ((w.setWidth 512) <<< 32) ||| (if n = 2 then (w2.setWidth 512) <<< 64 else 0) |||
    (if nop then ((0x84000000#32).setWidth 512) <<< (32 * (n + 1)) else 0)

/-- `s` with an instruction in a code line at address 0 in the instruction cache of core 0, and its engine about to issue it
(log 8): this stands for the launch that loads a program. -/
def State.withFetchWord (s : State) (nbits w : Nat) : State :=
  let v := w % 2 ^ nbits
  let w1 : Syl := BitVec.ofNat 32 v
  let w2 : Syl := BitVec.ofNat 32 (v / 2 ^ 32)
  let e :=
    match decodeAnyEngine w1 w2 with
    | some (e, _) => e
    | none => .scu
  let s := s.modCore 0 (fun k =>
    ({ k with inst := if k.inst = 0 then 1 else k.inst, pend := [], hand := none }).modCtx e (fun x =>
      { x with run := .running, pt := 1, bubble := 0, wait := none, stuck := false }))
  { s.cache 0 0 (oneLine e w1 w2) with agenda := [], turn := [{ core := 0, eng := e, again := false, late := false }] }

end Sys2Proof.Machine
end

