-- ==== Sys2Proof/Safety.lean ====
section
/-!
DEFINITION. The terms in which claims speak of the machine: what it is for an instruction to issue, to be turned away, to
change nothing but a result on its way, and for memory to be in canonical form.
-/

namespace Sys2Proof

/-- A step that goes on to a next state. -/
def StepsTo (s t : Machine.State) : Prop := Machine.step s = .next t

/-- A state from which the machine goes on. -/
def Goes (s : Machine.State) : Prop := ∃ t, StepsTo s t

open Machine

/-! ## Issue -/

/-- What happens to a machine whose instruction does not issue: its engine waits or is held (R85, R90), or a trap is taken
(R97, R358), which pends and stops the landing buffer (R86), or ends the instance (R360). Everything else is as before: of the
engine, all but the wait, what is left of the group's last try, and the last trap record. -/
def OnlyRefuses (s t : State) : Prop :=
  ∃ (pend : List TrapRec) (y : Ctx),
    let k := { s.cur with pend := pend }.modCtx s.eng (fun x =>
      { x with wait := y.wait, stuck := y.stuck, why := y.why, target := y.target, reach := y.reach, frozen := y.frozen,
               lastRec := y.lastRec })
    t = s.setCore s.focus k ∨ ∃ r, t = (s.setCore s.focus k).endFault k.inst r

/-- An instruction under the gate of R84 to R98 and R190: where the gate lets it go, it answers the state its effect gives;
where it does not, it answers a state in which nothing but a wait or a trap is new. -/
def Issues (i : Instr) (needs : State → Needs) (effect : State → State) : Prop :=
  ∀ s, (s.ready (needs s) = true → exec i s = .next (effect s)) ∧
    (s.ready (needs s) = false → ∃ t, exec i s = .next t ∧ (t = s ∨ OnlyRefuses s t))

/-- A syllable that a line of engine `e` reads as the instruction, whatever its stop bit, where the instruction is well-formed. -/
def Encodes (e : Engine) (i : Instr) (w : Bool → Syl) : Prop :=
  wellFormed e i = true → ∀ (stop : Bool) (w2 : Syl), decode e (w stop) w2 = .ok i

/-- `OP gd, gs1, gs2` under a guard: the value `f` of its sources goes to g[d] with a latency (R84, R96, R101). -/
def TwoSource (i : GField → GField → GField → Guard → Instr) (lat : Nat) (f : W64 → W64 → W64) : Prop :=
  ∀ d a b g, Issues (i d a b g) (fun s => s.cur.needs2 d a b g lat) (fun s => s.result2 d a b lat f)

/-- `OP gd, gs1` under a guard. -/
def OneSource (i : GField → GField → Guard → Instr) (f : W64 → W64) : Prop :=
  ∀ d a g, Issues (i d a g) (fun s => { needs1 d a with act := s.cur.guardP g }) (fun s => s.result1 d a 1 f)

/-- `OPI gd, gs1, imm`. -/
def Immediate {w : Nat} (i : GField → GField → BitVec w → Instr) (f : W64 → BitVec w → W64) : Prop :=
  ∀ d a n, Issues (i d a n) (fun _ => needs1 d a) (fun s => s.result1 d a 1 (fun v => f v n))

/-- A vector instruction of two sources and fixed latency (R123 to R126). -/
def VectorTwo (i : VField → VField → VField → BitVec 3 → Instr) (b lat : Nat)
    (f : State → VField → Row → Row → Nat → BitVec (8 * b) × W64) : Prop :=
  ∀ d a c g s, (s.ready (needsV d [a.qref, c.qref] lat) = true →
      exec (i d a c g) s = .next (vec2Effect d a c g b lat (f s d) s)) ∧
    (s.ready (needsV d [a.qref, c.qref] lat) = false → ∃ t, exec (i d a c g) s = .next t ∧ (t = s ∨ OnlyRefuses s t))

/-- A vector instruction of one source and fixed latency. -/
def VectorOne (i : VField → VField → BitVec 3 → Instr) (b lat : Nat)
    (f : State → VField → Row → Nat → BitVec (8 * b) × W64) : Prop :=
  ∀ d a g s, (s.ready (needsV d [a.qref] lat) = true → exec (i d a g) s = .next (vec1Effect d a g b lat (f s d) s)) ∧
    (s.ready (needsV d [a.qref] lat) = false → ∃ t, exec (i d a g) s = .next t ∧ (t = s ∨ OnlyRefuses s t))

/-- An instruction whose descriptor is read at issue (R283, R348): where the gate lets it go and the descriptor at its address
can be read, it answers the state that `effect` gives. -/
def IssuesDescriptor (i : Instr) (needs : State → Needs) (m : MemOpnd) (effect : W64 → Desc → State → State) : Prop :=
  ∀ s, (∀ d t, s.ready (needs s) = true → isStash (s.ctx.ea m 64) = true →
      s.stashPacket s.focus (s.ctx.ea m 64) = .ok (d, t) → exec i s = .next (effect (s.ctx.ea m 64) d t)) ∧
    (s.ready (needs s) = false → ∃ t, exec i s = .next t ∧ (t = s ∨ OnlyRefuses s t))

/-- What a step that claims stash banks for an operation of engine `e` of core `c` makes of MEMORY_ACCESS_PERFORM: the state `t` where
the banks are free, and else no more than a claim that waits (R159, R170). -/
def PerformsTo (c : Nat) (e : Engine) (o : PendOp) (lane : Nat) (s t : State) : Prop :=
  exec (.memoryAccessPerform c e o.num lane) s = .next (s.settle t c (.op e o.num))

/-- A remote instruction on its way (R316, R323): its entry reserved where it pushes, its address, data and token entered. -/
def enterRemote (i : Instr) (d : GField) (w : BitVec 3) (a : W64) (val val2 : Row) (ld st : Bool) (s : State) : State :=
  (s.reserveG d).1.enterOp
    { PendOp.of i (some w) with ld := ld, st := st, addr := a, val := val, val2 := val2, qid := (s.reserveG d).2 }

/-- The state after the pops of one source and of two (R96). -/
def popped (s : State) (a : GField) : State := s.setCore s.focus (s.cur.readG a).2

/-- A remote instruction under its gate (R319, R323): at an address that is a multiple of its access size it enters; at another it
traps ALIGN at issue, with the address and the power of two, and charges nothing. -/
def IssuesAligned (i : Instr) (needs : State → Needs) (b : BitVec 4) (size : Nat) (enters pops : State → State) : Prop :=
  ∀ s, (s.ready (needs s) = true →
      ((s.cur.scu.ar b).toNat % size = 0 → exec i s = .next (enters s)) ∧
      ((s.cur.scu.ar b).toNat % size ≠ 0 →
        exec i s = .next ((pops s).groupTrap 0x10 (s.cur.scu.ar b) (BitVec.ofNat 64 size.log2)))) ∧
    (s.ready (needs s) = false → ∃ t, exec i s = .next t ∧ (t = s ∨ OnlyRefuses s t))

/-- What becomes of a group that has only one member, of line `l`, which ran in state `z` and left the state `t`; `y` is the
state before (R27, R90, R111 to R114, R159, R283, R359, R381). -/
def afterAlone (y z t : State) (l : Line) (i : Instr) : State :=
  let x := (t.core z.focus).ctx z.eng
  let u := y.takeGroup t
  let go :=
    if t.ctx.stuck then y.keepWaiting t [i]
    else if y.waitsBank t then y.keepWaiting (z.noteWait [.bank]) [i]
    else if y.cur.hand.isSome ∧ u.cur.hand.isNone then u
    else u.moveOn l [i]
  if x.lastRec ≠ z.ctx.lastRec then
    match x.lastRec with
    | none => go
    | some r => (y.modCtx (fun x => { x with wait := none })).takeTrap y.focus r.1
  else
    match x.run with
    | .fetchParked _ _ _ => y.keepParked t
    | .running | .halting | .halted => go

/-! ## Frames -/

/-- Nothing has changed but queues of the core whose instruction runs, as its pops and reservations leave them (R96), and the
engine's landing buffer, which has the results `l` more (R85). -/
def OnlyLands (s t : State) (l : List Landing) : Prop :=
  ∃ (queues : Tbl Queue) (n : Nat),
    t = s.setCore s.focus ({ s.cur with queues := queues, qserial := n }.modCtx s.eng (fun x => { x with land := x.land ++ l }))

/-- Nothing has changed but queues of the core, and the engine's operations, tokens and numbers as entering the operation `o`
leaves them, with the stop bit of its syllable (R87, R202, R397). -/
def OnlyEnters (s t : State) (o : PendOp) (takes : Bool) : Prop :=
  ∃ (queues : Tbl Queue) (n : Nat),
    t = s.setCore s.focus ({ s.cur with queues := queues, qserial := n }.modCtx s.eng (fun x => x.enter { o with stop := s.syl.getLsbD 31 } takes s.cycle))

/-- Byte `j` of a row of a core's stash. -/
def stashByte (s : State) (c q j : Nat) : Byte := slice (s.row c q).data (8 * j) 8

/-! ## Invariants -/

/-- Memory in canonical form: HBM and host memory list rising addresses and no byte that reads as an unlisted one. -/
def MemoryCanonical (s : State) : Prop := Memory.wf s.hbm = true ∧ Memory.wf s.hostMem = true

end Sys2Proof
end

