-- ==== Sys2Proof/Certificates/Slice0/Obligations.lean ====
section
/-!
DEFINITION. The statements about the machine that the provers settle. `Issues`, `TwoSource` and the like are defined in
Safety.lean: where the gate of R84 to R98 and R190 lets an instruction go, exec answers the state that its effect gives; where
it does not, nothing but a wait or a trap is new.
-/

open Sys2Proof Sys2Proof.Machine

/-! ## Encoding -/

/-- Words that the spec writes out (R47, R88, R120, R156, R176, R217, R263, R268, R293, R354, R465): each decodes on its engine to the
instruction that the spec says it is. -/
def Obligations.WordsOfTheSpecDecode : Prop :=
  decode .scu 0x08518740 0 = .ok (.add (.r 5) (.r 6) (.r 7) { p := 2, neg := false }) ∧
  decode .scu 0xC0830823 0 = .ok (.ld .n64 (.r 8) { base := 3, mode := .off, field := 8 } 1) ∧
  decode .scu 0x840000A2 0 = .ok (.waitk 10) ∧
  decode .scu 0xAC8200C0 0 = .ok (.loopImmediate 0 8 0 3) ∧
  decode .scu 0xE8640241 0 = .ok (.barr (.g (.r 6)) 4 2 2) ∧
  decode .ve 0x9C404210 0 = .ok (.vmacb 2 (.r 4) (.r 1) (.r 2) 0) ∧
  decode .ve 0xC432C241 0 = .ok (.vldt (.r 3) { base := 2, mode := .swz, field := 2 } 0 2) ∧
  decode .ve 0xA0A12600 0 = .ok (.vcmp .lt .b32 1 (.r 4) (.pop 6) 0) ∧
  decode .ce 0x8C320120 0 = .ok (.cpyt 3 { base := 2, mode := .off, field := 1 } 1) ∧
  decode .ce 0xB4040120 0 = .ok (.repart 0 { base := 4, mode := .off, field := 1 } 1) ∧
  decode .mx 0xADA44740 0 = .ok (.mldp 6 true false { base := 4, mode := .idx, field := 7 } 2) ∧
  decode .mx 0xB8004200 0 = .ok (.mseed 1 2)

/-- Decoding the words of a well-formed instruction of the SCU gives it back (R36 to R47). -/
def Obligations.DecodeOfEncodeScu : Prop :=
  ∀ (stop : Bool) (i : Instr), wellFormed .scu i = true →
    decode .scu (encodeWords stop i).1 (encodeWords stop i).2 = .ok i

/-- Decoding the words of a well-formed instruction of the VE gives it back (R36 to R47). -/
def Obligations.DecodeOfEncodeVe : Prop :=
  ∀ (stop : Bool) (i : Instr), wellFormed .ve i = true →
    decode .ve (encodeWords stop i).1 (encodeWords stop i).2 = .ok i

/-- Decoding the words of a well-formed instruction of the CE or of the MX gives it back (R36 to R47). -/
def Obligations.DecodeOfEncodeCeMx : Prop :=
  ∀ (stop : Bool) (i : Instr),
    (wellFormed .ce i = true → decode .ce (encodeWords stop i).1 (encodeWords stop i).2 = .ok i) ∧
    (wellFormed .mx i = true → decode .mx (encodeWords stop i).1 (encodeWords stop i).2 = .ok i)

/-- A special register that the map does not list for an engine, or that is read-only there, raises ILL_FIELD in MFS and MTS
(R93, R94). -/
def Obligations.UnlistedSpecialRegisterIsIllField : Prop :=
  ∀ (e : Engine) (stop : Bool) (n : BitVec 10) (c : BitVec 6) (g : Guard) (w2 : Syl),
    ((∀ r : SReg, r.code = n → r.readable e = false) → decode e (formS stop 23 c n g 0) w2 = .error .illField) ∧
    ((∀ r : SReg, r.code = n → r.writable e = false) → decode e (formS stop 23 c n g 1) w2 = .error .illField)

/-! ## Steps -/

/-- Where no older claim of a stash bank comes first (R159) and the line at the program counter of the engine whose issue slot is
next holds a group of one well-formed instruction that passes the checks of R28 to R35, the step is exec of that instruction;
around it the step lets the landing buffer count (R86), notes the line in the loop buffer (R52), clears the marks of the last
try, and then moves on, keeps waiting or takes the trap; groups that waited for room in a queue try again (R96), and an FWAIT lets
such a group of an older FWAIT go first (R99). The order and the form of the step are the model's choice, log 2: that an issue slot is
a step of its own, the slots of a cycle one after another, and the marks that a try leaves. -/
def Obligations.StepIssuesDecodedInstruction : Prop :=
  ∀ (s : State) (t : IssueSlot) (r : List IssueSlot) (l : Line) (n : Nat) (w : Syl) (i : Instr),
    let x := ({ s with turn := r } : State).at_ t.core t.eng
    let a := x.modCtx (fun x => { x with frozen := false })
    let y := a.modCtx (fun x => { x with starting := false })
    let z : State :=
      { y.modCtx (fun c => { (c.keepLine (ptLine c.pt) l) with stuck := false, why := [], target := none, falls := false }) with
        syl := w, idx := BitVec.ofNat 4 n }
    s.agenda = [] → s.turn = t :: r → s.earlySteps = none → t.again = false → x.mayIssue t.core t.eng = true →
    (t.eng = .scu → (x.core t.core).hcallPending = false) → x.ctx.bubble = 0 →
    (t.late = true ∨ x.yieldsFlag t.core t.eng = false) →
    x.cached t.core x.ctx.pt = some l → Line.engine l = t.eng → Line.brokenAt l (ptSyl x.ctx.pt).toNat = false →
    Line.startFault l (ptSyl x.ctx.pt).toNat = none →
    Line.members l t.eng (ptSyl x.ctx.pt).toNat = [(n, w, .ok i)] →
    a.fieldBad i = false → groupFault t.eng [i.uses t.eng] = none → y.groupClosed [i] = none →
    (t.eng = .ce → y.cur.ceBusy y.cycle = false) →
    step s =
      match exec i z with
      | .fault f => .fault f
      | .refused q => .refused q
      | .next u => .next ((afterAlone y z u l i).retries (x.core t.core) t.core)

/-- An event of the schedule comes first, and its step is exec of it with the rest of the schedule left (log 2). With nothing
scheduled, no issue slot left and nothing that the hardware does by itself, the step ends the cycle: the next
cycle begins, GTIME moves on by the nanoseconds that the clock's phase gives (R20; log 6), and HBM is as before. -/
def Obligations.StepRunsEventsAndEndsCycle : Prop :=
  (∀ (s : State) (i : Instr) (r : List Instr), s.agenda = i :: r → step s = exec i { s with agenda := r }) ∧
  (∀ (s : State) (o : Answer), s.agenda = [] → s.turn = [] → s.nextAuto = some o → step s = o) ∧
  (∀ s : State, s.agenda = [] → s.turn = [] → s.nextAuto = none →
    step s = .next s.tick ∧ s.tick.cycle = s.cycle + 1 ∧ s.tick.hbm = s.hbm ∧
      (s.slew = 0 → s.tick.gtime = s.gtime + BitVec.ofNat 64 ((s.gphase + 1000) / s.clockMhz)))

/-! ## Reset -/

/-- After reset no core runs a program, nothing is bound, the service level is BOOT and memory lists nothing (R389, R433, R437;
the values of registers before a launch are the model's choice, log 3). -/
def Obligations.ResetState : Prop :=
  (∀ c, (State.reset.core c).inst = 0 ∧ (State.reset.core c).scu.run = .halted ∧ (State.reset.core c).ve.run = .halted ∧
    (State.reset.core c).ce.run = .halted ∧ (State.reset.core c).mx.run = .halted) ∧
  (∀ vf q, (State.reset.cq vf q).bound = false ∧ (State.reset.cq vf q).en = false) ∧
  State.reset.dev.svc = 0 ∧ State.reset.hbm = [] ∧ State.reset.slices = [] ∧ State.reset.insts = []

/-- Memory in canonical form at reset. -/
def Obligations.ResetMemoryCanonical : Prop := MemoryCanonical State.reset

/-- Every step keeps HBM and host memory in canonical form, so that equal memories are equal data. -/
def Obligations.MemoryCanonicalKept : Prop :=
  ∀ s t : State, MemoryCanonical s → step s = .next t → MemoryCanonical t

/-! ## The SCU's arithmetic -/

/-- R101: the fourteen operations of major 2, as encoded, with latency 1; the shifts use b[5:0] alone, MIN and MAX compare as
i64, MINN and MAXN as n64. -/
def Obligations.AluResultsOfMajorTwo : Prop :=
  (∀ d a b g,
    let word (m : BitVec 4) (stop : Bool) : Syl := formA stop 2 d.code a.code b.code g.p (.ofBool g.neg) m
    Encodes .scu (.add d a b g) (word 0) ∧ Encodes .scu (.sub d a b g) (word 1) ∧ Encodes .scu (.and d a b g) (word 2) ∧
    Encodes .scu (.or d a b g) (word 3) ∧ Encodes .scu (.xor d a b g) (word 4) ∧ Encodes .scu (.andn d a b g) (word 5) ∧
    Encodes .scu (.shl d a b g) (word 6) ∧ Encodes .scu (.shr d a b g) (word 7) ∧ Encodes .scu (.sra d a b g) (word 8) ∧
    Encodes .scu (.rotl d a b g) (word 9) ∧ Encodes .scu (.min d a b g) (word 10) ∧ Encodes .scu (.max d a b g) (word 11) ∧
    Encodes .scu (.minn d a b g) (word 12) ∧ Encodes .scu (.maxn d a b g) (word 13)) ∧
  TwoSource .add 1 (fun a b => a + b) ∧ TwoSource .sub 1 (fun a b => a - b) ∧
  TwoSource .and 1 (fun a b => a &&& b) ∧ TwoSource .or 1 (fun a b => a ||| b) ∧ TwoSource .xor 1 (fun a b => a ^^^ b) ∧
  TwoSource .andn 1 (fun a b => a &&& ~~~b) ∧ TwoSource .shl 1 (fun a b => a <<< (b.extractLsb' 0 6)) ∧
  TwoSource .shr 1 (fun a b => a >>> (b.extractLsb' 0 6)) ∧
  TwoSource .sra 1 (fun a b => a.sshiftRight (b.extractLsb' 0 6).toNat) ∧
  TwoSource .rotl 1 (fun a b => a.rotateLeft (b.extractLsb' 0 6).toNat) ∧
  TwoSource .min 1 (fun a b => BitVec.ofInt 64 (min a.toInt b.toInt)) ∧
  TwoSource .max 1 (fun a b => BitVec.ofInt 64 (max a.toInt b.toInt)) ∧
  TwoSource .minn 1 (fun a b => BitVec.ofNat 64 (min a.toNat b.toNat)) ∧
  TwoSource .maxn 1 (fun a b => BitVec.ofNat 64 (max a.toNat b.toNat))

/-- R102: CLZ, CTZ and POPC are minor 15 of major 2 with s2 = 0, 1 and 2; other s2 values raise ILL_FIELD. The result is the
count of leading zeros, of trailing zeros (64 for 0) or of one bits, with latency 1. -/
def Obligations.UnaryCountsOfMajorTwo : Prop :=
  (∀ d a g,
    Encodes .scu (.clz d a g) (fun stop => formA stop 2 d.code a.code 0 g.p (.ofBool g.neg) 15) ∧
    Encodes .scu (.ctz d a g) (fun stop => formA stop 2 d.code a.code 1 g.p (.ofBool g.neg) 15) ∧
    Encodes .scu (.popc d a g) (fun stop => formA stop 2 d.code a.code 2 g.p (.ofBool g.neg) 15)) ∧
  (∀ stop d a s2 pg pn w2, 3 ≤ s2.toNat → decode .scu (formA stop 2 d a s2 pg pn 15) w2 = .error .illField) ∧
  (∃ lead trail ones : W64 → W64, OneSource .clz lead ∧ OneSource .ctz trail ∧ OneSource .popc ones ∧
    lead 0 = 64 ∧ trail 0 = 64 ∧
    (∀ a : W64, a ≠ 0 → (lead a).toNat < 64 ∧ a.getLsbD (63 - (lead a).toNat) = true ∧
      ∀ k, 63 - (lead a).toNat < k → a.getLsbD k = false) ∧
    (∀ a : W64, a ≠ 0 → (trail a).toNat < 64 ∧ a.getLsbD (trail a).toNat = true ∧
      ∀ k, k < (trail a).toNat → a.getLsbD k = false) ∧
    (∀ a : W64, (ones a).toNat = ((List.range 64).filter (fun k => a.getLsbD k)).length))

/-- R103: SEL is minor 14 of major 2; it is not guarded, both sources are read, and its predicate selects. -/
def Obligations.SelectReadsBothSources : Prop :=
  ∀ d a b g,
    Encodes .scu (.sel d a b g) (fun stop => formA stop 2 d.code a.code b.code g.p (.ofBool g.neg) 14) ∧
    ∀ s, let needs : Needs := { srcs := [a.qref, b.qref], dst := d.push, lat := 1, file := d.file }
      (s.ready needs = true →
        exec (.sel d a b g) s = .next (s.result2 d a b 1 (fun a b => if s.cur.pr g.p != g.neg then a else b))) ∧
      (s.ready needs = false → ∃ t, exec (.sel d a b g) s = .next t ∧ (t = s ∨ OnlyRefuses s t))

/-- R104: the immediate operations of major 3, with latency 1; a shift count of 64 to 1,023 raises ILL_FIELD. -/
def Obligations.ImmediateResultsOfMajorThree : Prop :=
  (∀ d a (i : BitVec 10),
    Encodes .scu (.addi d a i) (fun stop => formB stop 3 d.code a.code i 0) ∧
    Encodes .scu (.andi d a i) (fun stop => formB stop 3 d.code a.code i 1) ∧
    Encodes .scu (.ori d a i) (fun stop => formB stop 3 d.code a.code i 2) ∧
    Encodes .scu (.xori d a i) (fun stop => formB stop 3 d.code a.code i 3)) ∧
  (∀ d a (n : BitVec 6),
    Encodes .scu (.shli d a n) (fun stop => formB stop 3 d.code a.code (n.setWidth 10) 4) ∧
    Encodes .scu (.shri d a n) (fun stop => formB stop 3 d.code a.code (n.setWidth 10) 5) ∧
    Encodes .scu (.srai d a n) (fun stop => formB stop 3 d.code a.code (n.setWidth 10) 6)) ∧
  (∀ stop d a (i : BitVec 10) (m : BitVec 4) w2, 64 ≤ i.toNat → m = 4 ∨ m = 5 ∨ m = 6 →
    decode .scu (formB stop 3 d a i m) w2 = .error .illField) ∧
  Immediate .addi (fun a i => a + i.signExtend 64) ∧ Immediate .andi (fun a i => a &&& i.signExtend 64) ∧
  Immediate .ori (fun a i => a ||| i.signExtend 64) ∧ Immediate .xori (fun a i => a ^^^ i.signExtend 64) ∧
  Immediate .shli (fun a n => a <<< n) ∧ Immediate .shri (fun a n => a >>> n) ∧
  Immediate .srai (fun a n => a.sshiftRight n.toNat)

/-- R105: MUL, MULH and MULHN are minors 0 to 2 of major 4, with latency 3: the low half of the product, and the high half of
the product of the sign-extended and of the zero-extended sources. -/
def Obligations.MultiplyGivesItsHalf : Prop :=
  (∀ d a b g,
    Encodes .scu (.mul d a b g) (fun stop => formA stop 4 d.code a.code b.code g.p (.ofBool g.neg) 0) ∧
    Encodes .scu (.mulh d a b g) (fun stop => formA stop 4 d.code a.code b.code g.p (.ofBool g.neg) 1) ∧
    Encodes .scu (.mulhn d a b g) (fun stop => formA stop 4 d.code a.code b.code g.p (.ofBool g.neg) 2)) ∧
  TwoSource .mul 3 (fun a b => (a.setWidth 128 * b.setWidth 128).extractLsb' 0 64) ∧
  TwoSource .mulh 3 (fun a b => (a.signExtend 128 * b.signExtend 128).extractLsb' 64 64) ∧
  TwoSource .mulhn 3 (fun a b => (a.setWidth 128 * b.setWidth 128).extractLsb' 64 64)

/-- DIV, DIVN, REM and REMN give the quotients and remainders of R106, its two corners among them; they read their sources at
issue, reserve a push, and enter with their token; DIVIDE_COMPLETE sends the
result to its destination, where it lands when it finds a write slot and releases the token (R84, R85, R87, R106). -/
def Obligations.DivisionIssuesAndCompletes : Prop :=
  (∀ a b : W64,
    divW a b = (if b = 0 then BitVec.allOnes 64 else if a = BitVec.intMin 64 ∧ b = BitVec.allOnes 64 then BitVec.intMin 64
      else BitVec.ofInt 64 (a.toInt.tdiv b.toInt)) ∧
    remW a b = (if b = 0 then a else if a = BitVec.intMin 64 ∧ b = BitVec.allOnes 64 then 0
      else BitVec.ofInt 64 (a.toInt - b.toInt * a.toInt.tdiv b.toInt)) ∧
    divnW a b = (if b = 0 then BitVec.allOnes 64 else BitVec.ofNat 64 (a.toNat / b.toNat)) ∧
    remnW a b = (if b = 0 then a else BitVec.ofNat 64 (a.toNat % b.toNat))) ∧
  (∀ d a b w,
    Issues (.div d a b w) (fun _ => needsTok d a b w) (divideEffect (.div d a b w) d a b w divW) ∧
    Issues (.divn d a b w) (fun _ => needsTok d a b w) (divideEffect (.divn d a b w) d a b w divnW) ∧
    Issues (.rem d a b w) (fun _ => needsTok d a b w) (divideEffect (.rem d a b w) d a b w remW) ∧
    Issues (.remn d a b w) (fun _ => needsTok d a b w) (divideEffect (.remn d a b w) d a b w remnW)) ∧
  (∀ c s o, s.divideDue c = some o →
    exec (.divideComplete c) s =
      .next (s.send c .scu o.num (GField.eff (o.instr.divideDst.getD (.r 0)) o.qid (o.val.setWidth 64))))

/-- Compares, constants, bit fields and address instructions (R107 to R110). -/
def Obligations.CompareMoveAndAddressResults : Prop :=
  (∀ p c a b g, Issues (.cmp p c a b g)
    (fun s => { srcs := [a.qref, b.qref], act := s.cur.guardP g, lat := 1, file := .gpa }) (compareEffect p c a b)) ∧
  (∀ p c a i, Issues (.cmpi p c a i) (fun _ => { srcs := [a.qref], lat := 1, file := .gpa }) (compareIEffect p c a i)) ∧
  (∀ d i, Issues (.movi d i) (fun _ => needs1 d (.r 0)) (fun s => s.toG d 1 (i.signExtend 64))) ∧
  (∀ d i h, Issues (.movk d i h) (fun _ => needs1 d (.r 0)) (fun s => s.result1 d d 1 (fun v => insertHalf v i h))) ∧
  (∀ d i, Issues (.ldi d i) (fun _ => needs1 d (.r 0)) (fun s => s.toG d 1 (i.signExtend 64))) ∧
  TwoSource .bext 1 extractBits ∧
  (∀ d a b g s,
    (s.ready (s.cur.needs2 d a b g 1) = true →
      exec (.bins d a b g) s = .next (s.result2 d a b 1 (insertBits (s.cur.readG d).1))) ∧
    (s.ready (s.cur.needs2 d a b g 1) = false → ∃ t, exec (.bins d a b g) s = .next t ∧ (t = s ∨ OnlyRefuses s t))) ∧
  (∀ d a g, Issues (.aadd d a g) (fun _ => { srcs := [g.qref], lat := 1, file := .gpa })
    (fun s => (popped s g).toA d (s.cur.scu.ar a + (s.cur.readG g).1))) ∧
  (∀ d a i, Issues (.aaddi d a i) (fun _ => { lat := 1, file := .gpa })
    (fun s => s.toA d (s.cur.scu.ar a + i.signExtend 64))) ∧
  (∀ d a, Issues (.amov d a) (fun _ => { srcs := [a.qref], lat := 1, file := .gpa })
    (fun s => (popped s a).toA d (s.cur.readG a).1)) ∧
  (∀ d a, Issues (.aget d a) (fun _ => needs1 d (.r 0)) (fun s => s.toG d 1 (s.cur.scu.ar a))) ∧
  (∀ d sel, Issues (.amesh d sel) (fun _ => needs1 d (.r 0)) (fun s => s.toG d 1 (s.meshValue s.focus sel)))

/-- A transfer whose guard holds and whose target meets no fault is taken (R111 to R113): the engine's next point is the
label's, the one in a15 or the one in g[s1]; CALL sends its return point to a15 with latency 1, and is ILL_LINE in the last group
of a line with END = 1. A taken transfer whose target is faulty traps at its own group with the target's address (R35, R111). -/
def Obligations.TransfersAreTaken : Prop :=
  ∀ (s : State) (l : BitVec 16) (y : BitVec 4) (g : Guard) (a : GField),
    let go (s : State) (p : W64) : State := s.modCtx (fun x => { x with target := some p })
    let dest := s.labelPt l y
    (s.ready { act := s.cur.guardP g } = true → s.reaches dest = true → exec (.br l y g) s = .next (go s dest)) ∧
    (s.ready {} = true → s.reaches dest = true → exec (.jmp l y) s = .next (go s dest)) ∧
    (∀ line p, s.ready { act := s.cur.guardP g, lat := 1, file := .gpa } = true → s.reaches dest = true →
      s.cached s.focus s.ctx.pt = some line → Line.follow line s.ctx.pt = some p →
      exec (.call l y g) s = .next (go (s.toA 15 ((s.cur.following line s.ctx.pt).1.getD 0)) dest)) ∧
    (s.ready { srcs := [a.qref], act := s.cur.guardP g } = true → s.reaches (s.cur.readG a).1 = true →
      exec (.jmpr a g) s = .next (go (popped s a) (s.cur.readG a).1)) ∧
    (s.ready { act := s.cur.guardP g } = true → s.reaches (s.cur.scu.ar 15) = true →
      exec (.ret g) s = .next (go s (s.cur.scu.ar 15))) ∧
    (s.cur.guardP g = false → s.ready { act := s.cur.guardP g } = false → exec (.br l y g) s = .next s) ∧
    (∀ line, s.ready { act := s.cur.guardP g, lat := 1, file := .gpa } = true → s.reaches dest = true →
      s.cached s.focus s.ctx.pt = some line → Line.follow line s.ctx.pt = none →
      exec (.call l y g) s = .next (s.groupTrap 0x04 (ptLine s.ctx.pt) (linkDetail line s.idx))) ∧
    (∀ f : BitVec 8 × W64 × W64,
      let meets (p : W64) : Prop := s.pointFault s.focus s.eng p = some (some f)
      (s.ready { act := s.cur.guardP g } = true → meets dest →
        exec (.br l y g) s = .next (s.groupTrap f.1 f.2.1 f.2.2)) ∧
      (s.ready {} = true → meets dest → exec (.jmp l y) s = .next (s.groupTrap f.1 f.2.1 f.2.2)) ∧
      (s.ready { srcs := [a.qref], act := s.cur.guardP g } = true → meets (s.cur.readG a).1 →
        exec (.jmpr a g) s = .next ((popped s a).groupTrap f.1 f.2.1 f.2.2)) ∧
      (s.ready { act := s.cur.guardP g } = true → meets (s.cur.scu.ar 15) →
        exec (.ret g) s = .next (s.groupTrap f.1 f.2.1 f.2.2)))

/-- A LOOP with a count other than 0 makes its level active with the group after its own as the start, and its end point and
count (R114), where the lines up to the end point are in the instruction cache (that they are fetched first is the model's
choice, log 29); with count 0 its level becomes inactive and the engine goes on as after a group that ends at the end point. -/
def Obligations.LoopBecomesActive : Prop :=
  ∀ (s : State) (lvl : BitVec 2) (n : BitVec 9) (a : GField) (el es : BitVec 4) (line : Line) (stop : Option W64),
    let level (n : Nat) : Loop :=
      { active := true, start := (Line.follow line s.ctx.pt).getD 0, stop := endPoint stop es, rem := BitVec.ofNat 64 n }
    let set (s : State) (n : Nat) : State :=
      s.modCur (fun k => { k with loops := k.loops.set Loop.init lvl.toNat (level n) })
    s.cached s.focus s.ctx.pt = some line → s.chain s.ctx.pt el.toNat = .ok stop →
    (s.ready {} = true → n ≠ 0 → exec (.loopImmediate lvl n el es) s = .next (set s n.toNat)) ∧
    (s.ready { srcs := [a.qref] } = true → (s.cur.readG a).1.toNat % 2 ^ 32 ≠ 0 →
      exec (.loopRegister lvl a el es) s = .next (set (popped s a) ((s.cur.readG a).1.toNat % 2 ^ 32))) ∧
    (let off (s : State) : State :=
      (s.modCur (fun k => { k with loops := k.loops.set Loop.init lvl.toNat Loop.init })).skipLoop (endPoint stop es)
     (s.ready {} = true → exec (.loopImmediate lvl 0 el es) s = .next (off s)) ∧
     (s.ready { srcs := [a.qref] } = true → (s.cur.readG a).1.toNat % 2 ^ 32 = 0 →
      exec (.loopRegister lvl a el es) s = .next (off (popped s a))))

/-- FORK starts a halted engine at a point with its tokens at zero, to issue in the next cycle, or in this one where the FORK has
waited for its halt, the cycle after which this is (R100, R115); JOIN goes on once the engines it names have halted (R116). Each
waits otherwise (R90), and does nothing where its guard is false (R34). -/
def Obligations.ForkStartsAndJoinWaits : Prop :=
  (∀ e l y g s, s.ready (s.needsFork e g) = true →
    (s.cur.ctx e).run = .halted ∧
    (let t := s.modCur (fun k => k.modCtx e (fun x => { x.start (s.labelPt l y) with starting := true }))
     exec (.fork e l y g) s = .next (if s.forkWaited then
        { t with turn := t.turn ++ [{ core := s.focus, eng := e, again := false, late := false }] } else t))) ∧
  (∀ e l y g s, s.cur.guardP g = true → (s.cur.ctx e).run ≠ .halted → exec (.fork e l y g) s = .next (s.noteWait [.fork])) ∧
  (∀ ve ce mx g, Issues (.join ve ce mx g) (fun s => s.needsJoin ve ce mx g) id) ∧
  (∀ ve ce mx g s, s.cur.guardP g = true →
    (ve = true ∧ s.cur.ve.run ≠ .halted) ∨ (ce = true ∧ s.cur.ce.run ≠ .halted) ∨ (mx = true ∧ s.cur.mx.run ≠ .halted) →
    exec (.join ve ce mx g) s = .next (s.noteWait [.join])) ∧
  (∀ e l y ve ce mx g s, s.cur.guardP g = false →
    exec (.fork e l y g) s = .next s ∧ exec (.join ve ce mx g) s = .next s)

/-- NOP, HALT, WAITK, SLACK, MFS, MTS, FSET, FWAIT, FCLR, QCLOSE and QSTAT (R88, R89, R94, R97, R99, R117 to R120); FAULTRD,
HCALL, ICINV and MTRRD (R379, R380, R382, R383). MFS and QSTAT read the register as it stood before the cycle (R94, R117), which is
as it stands where nothing was latched. -/
def Obligations.ControlInstructionsComplete : Prop :=
  (∀ s, exec .nop s = .next s) ∧
  Issues .halt (fun _ => {}) (fun s => s.modCtx (fun x => { x with run := .halting })) ∧
  (∀ m, Issues (.waitk m) (fun s => s.needsWaitk m) id) ∧
  (∀ (m : BitVec 8) (s : State), s.ready (s.needsWaitk m) = true → ∀ k : BitVec 3, m.getLsbD k.toNat = true → s.ctx.token k = 0) ∧
  (∀ n, Issues (.slack n) (fun _ => {}) (fun s => s.modCtx (fun x => { x with slack := n }))) ∧
  (∀ d r g, Issues (.mfs d r g) (fun s => s.needsMfs d g) (fun s => s.toRF d 1 (s.sregBefore s.focus s.eng r))) ∧
  (∀ (c : Nat) (e : Engine) (r : SReg) (s : State),
    ((∀ p ∈ (s.core c).latched, p.1 ≠ e ∨ p.2.1 ≠ r) → s.sregBefore c e r = s.sreg c e r) ∧
    ∀ v rest, (s.core c).latched = (e, r, v) :: rest → s.sregBefore c e r = v) ∧
  (∀ r a g, Issues (.mts r a g) (fun s => s.needsMts a g) (mtsEffect r a)) ∧
  (∀ f a i, Issues (.fset f a i) (fun _ => { srcs := [a.qref] }) (fsetEffect f a i)) ∧
  (∀ f a i, Issues (.fwait f a i) (fun s => s.needsFwait f a i) (fwaitEffect f a i)) ∧
  (∀ f, Issues (.fclr f) (fun _ => {}) (fun s => s.later s.focus (.fclr f))) ∧
  (∀ q g, Issues (.qclose q g) (fun s => s.needsQclose q g)
    (fun s => s.later s.focus (.qclose q))) ∧
  (∀ d q g, Issues (.qstat d q g) (fun s => { dst := d.push, act := s.cur.guardP g, lat := 1, file := d.file })
    (fun s => s.toG d 1 (s.sregBefore s.focus .scu (.qcfg q)))) ∧
  (∀ d k g, Issues (.faultrd d k g) (fun s => s.needsFaultrd d g) (fun s => s.toRF d 1 (s.cur.faultWord s.eng k))) ∧
  (∀ d a v w, Issues (.hcall d a v w) (fun _ => { tok := some w })
    (fun s => s.enterOp { PendOp.of (.hcall d a v w) (some w) with addr := (s.cur.readG a).1 &&& ~~~(63#64) })) ∧
  (∀ c a b w, Issues (.icinv c a b w) (fun _ => { srcs := [a.qref, b.qref], tok := some w }) (icinvEffect c a b w)) ∧
  (∀ d a w, Issues (.mtrrd d a w) (fun _ => { srcs := [a.qref], dst := d.push, tok := some w }) (mtrrdEffect d a w))

/-! ## Memory, remote, ordering and system instructions at issue -/

/-- The SCU's memory instructions enter with their address, data, token and queue entries (R87, R178 to R187, R189). -/
def Obligations.ScuMemoryInstructionsEnter : Prop :=
  (∀ t d m w,
    Issues (.ld t d m w) (fun _ => needsLd d m w) (loadEffect (.ld t d m w) t d m w) ∧
    Issues (.ldn t d m w) (fun _ => needsLd d m w) (loadEffect (.ldn t d m w) t d m w) ∧
    Issues (.lda t d m w) (fun _ => needsLd d m w) (loadEffect (.lda t d m w) t d m w)) ∧
  (∀ t x m w, Issues (.st t x m w) (fun _ => needsSt x m w) (storeEffect t x m w)) ∧
  (∀ op wide d b x w, Issues (.atm op wide d b x w) (fun _ => needsAtomic d x w) (atmEffect op wide d b x w)) ∧
  (∀ wide d b x w, Issues (.acas wide d b x w) (fun _ => needsAtomic d x w) (acasEffect wide d b x w)) ∧
  (∀ d b x w, Issues (.acas2 d b x w) (fun _ => needsAtomic d x w) (acas2Effect d b x w)) ∧
  (∀ r b w, Issues (.stbind r b w) (fun _ => needsMgmt r w) (mgmtEffect (.stbind r b w) r (fun s => s.cur.scu.ar b) true w)) ∧
  (∀ r w, Issues (.stunbd r w) (fun _ => needsMgmt r w) (mgmtEffect (.stunbd r w) r (fun _ => 0) true w) ∧
    Issues (.stflsh r w) (fun _ => needsMgmt r w) (mgmtEffect (.stflsh r w) r (fun _ => 0) true w) ∧
    Issues (.stdrop r w) (fun _ => needsMgmt r w) (mgmtEffect (.stdrop r w) r (fun _ => 0) true w) ∧
    Issues (.sttch r w) (fun _ => needsMgmt r w) (mgmtEffect (.sttch r w) r (fun _ => 0) true w)) ∧
  (∀ n b w,
    Issues (.cflsh n b w) (fun _ => needsMgmt n w) (mgmtEffect (.cflsh n b w) n (fun s => s.cur.scu.ar b) false w) ∧
    Issues (.cinv n b w) (fun _ => needsMgmt n w) (mgmtEffect (.cinv n b w) n (fun s => s.cur.scu.ar b) false w) ∧
    Issues (.cdisc n b w) (fun _ => needsMgmt n w) (mgmtEffect (.cdisc n b w) n (fun s => s.cur.scu.ar b) false w))

/-- A remote instruction whose address is a multiple of its access size enters with its data and token: 1 to 8 bytes of RLD and RST, 8 of
RATM, 4, 8 or 16 of RCAS, 16 of FMINLOC and 8 of the other ROPKs; at any other address it traps ALIGN at issue and charges nothing
(R316, R319, R323 to R327). RFENCE enters with its token (R328). -/
def Obligations.RemoteInstructionsEnter : Prop :=
  (∀ t d b w, IssuesAligned (.rld t d b w) (fun s => s.needsRemote (some d) none w true false) b t.bytes
    (fun s => enterRemote (.rld t d b w) d w (s.cur.scu.ar b) 0 0 true false s) id) ∧
  (∀ t x b w, IssuesAligned (.rst t x b w) (fun s => s.needsRemote none (some x) w false true) b t.bytes
    (fun s => enterRemote (.rst t x b w) (.r 0) w (s.cur.scu.ar b) ((s.cur.readG x).1.setWidth 2048) 0 false true (popped s x))
    (fun s => popped s x)) ∧
  (∀ op d b x w, IssuesAligned (.ratm op d b x w) (fun s => s.needsRemote (some d) (some x) w true true) b 8
    (fun s => enterRemote (.ratm op d b x w) d w (s.cur.scu.ar b) ((s.cur.readG x).1.setWidth 2048) 0 true true (popped s x))
    (fun s => popped s x)) ∧
  (∀ d b x w, IssuesAligned (.rcas .pair d b x w) (fun s => s.needsRemote (some d) (some x) w true true) b 16
    (fun s => enterRemote (.rcas .pair d b x w) d w (s.cur.scu.ar b) ((s.cur.pair x).setWidth 2048)
      ((s.cur.pair d).setWidth 2048) true true s) id) ∧
  (∀ (d : GField) (b : BitVec 4) (x : GField) (w : BitVec 3),
    let enters (i : Instr) (size : Nat) : Prop :=
      IssuesAligned i (fun s => s.needsRemote (some d) (some x) w true true) b size
        (fun s => enterRemote i d w (s.cur.scu.ar b) ((s.cur.readG x).1.setWidth 2048) ((s.cur.readG d).1.setWidth 2048)
          true true (popped s x)) (fun s => popped s x)
    enters (.rcas .n64 d b x w) 8 ∧ enters (.rcas .n32 d b x w) 4 ∧
      enters (.casn d b x w) 8 ∧ enters (.enq d b x w) 8 ∧ enters (.deq d b x w) 8 ∧ enters (.chase d b x w) 8 ∧
      enters (.fadd d b x w) 8 ∧ enters (.fminloc d b x w) 16) ∧
  (∀ w, Issues (.rfence w) (fun _ => { tok := some w }) (fun s => s.enterOp (PendOp.of (.rfence w) (some w))))

/-- Ordering instructions enter both queues, or neither, and TLSIG answers its own timeline number with latency 1 (R189, R202,
R210 to R219). -/
def Obligations.OrderingInstructionsEnter : Prop :=
  (∀ k x m w, Issues (.fence k x m w) (fun _ => needsBoth w)
    (fun s => s.enterOp { PendOp.of (.fence k x m w) (some w) with ld := true, st := true })) ∧
  (∀ g, Issues (.mark g) (fun s => { ld := true, st := true, act := s.cur.guardOn s.eng g })
    (fun s => s.enterOp { PendOp.of (.mark g) none with ld := true, st := true } false)) ∧
  (∀ d w, Issues (.tlsig d w) (fun s => s.needsTlsig d w)
    (fun s => (s.toRF d 1 (BitVec.ofNat 64 s.ctx.next)).enterOp { PendOp.of (.tlsig d w) (some w) with ld := true, st := true })) ∧
  (∀ t n w, Issues (.tlwait t n w) (fun _ => { needsBoth w with srcs := [t.qref, n.qref] }) (tlwaitEffect t n w)) ∧
  (∀ d t w, Issues (.tlrd d t w) (fun _ => { srcs := [t.qref], dst := d.push, tok := some w }) (tlrdEffect d t w)) ∧
  (∀ r b o w, Issues (.binit r b o w) (fun _ => needsBoth w) (barEffect (.binit r b o w) r b o w true) ∧
    Issues (.barr r b o w) (fun _ => needsBoth w) (barEffect (.barr r b o w) r b o w true) ∧
    Issues (.bwait r b o w) (fun _ => needsBoth w) (barEffect (.bwait r b o w) r b o w false) ∧
    Issues (.btry r b o w) (fun _ => needsBoth w) (barEffect (.btry r b o w) r b o w true) ∧
    Issues (.binv r b o w) (fun _ => needsBoth w) (barEffect (.binv r b o w) r b o w true))

/-! ## Traps and the handler -/

/-- TRAP n and BRK n take a trap of code 0x38 and 0x39 with n as DETAIL, the group's point in word 1 and GTIME in word 5 (R361,
R363, R378): where the instance goes on, the trap pends for the SCU and is the engine's last record, the landing buffer stops
(R86), and nothing else has changed but what was left of the engine's last tries; in an instance without a handler point, and in a
handler, the instance ends with the record (R360). -/
def Obligations.TrapAndBreakAreTaken : Prop :=
  ∀ (n : BitVec 18) (g : Guard) (s : State), s.ready { act := s.cur.guardOn s.eng g } = true →
    ∀ (i : Instr) (code : BitVec 8), (i = .trap n g ∧ code = 0x38) ∨ (i = .brk n g ∧ code = 0x39) →
      let r : TrapRec :=
        { code := code, eng := s.eng, chan := none, kind := 0, pt := s.ctx.pt, addr := 0, detail := n.setWidth 64,
          time := s.gtime, mpc := s.ctx.mpc, cyc := s.cycle, num := 0, entry := false }
      let k := s.cur.modCtx s.eng (fun x =>
        { x with lastRec := some (r, 0, false), wait := none, stuck := false, target := none, reach := .idle, frozen := true })
      (s.cur.trapv ≠ 0 → isPoint s.cur.trapv = true → (s.eng = .scu → s.cur.hand = none) →
        exec i s = .next (s.setCore s.focus { k with pend := insertTrap r s.cur.pend })) ∧
      (s.cur.trapv = 0 ∨ isPoint s.cur.trapv = false ∨ (s.eng = .scu ∧ s.cur.hand.isSome = true) →
        exec i s = .next ((s.setCore s.focus k).endFault s.cur.inst r))

/-- HANDLER_ENTRY takes up the oldest pending trap (R359): the SCU's point, landing buffer, loop levels and run state are saved,
the landing buffer with the cycle counted that a trap of another engine lets it count (R86); the handler's first group is at TRAPV
four cycles on with an empty landing buffer and no loop level; the other engines are as before, but for the resume point and
HALTED that the record of the trapping engine takes (R361, R379). At a TRAPV that is 0 or no point the instance ends with the
record (R360). -/
def Obligations.HandlerEntrySaves : Prop :=
  ∀ (c : Nat) (s : State) (r : TrapRec) (rest : List TrapRec), s.canEnterHandler c = true → (s.core c).pend = r :: rest →
    ((s.core c).trapv = 0 ∨ isPoint (s.core c).trapv = false →
      exec (.handlerEntry c) s = .next (s.endFault (s.core c).inst r)) ∧
    ((s.core c).trapv ≠ 0 → isPoint (s.core c).trapv = true → ∃ k : Core, exec (.handlerEntry c) s = .next (s.setCore c k) ∧
      k.pend = rest ∧ k.loops = [] ∧ k.scu.pt = (s.core c).trapv ∧ k.scu.run = .running ∧ k.scu.land = [] ∧ k.scu.bubble = 4 ∧
      (∃ h, k.hand = some h ∧ h.rec_ = r ∧ h.pt = (s.core c).scu.pt ∧
        h.land = (if s.counts c .scu then (s.core c).scu.countDown else (s.core c).scu).land ∧
        h.loops = (s.core c).loops ∧ h.run = (s.core c).scu.run.refetched) ∧
      (∀ e, e ≠ .scu → k.ctx e = (if e = r.eng then
        ((s.core c).ctx e).noteEntry r (s.core c).scu.pt (decide ((s.core c).scu.run = .halted)) else (s.core c).ctx e)) ∧
      k.g = (s.core c).g ∧ k.p = (s.core c).p ∧ k.v = (s.core c).v ∧ k.flags = (s.core c).flags ∧
      k.queues = (s.core c).queues ∧ k.scu.areg = (s.core c).scu.areg ∧ k.scu.ops = (s.core c).scu.ops ∧
      k.scu.tok = (s.core c).scu.tok)

/-- A plain ERET from a trap of the SCU at its group, other than TRAP, ends handler mode and brings back the point, the landing
buffer, the loop levels and the run state that its entry saved, to issue after three cycles (R359, R381); registers keep what
the handler wrote. ERET with DROP, with a new point and from the other traps returns to where R381 resumes the trapping engine: a
new point must meet no fault, a notice ignores it. Outside the handler ERET raises ILL_FIELD at its group (R363, R381). -/
def Obligations.EretRestores : Prop :=
  (∀ (s : State) (h : Handler), s.eng = .scu → s.cur.hand = some h →
    h.rec_.eng = .scu → h.rec_.kind = 0 → h.rec_.chan = none → h.rec_.code ≠ 0x38 →
    s.ready (s.needsEret (.r 0) false) = true →
    ∃ k : Core, exec (.eret (.r 0) false false) s = .next (s.setCore s.focus k) ∧
      k.hand = none ∧ k.loops = h.loops ∧ k.scu.pt = h.pt ∧ k.scu.land = h.land ∧ k.scu.run = h.run ∧ k.scu.bubble = 3 ∧
      k.scu.frozen = decide (h.run = .running) ∧
      k.g = s.cur.g ∧ k.p = s.cur.p ∧ k.pend = s.cur.pend ∧ k.scu.areg = s.cur.scu.areg ∧ k.ve = s.cur.ve) ∧
  (∀ (s : State) (h : Handler) (a : GField) (drop newpt : Bool), s.cur.hand = some h → s.ready (s.needsEret a newpt) = true →
    (∀ re, newpt = false → s.resumeOf h.rec_ drop none = some re →
      exec (.eret a drop newpt) s = .next (s.returnFrom h drop re)) ∧
    (∀ re, newpt = true → h.rec_.kind = 3 → (popped s a).resumeOf h.rec_ drop none = some re →
      exec (.eret a drop newpt) s = .next ((popped s a).returnFrom h drop re)) ∧
    (newpt = true → h.rec_.kind ≠ 3 → s.pointFault s.focus h.rec_.eng (s.cur.readG a).1 = some none →
      exec (.eret a drop newpt) s = .next ((popped s a).returnFrom h drop (.to (s.cur.readG a).1))) ∧
    (∀ f, newpt = true → h.rec_.kind ≠ 3 → s.pointFault s.focus h.rec_.eng (s.cur.readG a).1 = some (some f) →
      exec (.eret a drop newpt) s = .next (s.groupTrap f.1 f.2.1 f.2.2))) ∧
  (∀ (s : State) (a : GField) (drop newpt : Bool), s.cur.hand = none →
    exec (.eret a drop newpt) s = .next (s.groupTrap 0x02 (ptLine s.ctx.pt) s.sylDetail))

/-- An engine that a trap has parked does not issue until the ERET that names it (R358): no step of its issue slot changes
anything. -/
def Obligations.ParkedEngineDoesNotIssue : Prop :=
  ∀ (s : State) (t : IssueSlot), (s.core t.core).parked t.eng = true → s.issueSlot t = .next s

/-! ## The VE -/

/-- VADD to VNEG: each element is the exact result of its sources' values rounded once in the mode of FCTL (R67, R131); VMIN and
VMAX choose an encoding, VABS and VNEG change the sign bit (R131, R132), with latency 4, and 2 for the last two (R125). -/
def Obligations.VectorFloatResults : Prop :=
  ∀ t : FTy,
    let e (x : Row) (k : Nat)  : Machine.Num := t.spec.decode (elem (8 * t.bytes) x k).toNat
    let add3 (s : State) (d : VField) (x y : Row) (k : Nat) (p q : Machine.Num → Machine.Num) : BitVec (8 * t.bytes) × W64 :=
      roundTo t s.cur.rmode (Machine.Num.fma s.cur.rmode (p (e x k)) (e y k) (q (e (s.cur.readV d).1 k)))
    VectorTwo (.vadd t) t.bytes 4 (fun s _ x y k => roundTo t s.cur.rmode ((e x k).add s.cur.rmode (e y k))) ∧
    VectorTwo (.vsub t) t.bytes 4 (fun s _ x y k => roundTo t s.cur.rmode ((e x k).add s.cur.rmode (e y k).neg)) ∧
    VectorTwo (.vmul t) t.bytes 4 (fun s _ x y k => roundTo t s.cur.rmode ((e x k).mul (e y k))) ∧
    VectorTwo (.vmin t) t.bytes 4 (fun _ _ x y k => (pickNumber t true (elem _ x k) (elem _ y k), 0)) ∧
    VectorTwo (.vmax t) t.bytes 4 (fun _ _ x y k => (pickNumber t false (elem _ x k) (elem _ y k), 0)) ∧
    VectorTwo (.vfma t) t.bytes 4 (fun s d x y k => add3 s d x y k id id) ∧
    VectorTwo (.vfms t) t.bytes 4 (fun s d x y k => add3 s d x y k id Machine.Num.neg) ∧
    VectorTwo (.vfnma t) t.bytes 4 (fun s d x y k => add3 s d x y k Machine.Num.neg id) ∧
    VectorOne (.vabs t) t.bytes 2 (fun _ _ x k => (canonical t (elem _ x k &&& ~~~(signBit t)), 0)) ∧
    VectorOne (.vneg t) t.bytes 2 (fun _ _ x k => (canonical t (elem _ x k ^^^ signBit t), 0))

/-- The unit of VDIV, VSQRT, VRCP, VRSQ, VEXP2 and VLOG2: every element is computed at issue and held by an operation with its
token; VE_UNIT_COMPLETE writes the destination, raises the flags and releases the token, in issue order (R129, R131, R132). -/
def Obligations.VectorUnitIssuesAndCompletes : Prop :=
  (∀ (t : FTy) (d a b : VField) (w : BitVec 3), Issues (.vdiv t d a b w) (fun _ => needsUnit d [a.qref, b.qref] w)
    (fun s => (s.setCore s.focus ((s.cur.readV a).2.readV b).2).unitOp (.vdiv t d a b w) d w
      (perElem t.bytes (BitVec.allOnes 256) (fun k =>
        roundTo t s.cur.rmode ((felem t (s.cur.readV a).1 k).div (felem t ((s.cur.readV a).2.readV b).1 k)))))) ∧
  (∀ (t : FTy) (d a : VField) (w : BitVec 3),
    let one (i : Instr) (f : RMode → Machine.Num → Machine.Num × W64) : Prop :=
      Issues i (fun _ => needsUnit d [a.qref] w)
        (unitEffect i t d a w (fun mode x => roundTo t mode (f mode (t.spec.decode x.toNat))))
    let log (i : Instr) (f : Nat → RMode → Nat × W64) : Prop :=
      Issues i (fun _ => needsUnit d [a.qref] w)
        (unitEffect i t d a w (fun mode x => (BitVec.ofNat _ (f x.toNat mode).1, (f x.toNat mode).2)))
    one (.vsqrt t d a w) (fun _ v => v.sqrt) ∧ one (.vrcp t d a w) (fun _ v => v.rcp) ∧
      one (.vrsq t d a w) (fun _ v => v.rsqrt) ∧ log (.vexp2 t d a w) t.spec.exp2 ∧ log (.vlog2 t d a w) t.spec.log2) ∧
  (∀ c s o, s.unitDue c = some o → exec (.veUnitComplete c) s = .next (unitCompleteEffect c o s))

/-- The integer, logic, shift, multiply-accumulate and narrowing results of R133 to R138, element by element. -/
def Obligations.VectorIntegerResults : Prop :=
  (∀ t : ITy,
    VectorTwo (.viadd t) t.bytes 2 (fun _ _ x y k => (elem _ x k + elem _ y k, 0)) ∧
    VectorTwo (.visub t) t.bytes 2 (fun _ _ x y k => (elem _ x k - elem _ y k, 0)) ∧
    VectorTwo (.vimul t) t.bytes 3 (fun _ _ x y k => (elem _ x k * elem _ y k, 0)) ∧
    VectorTwo (.vimulh t) t.bytes 3 (fun _ _ x y k => (mulHigh t.unsigned (elem _ x k) (elem _ y k), 0)) ∧
    VectorTwo (.vimin t) t.bytes 2
      (fun _ _ x y k => (if lessE t.unsigned (elem (8 * t.bytes) x k) (elem _ y k) then elem _ x k else elem _ y k, 0)) ∧
    VectorTwo (.vimax t) t.bytes 2
      (fun _ _ x y k => (if lessE t.unsigned (elem (8 * t.bytes) x k) (elem _ y k) then elem _ y k else elem _ x k, 0)) ∧
    VectorTwo (.vclamp t) t.bytes 2
      (fun s d x y k => (clampE t.unsigned (elem _ (s.cur.readV d).1 k) (elem _ x k) (elem _ y k), 0))) ∧
  VectorTwo (.vwadd .i16) 4 2 (fun _ _ x y k => (elem 32 x k + (elem 16 y k).signExtend 32, 0)) ∧
  VectorTwo (.vwadd .i8) 2 2 (fun _ _ x y k => (elem 16 x k + (elem 8 y k).signExtend 16, 0)) ∧
  VectorTwo (.vwadd .n16) 4 2 (fun _ _ x y k => (elem 32 x k + (elem 16 y k).setWidth 32, 0)) ∧
  (∀ t : WTy,
    let amount (y : Row) (k : Nat) : Nat := (elem (8 * t.bytes) y k).toNat % (8 * t.bytes)
    VectorTwo (.vand t) t.bytes 2 (fun _ _ x y k => (elem _ x k &&& elem _ y k, 0)) ∧
    VectorTwo (.vor t) t.bytes 2 (fun _ _ x y k => (elem _ x k ||| elem _ y k, 0)) ∧
    VectorTwo (.vxor t) t.bytes 2 (fun _ _ x y k => (elem _ x k ^^^ elem _ y k, 0)) ∧
    VectorOne (.vnot t) t.bytes 2 (fun _ _ x k => (~~~(elem _ x k), 0)) ∧
    VectorTwo (.vshl t) t.bytes 2 (fun _ _ x y k => (elem _ x k <<< amount y k, 0)) ∧
    VectorTwo (.vshr t) t.bytes 2 (fun _ _ x y k => (elem _ x k >>> amount y k, 0)) ∧
    VectorTwo (.vsra t) t.bytes 2 (fun _ _ x y k => ((elem _ x k).sshiftRight (amount y k), 0)) ∧
    VectorTwo (.vrshr t) t.bytes 2 (fun _ _ x y k => (roundShift (elem _ x k) (amount y k), 0))) ∧
  (∀ q : BitVec 2, VectorTwo (.vmacb q) 4 3 (fun s d x y k =>
    (elem 32 (s.cur.readV d).1 k +
      (elem 8 x (64 * q.toNat + k)).signExtend 32 * (elem 8 y (64 * q.toNat + k)).signExtend 32, 0))) ∧
  VectorTwo (.vimulr true) 2 3 (fun _ _ x y k => mulRound (elem 16 x k) (elem 16 y k)) ∧
  VectorTwo (.vimulr false) 4 3 (fun _ _ x y k => mulRound (elem 32 x k) (elem 32 y k)) ∧
  (∀ q d a g, Issues (.vnarb q d a g) (fun _ => needsV d [a.qref] 3) (vnarbEffect q d a g))

/-- The elements of a guarded element-wise result (R122, R123): an enabled element is its function's value, and a disabled one
has no byte in the mask of what is written; its flags are those of the enabled elements alone. -/
def Obligations.EnabledElementsAreComputed : Prop :=
  ∀ (b : Nat), b = 1 ∨ b = 2 ∨ b = 4 ∨ b = 8 →
    ∀ (m : BMask) (f : Nat → BitVec (8 * b) × W64) (k : Nat), k < 256 / b →
      (m.getLsbD (b * k) = true → elem (8 * b) (perElem b m f).1 k = (f k).1) ∧
      (∀ j, j < b → (elemMask b m).getLsbD (b * k + j) = m.getLsbD (b * k)) ∧
      ((∀ k, k < 256 / b → m.getLsbD (b * k) = true → (f k).2 = 0) → (perElem b m f).2 = 0)

/-- Compares write every byte of an enabled element, VPAND, VPOR and VPNOT work on the bytes of predicates, VSEL takes an
element of its first source where the predicate enables it, and VCVT and VQNT round each element of a segment once (R139 to
R144). -/
def Obligations.VectorCompareSelectConvert : Prop :=
  (∀ c t p a b g, Issues (.vcmp c t p a b g) (fun _ => needsVp [a.qref, b.qref])
    (vcompareEffect t.bytes p a b g (fun x y k => (c.holds (elem (8 * t.bytes) x k) (elem (8 * t.bytes) y k), 0)))) ∧
  (∀ c t p a b g, Issues (.vfcmp c t p a b g) (fun _ => needsVp [a.qref, b.qref])
    (vcompareEffect t.bytes p a b g (fun x y k => c.holds (felem t x k) (felem t y k)))) ∧
  (∀ p a b g, Issues (.vpand p a b g) (fun _ => needsVp [])
    (fun s => s.land 2 (.vp p (s.cur.vpr a &&& s.cur.vpr b) (s.cur.vpr g)))) ∧
  (∀ p a b g, Issues (.vpor p a b g) (fun _ => needsVp [])
    (fun s => s.land 2 (.vp p (s.cur.vpr a ||| s.cur.vpr b) (s.cur.vpr g)))) ∧
  (∀ p a g, Issues (.vpnot p a g) (fun _ => needsVp []) (fun s => s.land 2 (.vp p (~~~(s.cur.vpr a)) (s.cur.vpr g)))) ∧
  (∀ t d a b g, Issues (.vsel t d a b g) (fun _ => needsV d [a.qref, b.qref] 2) (vselEffect t d a b g)) ∧
  (∀ dst src d a k,
    Issues (.vcvtLow dst src d a k) (fun _ => needsV d [a.qref] 3) (vcvtEffect dst src d a k.toNat) ∧
    Issues (.vcvtHigh dst src d a k) (fun _ => needsV d [a.qref] 3) (vcvtEffect dst src d a (8 + k.toNat))) ∧
  (∀ dst d a b k, Issues (.vqnt dst d a b k) (fun _ => needsV d [a.qref, b.qref] 4) (vqntEffect dst d a b k))

/-- Permutes, rotations, broadcasts, VIOTA, VSCAN and VKEY (R145 to R149, R155); a Morton key has
bit i of its c-th word at bit n·i + c, of the 32 low bits of two words or the 21 low bits of three. -/
def Obligations.VectorPermuteResults : Prop :=
  (∀ t : WTy,
    VectorTwo (.vperm t) t.bytes 3
      (fun _ _ x y k => (elem _ x ((elem (8 * t.bytes) y k).toNat % (256 / t.bytes)), 0)) ∧
    (∀ p, VectorOne (.vshuf t p) t.bytes 3 (fun _ _ x k => (elem _ x (shufIndex p (256 / t.bytes) k), 0))) ∧
    (∀ start d g, Issues (.viota t start d g) (fun _ => needsV d [] 3)
      (fun s => s.toV d 3 (perElem t.bytes (s.cur.vpr g) (fun k => (BitVec.ofNat _ (start.toNat + k), 0))).1
        (elemMask t.bytes (s.cur.vpr g)) (perElem t.bytes (s.cur.vpr g) (fun k => (BitVec.ofNat _ (start.toNat + k), 0))).2))) ∧
  (∀ (n : BitVec 8) (d a : VField) (g : BitVec 3),
    Issues (.vrot n d a g) (fun _ => needsV d [a.qref] 3) (byteMoveEffect d a g (fun x => x.rotateRight (8 * n.toNat))) ∧
    ∀ s, s.ready (needsV d [a.qref] 3) = true →
      exec (.vrmrg n d a g) s = .next (byteMoveEffect d a g (fun y => joinBytes (s.cur.readV d).1 y n.toNat) s)) ∧
  (∀ blk i d a g, Issues (.vbcast blk i d a g) (fun _ => needsV d [a.qref] 3)
    (laneMoveEffect d a g (spread (bcastBytes blk) i.toNat))) ∧
  (∀ wide i d a g, Issues (.vextr wide i d a g) (fun _ => needsV d [a.qref] 3)
    (laneMoveEffect d a g (extractElem (if wide then 8 else 4) i.toNat))) ∧
  (∀ op d a g, Issues (.vscan op d a g) (fun _ => needsV d [a.qref] (scanLat op)) (vscanEffect op d a g)) ∧
  (∀ t : KeyTy, VectorTwo (.vkey t) 8 4 (fun _ _ x y j =>
    (BitVec.ofNat 64 (keyOf t (elem 32 x (2 * j)).toNat (elem 32 x (2 * j + 1)).toNat (elem 32 y (2 * j)).toNat), 0))) ∧
  (∀ (x y z i : Nat),
    (i < 32 → (keyOf .m2 x y z).testBit (2 * i) = x.testBit i ∧ (keyOf .m2 x y z).testBit (2 * i + 1) = y.testBit i) ∧
    (i < 21 → (keyOf .m3 x y z).testBit (3 * i) = x.testBit i ∧ (keyOf .m3 x y z).testBit (3 * i + 1) = y.testBit i ∧
      (keyOf .m3 x y z).testBit (3 * i + 2) = z.testBit i))

/-- XCLR, XACC, XSCA, XRED and XRND with their latencies; XACC and XSCA form their sums when they land (R125, R128, R150 to
R153). An exact sum is a sum of integers: terms whose sums all fit a lane give their sum, whatever their order, and raise no
flag; a sum above or below the range saturates and is marked (R76, R78). -/
def Obligations.ExactRegisterResults : Prop :=
  (∀ x g, Issues (.xclr x g) (fun _ => needsX [] 2) (fun s => s.land 2 (.xclr x (s.cur.vpr g)))) ∧
  (∀ x a g, Issues (.xacc x a g) (fun _ => needsX [a.qref] 2)
    (fun s => (s.setCore s.focus (s.cur.readV a).2).land 2 (.xacc x (s.cur.readV a).1 ((s.cur.readV a).2.vpr g)))) ∧
  (∀ e x a b g, Issues (.xsca e x a b g) (fun _ => needsX [a.qref, b.qref] 4) (xscaEffect e x a b g)) ∧
  (∀ n x a g, Issues (.xred n x a g) (fun _ => needsX [] 4) (xredEffect n x a g)) ∧
  (∀ b d a g, Issues (.xrnd b d a g) (fun _ => needsV d [] 6) (xrndEffect b d a g)) ∧
  (∀ (l : XLane) (a b : Int),
    let fits (n : Int) : Prop := -(2 ^ 447) ≤ n ∧ n < 2 ^ 447
    (fits (l.int + a) → fits (l.int + b) → fits (l.int + a + b) →
      ((l.sum a).1.sum b).1 = ((l.sum b).1.sum a).1 ∧ ((l.sum a).1.sum b).1.int = l.int + a + b ∧
        ((l.sum a).1.sum b).2 = 0 ∧ ((l.sum a).1.sum b).1.xsat = l.xsat) ∧
    (2 ^ 447 ≤ l.int + a → (l.sum a).1.int = 2 ^ 447 - 1 ∧ (l.sum a).1.xsat = true ∧ (l.sum a).2 = fXSAT) ∧
    (l.int + a < -(2 ^ 447) → (l.sum a).1.int = -(2 ^ 447) ∧ (l.sum a).1.xsat = true ∧ (l.sum a).2 = fXSAT))

/-- The VE's memory instructions enter with the address, guard, source and token they have at issue (R172 to R177); VLDQ
reserves its entry and advances its address register (R175). XLD and XST enter where no access to the 16 rows of the image traps, XST
with the register captured; an address outside the stash raises PERM, and a row that traps does so at the group (R154). -/
def Obligations.VectorMemoryInstructionsEnter : Prop :=
  (∀ d m w, Issues (.vld d m w) (fun _ => needsVld d w) (rowLoadEffect (.vld d m w) d m 256 (BitVec.allOnes 256) w)) ∧
  (∀ d m p w, Issues (.vldt d m p w) (fun _ => needsVld d w)
    (fun s => rowLoadEffect (.vldt d m p w) d m 32 (s.cur.vpr p) w s)) ∧
  (∀ x m w, Issues (.vst x m w) (fun _ => needsVst x w) (rowStoreEffect (.vst x m w) x m (BitVec.allOnes 256) w)) ∧
  (∀ x m p w, Issues (.vstm x m p w) (fun _ => needsVst x w)
    (fun s => rowStoreEffect (.vstm x m p w) x m (s.cur.vpr p) w s)) ∧
  (∀ q m p w, Issues (.vldq q m p w) (fun s => s.needsVldq q w) (fun s =>
    ((s.modCur (fun k => k.reserve q)).modCtx (fun x => x.setA m.base (s.ctx.ar m.base + s.ctx.increment m))).enterOp
      { PendOp.of (.vldq q m p w) (some w) with
        ld := true, addr := s.ctx.ar m.base, mask := s.cur.vpr p, qid := s.cur.qserial })) ∧
  (∀ d b sh ix p w, Issues (.vgath d b sh ix p w) (fun _ => needsVld (.r d) w)
    (gatherEffect (.vgath d b sh ix p w) 0 b ix p w true)) ∧
  (∀ x b sh ix p w, Issues (.vscat x b sh ix p w) (fun _ => needsVst x w)
    (fun s => gatherEffect (.vscat x b sh ix p w) (s.cur.readV x).1 b ix p w false (s.setCore s.focus (s.cur.readV x).2))) ∧
  (∀ b sh ix p w, Issues (.vpref b sh ix p w) (fun _ => needsVld (.r 0) w)
    (gatherEffect (.vpref b sh ix p w) 0 b ix p w true)) ∧
  (∀ (x : BitVec 2) (m : MemOpnd) (w : BitVec 3) (s : State),
    let a := s.ctx.ea m 4096 &&& ~~~(0xFFF#64)
    let image (i : Instr) (need : Needs) (acc : Access) (enters : State) : Prop :=
      (s.ready need = true → isStash a = true → (∀ n, n < 16 → s.rowTrap (imageAt a n) acc = none) → exec i s = .next enters) ∧
      (s.ready need = true → isStash a = false → exec i s = .next (s.groupTrap 0x11 a (permDetail acc false))) ∧
      (∀ (n : Nat) (f : BitVec 8 × W64 × W64), s.ready need = true → isStash a = true → n < 16 →
        (∀ k, k < n → s.rowTrap (imageAt a k) acc = none) → s.rowTrap (imageAt a n) acc = some (.ok f) →
        exec i s = .next (s.groupTrap f.1 f.2.1 f.2.2)) ∧
      (s.ready need = false → ∃ t, exec i s = .next t ∧ (t = s ∨ OnlyRefuses s t))
    image (.xld x m w) { tok := some w, ld := true } .read
      (s.enterOp { PendOp.of (.xld x m w) (some w) with ld := true, addr := a }) ∧
    image (.xst x m w) { tok := some w, st := true } .write
      (s.enterOp { PendOp.of (.xst x m w) (some w) with
        st := true, addr := a, rows := (List.range 16).map (fun n => s.cur.imageRow x n) }))

/-! ## The copy engine -/

/-- A copy whose descriptor has been read takes its token and an entry of its channel, or of the caddy where it is timed, and waits
for room there (R190, R272, R277, R286, R293); one with an illegal field traps ILL_FIELD with the descriptor's address (R277, R363).
CWPRD and CSTAT take their value as it stood before the cycle, CBUF its address and count, at issue, and enter with CCAN (R294 to
R297). -/
def Obligations.CopyIssues : Prop :=
  let go (i : Instr) (c : BitVec 3) (w : BitVec 3) (cast timed : Bool) (a : W64) (d : Desc) (s : State) : State :=
    let kind : JobKind := if cast then .mcast else .copy
    if d.bad ∨ (cast ∧ d.badCast (s.instOf s.focus)) then s.groupTrap 0x02 a s.sylDetail
    else if timed then
      (if 32 ≤ s.cur.caddy.length then s.noteWait [.order] else s.startTimed i c w (s.copyStorage s.focus kind d) kind d)
    else if 32 ≤ (s.cur.chan c).jobs.length then s.noteWait [.order]
    else s.startJob i c w (s.copyStorage s.focus kind d) (fun num => Job.fresh num kind d)
  (∀ c m w,
    IssuesDescriptor (.cpy c m w) (fun _ => { tok := some w }) m (go (.cpy c m w) c w false false) ∧
    IssuesDescriptor (.cpyt c m w) (fun _ => { tok := some w }) m (go (.cpyt c m w) c w false true) ∧
    IssuesDescriptor (.cpym false c m w) (fun _ => { tok := some w }) m (go (.cpym false c m w) c w true false) ∧
    IssuesDescriptor (.cpym true c m w) (fun _ => { tok := some w }) m (go (.cpym true c m w) c w true true)) ∧
  (∀ (c : BitVec 3) (b m : BitVec 4) (w : BitVec 3) (s : State), s.ready { tok := some w } = true →
    slice (s.ctx.ar m) 29 3 = 0#3 → isStash (s.ctx.ar b) = true → (s.cur.chan c).jobs.length < 32 →
    exec (.pput c b m w) s = .next (s.startJob (.pput c b m w) c w putEnds (fun num =>
      { Job.fresh num .put (putDesc (s.ctx.ar b) (s.ctx.ar m)) with base := s.ctx.ar b, peer := s.ctx.ar m }))) ∧
  (∀ d acq c w, Issues (.cwprd d acq c w) (fun _ => { tok := some w })
    (fun s => s.enterOp { PendOp.of (.cwprd d acq c w) (some w) with
      addr := (s.cur.seenChan c ((s.cur.chan c).wp, 0)).1, val := (0#64).setWidth 2048 })) ∧
  (∀ all c w, Issues (.ccan all c w) (fun _ => { tok := some w })
    (fun s => s.enterOp { PendOp.of (.ccan all c w) (some w) with addr := 0, val := (0#64).setWidth 2048 })) ∧
  (∀ set n m w, Issues (.cbuf set n m w) (fun _ => { tok := some w })
    (fun s => s.enterOp { PendOp.of (.cbuf set n m w) (some w) with
      addr := s.ctx.ea m 4096, val := (s.ctx.ar n).setWidth 2048 })) ∧
  (∀ d clr c w, Issues (.cstat d clr c w) (fun _ => { tok := some w }) (fun s =>
    (if clr then s.modChan s.focus c (fun x => { x with clear := true }) else s).enterOp
      { PendOp.of (.cstat d clr c w) (some w) with
        addr := (s.cur.seenChan c (0, s.cur.cstat c)).2, val := (0#64).setWidth 2048 }))

/-- The address function of a copy (R275): an offset moves within the stash's 2 MiB, or within the 48 bits of a global address,
and the other bits stay; it is additive. -/
def Obligations.CopyAddressesWrap : Prop :=
  ∀ (stash : Bool) (a : W64) (t u : Int),
    copyAdr stash a 0 = a ∧ copyAdr stash (copyAdr stash a t) u = copyAdr stash a (t + u) ∧
    (slice (copyAdr stash a t) 48 16 = slice a 48 16) ∧
    (stash = true → slice (copyAdr stash a t) 21 43 = slice a 21 43 ∧
      (slice (copyAdr stash a t) 0 21).toNat = (((slice a 0 21).toNat : Int) + t).emod (2 ^ 21)) ∧
    (stash = false → (slice (copyAdr stash a t) 0 48).toNat = (((slice a 0 48).toNat : Int) + t).emod (2 ^ 48))

/-- The caddy's order is by TIME, then by issue (R286): a timed copy is placed so that a sorted caddy stays sorted, behind those
of the same time. Claimants of stash banks are served oldest first, those of equal age in the fixed order of engines, and none is
lost (R159); a row's sector of number n lies in bank 8(q mod 4) + n, of 32, and a bank that is taken is not free in that cycle. A
bridge port serves its virtual channels by priority, and one whose head has waited 1,024 ring cycles before all but time (R302). -/
def Obligations.ServiceKeepsItsOrder : Prop :=
  (∀ (t : Timed) (l : List Timed), l.Pairwise (fun a b : Timed => a.time.toNat ≤ b.time.toNat) →
    (insertTimed t l).Pairwise (fun a b : Timed => a.time.toNat ≤ b.time.toNat) ∧
    ∃ p q : List Timed, l = p ++ q ∧ insertTimed t l = p ++ t :: q ∧ (∀ x ∈ p, x.time.toNat ≤ t.time.toNat) ∧
      ∀ x ∈ q, t.time.toNat < x.time.toNat) ∧
  (∀ l : List (Nat × Nat × Nat × Claimant), (byAge l).Perm l ∧
    (byAge l).Pairwise (fun a b => a.1 < b.1 ∨ a.1 = b.1 ∧ a.2.1 ≤ b.2.1)) ∧
  (∀ q n : Nat, n < 8 → bankOf (q, n) = 8 * (q % 4) + n ∧ bankOf (q, n) < 32) ∧
  (∀ (k : Core) (b now : Nat), (k.takeBank b now).bankFree b now = false ∧
    ∀ d, d ≠ b → (k.takeBank b now).bankFree d now = k.bankFree d now) ∧
  (∀ (s t : State) (c : Nat) (w : Claimant), t.banksFree = false →
    (s.settle t c w).hbm = s.hbm ∧ (s.settle t c w).turnedAway c w = true) ∧
  (∀ (now : Nat) (ms : List Msg),
    ((∀ m ∈ ms, now < m.since + 1024 * ringCycles) →
      pickVc now ms = [(5 : BitVec 3), 4, 1, 2, 3, 0].find? (fun v => ms.any (fun m => decide (m.vc = v)))) ∧
    ((∃ m ∈ ms, m.vc = 5) → pickVc now ms = some 5) ∧
    ((∀ m ∈ ms, m.vc ≠ 5) → ∀ v m, v.toNat < 5 → ms.find? (fun m => decide (m.vc = v)) = some m → m.since + 1024 * ringCycles ≤ now →
      ∃ v' m', pickVc now ms = some v' ∧ ms.find? (fun m => decide (m.vc = v')) = some m' ∧ m'.since + 1024 * ringCycles ≤ now))

/-- A caddy's release, a copy's landings and its completion (R278 to R290, R295 to R298): the copy that is due moves from the
caddy to its channel; the running copy lands its next run, where the stash banks that it claims are free (R159); a copy all of whose
bytes have landed and been credited, and a multicast that every receiver has refused (R290), raises its flags at the end of the cycle,
leaves its channel and releases its token. -/
def Obligations.CopyEventsAct : Prop :=
  (∀ c s t, s.dueTimed c = some t → exec (.caddyRelease c) s = .next (s.modCore c (fun k =>
    ({ k with
        caddy := k.caddy.filter (fun u : Timed => decide (u.job.num ≠ t.job.num))
        ce := k.ce.requeue t.job.num } : Core).queueJob t.chan
      { t.job with num := k.ce.serial + 1, late := decide (t.time.toNat < (s.gtime - (s.instOf c).freeze).toNat) }))) ∧
  (∀ c ch far s j u, s.movingJob c ch = some j → j.cancelled = false → j.kind.copies = true →
    j.landedAll ((s.core c).chan ch).prog = false →
    let t : State := { s with claims := [] }
    let f : Option FarReply := far <|> ((s.core c).chan ch).kept
    (j.asked = none ∨ j.part ≤ (s.core c).left ch.toNat) → (f = none ∨ (j.asked.isSome = true ∧ t.stillHere c (.chan ch.toNat) = false)) →
    t.homeDenied c j = false → t.grantDenied c j = false → 0 < t.runLen c ch j → (j.kind = .mcast → j.recv ≠ []) →
    t.landRun c ch j f = .ok u → u.banksFree = true →
    exec (.copyLanding c ch far) s = .next u.takeBanks) ∧
  (∀ c ch s j, s.movingJob c ch = some j → j.kind = .copy ∨ j.kind = .mcast → s.emptyFlag c j = none ∨ s.emptyFlag c j = some .here →
    j.landedAll ((s.core c).chan ch).prog = true → ((s.core c).chan ch).owed = [] → s.homeDenied c j = false →
    exec (.copyComplete c ch) s =
      .next (((s.flagCores c j).foldl (fun s p => s.later p (.fadd j.desc.fidx j.desc.famt)) s).endJob c ch j false))

/-! ## Collectives -/

/-- CGRP enters with its address and waits for its slot's operations; a collective with a descriptor in range takes its token, an
entry of its channel and its slot's next sequence number, or waits for room on its channel and at its die's exchange unit; one with
an illegal field traps ILL_FIELD with the descriptor's address (R190, R336, R337, R347, R348, R354). -/
def Obligations.CollectivesIssue : Prop :=
  (∀ slot m w, Issues (.cgrp slot m w)
    (fun s => { tok := some w, cond := if s.cur.slotBusy slot then some .order else none })
    (fun s => s.enterOp { PendOp.of (.cgrp slot m w) (some w) with addr := s.ctx.ea m 64, val := s.sylDetail.setWidth 2048 })) ∧
  (∀ c m w,
    let coll (i : Instr) (k : CollKind) : Prop :=
      IssuesDescriptor i (fun _ => { tok := some w }) m (collEffect i k c w) ∧
      ∀ (a : W64) (d : Desc) (s : State),
        let bad := (if k = .repart then d.repartBad (s.cur.group (d.gslot k).toNat)
          else d.collBad k (s.cur.group (d.gslot k).toNat)) || s.blockTagged (d.blockAt k)
        let room := decide ((s.cur.chan c).jobs.length < 32) && decide (s.opsOnDie (s.focus / 256) < 32)
        let t := collEffect i k c w a d s
        (bad = true → t = s.groupTrap 0x02 a s.sylDetail) ∧
        (bad = false → room = false → t = s.noteWait [.order]) ∧
        (bad = false → room = true →
          (t.cur.group (d.gslot k).toNat).seq = (s.cur.group (d.gslot k).toNat).seq + 1 ∧
          (t.cur.chan c).jobs.length = (s.cur.chan c).jobs.length + 1 ∧ t.hbm = s.hbm)
    coll (.car c m w) .car ∧ coll (.crs c m w) .crs ∧ coll (.cag c m w) .cag ∧ coll (.ca2a c m w) .ca2a ∧
      coll (.cbc c m w) .cbc ∧ coll (.repart c m w) .repart)

/-- The steps of a collective (R336 to R346): a contribution that was sent arrives at the unit of a member's context, and one that
finds none is sent back with TAG; an element that every member has contributed to is reduced; a result lands, where the stash banks
that it claims are free (R159); the answer of another package is held; and the operation completes with its status word, when all has
been done. -/
def Obligations.CollectiveEventsAct : Prop :=
  (∀ (die : BitVec 3) (k : Contribution) (s : State), k.dest.toNat / 256 = die.toNat → k.code = 0 →
    (k.pkg = s.pkg → (List.range 8).any (fun ch => (s.outgoing k.core.toNat (BitVec.ofNat 3 ch)).contains k) = true) →
    (∀ n, s.ctxAt k.dest.toNat k.stag k.gid k.seq = some n →
      (s.xop n k.dest.toNat k.gid k.seq).any (fun x => x.contribs.contains k) = false →
      exec (.contributionArrival die k) s =
        .next (s.modXop n k.dest.toNat k.gid k.seq (fun x => { x with contribs := x.contribs ++ [k] }))) ∧
    (s.ctxAt k.dest.toNat k.stag k.gid k.seq = none →
      exec (.contributionArrival die k) s = .next (s.partBack k 0x0B))) ∧
  (∀ (die : BitVec 3) (gid seq : BitVec 32) (n : Nat) (s : State) (x : XOp),
    s.xops.find? (fun x => decide (x.core / 256 = die.toNat ∧ x.gid = gid ∧ x.seq = seq) && x.reducible n) = some x →
    exec (.elementReduce die gid seq n) s = .next (s.modXop x.ctx x.core gid seq (fun x => x.reduceAt n))) ∧
  (∀ c ch s j h x k u, s.collJob c ch = some (j, h) → 0 < (s.core c).left ch.toNat →
    let t : State := { s with claims := [] }
    t.heldRefusal c j h = none → t.nextAnswer c j h = none → t.nextItem c j h = some (x, k) → t.landItem c ch j h x k = .ok u →
    u.banksFree = true → exec (.collectiveResultLanding c ch none) s = .next u.takeBanks) ∧
  (∀ c ch f s, exec (.collectiveResultLanding c ch (some f)) s = .next (s.takeFar c ch f)) ∧
  (∀ c ch s j h t, s.collJob c ch = some (j, h) → s.collDone c j h = true →
    s.writeBlock c j h.kind (s.ownPlan c j h) (j.stat ||| s.ownStat c h) = .ok t →
    exec (.collectiveComplete c ch) s = .next
      (((if j.desc.collFen h.kind then t.later c (.fadd (j.desc.collFidx h.kind) 1) else t).endJob c ch j false).endXop c h))

/-! ## The matrix engine -/

/-- The matrix engine's instructions at issue (R222 to R228, R238 to R245, R252 to R266): array commands enter the core's
sequence, with their token where they have one; tile loads and readouts enter with the address of their base register before
its post-increment; REP alone does nothing. -/
def Obligations.MatrixInstructionsEnter : Prop :=
  let command (i : Instr) (w : BitVec 3) : Prop :=
    Issues i (fun _ => { tok := some w }) (fun s =>
      (s.enterOp (PendOp.of i (some w))).modCur (fun k => { k with mxs := k.mxs.append { Cmd.of i 0 with num := s.ctx.serial + 1 } }))
  (∀ n : BitVec 10, Issues (.mlease n) (fun _ => { bad := decide (n = 0) || decide (256 < n.toNat) })
    (fun s => s.modCur (fun k => { k with mxs := k.mxs.append (Cmd.of (.mlease n) 0) }))) ∧
  Issues .mfree (fun _ => {}) (fun s => s.modCur (fun k => { k with mxs := k.mxs.append (Cmd.of .mfree 0) })) ∧
  (∀ n s, exec (.rep n) s = .next s) ∧
  (∀ a b, Issues (.mseed a b) (fun _ => {})
    (fun s => (s.later s.focus (.mts .mx .seeds (s.ctx.ar a))).later s.focus (.mts .mx .seedm (s.ctx.ar b)))) ∧
  (∀ r cls m w,
    Issues (.mlda r cls m w) (fun _ => { tok := some w, ld := true }) (tileEffect (.mlda r cls m w) r m w) ∧
    Issues (.mldb r cls m w) (fun _ => { tok := some w, ld := true }) (tileEffect (.mldb r cls m w) r m w) ∧
    Issues (.mldbt r cls m w) (fun _ => { tok := some w, ld := true }) (tileEffect (.mldbt r cls m w) r m w)) ∧
  (∀ cls m w, Issues (.mldu cls m w) (fun _ => { tok := some w, ld := true }) (mlduEffect cls m w)) ∧
  (∀ r st col m w, Issues (.mldp r st col m w) (fun _ => { tok := some w, ld := true }) (mldpEffect r st col m w)) ∧
  (∀ t d kb ka clr w, command (.mmul t d kb ka clr w) w) ∧ (∀ d w, command (.mzero d w) w) ∧
  (∀ d clr w, command (.mstat d clr w) w) ∧
  (∀ d e5 kb ka clr ms w,
    Issues (.mmulp d e5 kb ka clr ms w) (fun _ => { tok := some w }) (fun s =>
      s.enterCmd (PendOp.of (.mmulp d e5 kb ka clr ms w) (some w)) (s.captured ms (Cmd.of (.mmulp d e5 kb ka clr ms w) 0))) ∧
    Issues (.mmulpt d e5 kb ka clr ms w) (fun _ => { tok := some w }) (fun s =>
      s.enterCmd (PendOp.of (.mmulpt d e5 kb ka clr ms w) (some w)) (s.captured ms (Cmd.of (.mmulpt d e5 kb ka clr ms w) 0)))) ∧
  (∀ d m w, Issues (.mrd d m w) (fun _ => { tok := some w, st := true }) (fun s =>
    (s.postInc m 256).enterCmd { PendOp.of (.mrd d m w) (some w) with st := true, addr := mxAddr (s.ctx.ar m.base) }
      (Cmd.of (.mrd d m w) 0))) ∧
  (∀ r ms col m w, Issues (.meps r ms col m w) (fun _ => { tok := some w, st := true }) (mepsEffect r ms col m w)) ∧
  (∀ d q w, Issues (.mrdx d q w) (fun s => { bad := s.cur.mrdxBad q, tok := some w })
    (fun s => s.enterCmd (PendOp.of (.mrdx d q w) (some w)) (Cmd.of (.mrdx d q w) 0)))

/-- MLEASE sets the budget of the requests that follow and leaves a tenure's as it is; MFREE withdraws the request and ends the tenure
of its core; each array command that begins takes 1 of the budget, and the one that leaves none ends the tenure (R223, R233). A free
lease passes to the first request after the previous holder, with that core's budget, at least 1; an idle holder loses it to another
request. -/
def Obligations.LeasePassesRoundRobin : Prop :=
  (∀ cl s p, s.nextHolder cl = some p →
    (s.cluster cl).holder = none ∧ (s.cluster cl).free ≤ s.cycle ∧ s.asks (coreAt cl p.toNat) = true ∧
    exec (.leaseArbitration cl) s = .next (s.setCluster cl { s.cluster cl with
      holder := some p, h := p, since := s.cycle + 1, idle := 0
      rem := max 1 (s.core (coreAt cl p.toNat)).mxs.standing })) ∧
  (∀ (cl : Nat) (s : State) (p : BitVec 2) (q : Nat), (s.cluster cl).holder = none → s.nextHolder cl = some p → s.asks (coreAt cl q) = true → q < 4 →
    (p.toNat + 3 - (s.cluster cl).h.toNat) % 4 ≤ (q + 3 - (s.cluster cl).h.toNat) % 4) ∧
  (∀ cl s, s.idleOut cl = true → exec (.leaseIdleTimeout cl) s = .next (s.endTenure cl s.cycle) ∧
    ((s.endTenure cl s.cycle).cluster cl).holder = none) ∧
  (∀ c s m, s.beginsNow c = true → (s.core c).mxs.cmds.head? = some m →
    ∃ t, exec (.arrayCommandBegin c) s = .next t ∧
      let x := s.cluster (clusterOf c)
      let y := t.cluster (clusterOf c)
      (∀ n, m.instr = .mlease n → (t.core c).mxs.standing = n.toNat ∧ y = x) ∧
      (m.instr = .mfree → (t.core c).mxs.standing = 0 ∧ (x.holder = some (BitVec.ofNat 2 (posOf c)) → y.holder = none)) ∧
      (m.instr.isArray = true → (1 < x.rem → y.holder = x.holder ∧ y.rem = x.rem - 1) ∧ (x.rem ≤ 1 → y.holder = none ∧ y.rem = 0)))

/-- The steps of the matrix engine (R223, R229, R238 to R245, R251): tiles land in their FIFO, the head of the sequence begins,
rows of MRDX are pushed, and commands complete. -/
def Obligations.MatrixEventsAct : Prop :=
  (∀ c num s o, (s.core c).mx.op? num = some o → s.tileReady c o = false → s.tileLands c o = true →
    exec (.tileLoadPerform c num) s = .next (landTile c o s)) ∧
  (∀ c s m, s.forms c = some m → exec (.infuserTileForm c) s = .next (s.setCluster (clusterOf c)
    { s.cluster (clusterOf c) with
      formed := (s.cluster (clusterOf c)).formed ++ [{ pos := posOf c, num := m.num, ready := s.cycle + 64 }] })) ∧
  (∀ c s m, s.beginsNow c = true → (s.core c).mxs.cmds.head? = some m →
    (∀ n, m.instr = .mlease n → exec (.arrayCommandBegin c) s =
      .next (s.modCore c (fun k => { k with mxs := { k.mxs with standing := n.toNat }.dropHead }))) ∧
    (m.instr = .mfree → exec (.arrayCommandBegin c) s = .next (freeEffect c s)) ∧
    (m.instr.isArray = true → exec (.arrayCommandBegin c) s = .next (beginEffect c m s))) ∧
  (∀ c s o q, s.mrdxDue c = some (o, q) → exec (.mrdxPush c) s = .next (mrdxPushEffect c o q s)) ∧
  (∀ c num s o, (s.core c).mx.op? num = some o → (s.core c).mstatDue o = false → s.commandDone c o = true →
    exec (.arrayCommandComplete c num) s = .next (s.finish c .mx num)) ∧
  (∀ c num s o d clr w, (s.core c).mx.op? num = some o → o.instr = .mstat d clr w → (s.core c).mstatDue o = true →
    exec (.arrayCommandComplete c num) s = .next (mstatEffect c d clr num s))

/-! ## Landing, waiting and completion -/

/-- A result of fixed latency is in its register when it lands, and nothing else of the core's registers is new (R82, R84, R121):
g0, p0 and vp0 stay as they read, and a guarded vector result keeps the bytes its guard disables. -/
def Obligations.ResultLandsInItsRegister : Prop :=
  (∀ (k : Core) (e : Engine) (n : BitVec 6) (v : W64) (m : BitVec 6),
    (k.apply e (.g n v)).gr m = (if m = n ∧ n ≠ 0 then v else k.gr m) ∧ (k.apply e (.g n v)).gr 0 = 0) ∧
  (∀ (k : Core) (e : Engine) (n m : BitVec 3) (v : Bool),
    (k.apply e (.p n v)).pr m = (if m = n ∧ n ≠ 0 then v else k.pr m) ∧ (k.apply e (.p n v)).pr 0 = true) ∧
  (∀ (k : Core) (e : Engine) (n m : BitVec 4) (v : W64),
    ((k.apply e (.a n v)).ctx e).ar m = (if m = n then v else (k.ctx e).ar m)) ∧
  (∀ (k : Core) (e : Engine) (n m : BitVec 5) (v : Row) (b : BMask) (j : Nat), j < 256 →
    slice ((k.apply e (.v n v b)).vr m) (8 * j) 8 =
      (if m = n ∧ b.getLsbD j = true then slice v (8 * j) 8 else slice (k.vr m) (8 * j) 8 : Byte)) ∧
  (∀ (k : Core) (e : Engine) (n m : BitVec 3) (v b : BMask) (j : Nat),
    ((k.apply e (.vp n v b)).vpr m).getLsbD j =
      (if m = n ∧ n ≠ 0 ∧ b.getLsbD j = true then v.getLsbD j else (k.vpr m).getLsbD j)) ∧
  (∀ (k : Core) (e : Engine) (n : BitVec 6) (v : W64),
    (k.apply e (.g n v)).v = k.v ∧ (k.apply e (.g n v)).vp = k.vp ∧ (k.apply e (.g n v)).p = k.p ∧
      (k.apply e (.g n v)).flags = k.flags ∧ (k.apply e (.g n v)).queues = k.queues ∧ (k.apply e (.g n v)).scu = k.scu)

/-- Memory returns use only write slots that the results of fixed latency leave free, four for each file in a cycle, and wait
otherwise (R85, R126); those that have not arrived wait too, and none is lost or made anew. Writes of one cycle are made in issue
order (R84). -/
def Obligations.ReturnsTakeFreeWriteSlots : Prop :=
  (∀ (e : Engine) (now : Nat) (taken : List (Nat × Effect)) (rs : List Return) (f : RegFile), f ≠ .free →
    slotsTaken e f taken ≤ 4 →
    slotsTaken e f (taken ++ ((pickReturns e now taken rs).1.map Return.writes).flatten) ≤ 4) ∧
  (∀ (e : Engine) (now : Nat) (taken : List (Nat × Effect)) (rs : List Return),
    ((pickReturns e now taken rs).1 ++ (pickReturns e now taken rs).2).Perm rs ∧
    (pickReturns e now taken rs).1.Sublist rs ∧ (pickReturns e now taken rs).2.Sublist rs ∧
    ∀ r ∈ (pickReturns e now taken rs).1, r.due ≤ now) ∧
  (∀ l : List (Nat × Effect), (byPlace l).Perm l ∧ (byPlace l).Pairwise (fun a b => a.1 ≤ b.1))

/-- Results land at the end of their cycle, those of the landing buffer where it counts (R86) and the variable ones that find write
slots; a halting engine halts once nothing of it is in flight, a wait on a queue times out, a wait past its slack is a stall, and a
stall-wire sample adds a nanosecond to the freeze where it finds the wire asserted, and else ends what the wire holds; a fetch
brings its line into the instruction cache (R48, R84, R85, R89, R90, R91, R97). -/
def Obligations.SequencerEventsAct : Prop :=
  (∀ c e s, s.landsNow c e = true → exec (.resultLanding c e) s =
    .next (s.modCore c (fun k => k.landDue e (s.counts c e) s.cycle))) ∧
  (∀ c e s, ((s.core c).ctx e).drained = true →
    exec (.engineHalted c e) s = .next (s.modCore c (fun k => k.modCtx e (fun x => { x with run := .halted })))) ∧
  (∀ c e s q, s.timedOut c e = some q →
    exec (.qTimeout c e) s = .next (((s.modCore c (fun k => k.modCtx e (fun x => { x with wait := none }))).at_ c e).groupTrap
      0x20 0 (q.setWidth 64))) ∧
  (∀ c e s, ((s.core c).ctx e).stallsNow = true → exec (.stall c e) s =
    .next (s.modCore c (fun k => k.modCtx e (fun x =>
      { x with wait := x.wait.map (fun w : Wait => { w with stalled := true }) })))) ∧
  (∀ n s, s.sampleDue n = true → exec (.stallWireSample n) s = .next (s.sampleWire n) ∧
    (let i := s.insts.get Inst.init n
     (s.sampleWire n).insts.get Inst.init n =
      { i with
        sampled := i.sampled + 1
        asserted := s.stallWire n
        freeze := if s.stallWire n then i.freeze + 1 else i.freeze }) ∧
    (s.stallWire n = true → (s.sampleWire n).cores = s.cores)) ∧
  (∀ c e s p l t, s.fetchAnswer c e = none → s.wantedLine c e = some p → s.failedFetch c e p = none →
    s.readLine c p = .ok (l, t) → exec (.instructionFetch c e) s = .next (fetchEffect c e p l t))

/-- Flag arithmetic (R99): an addition saturates at 65,535 and then marks its FOVF bit, and no other flag changes; the value an
FWAIT sees is the flag at the start of the cycle less what the FWAITs already satisfied in it take, and nothing else of the cycle. -/
def Obligations.FlagAdditionSaturates : Prop :=
  ∀ (k : Core) (n m : BitVec 4) (v : BitVec 16),
    ((k.addFlag n v).flag n).toNat = min 65535 ((k.flag n).toNat + v.toNat) ∧
    (m ≠ n → (k.addFlag n v).flag m = k.flag m) ∧
    (k.addFlag n v).fovf = (if 65535 < (k.flag n).toNat + v.toNat then k.fovf ||| bit true n.toNat else k.fovf) ∧
    (k.addFlag n v).g = k.g ∧ (k.addFlag n v).v = k.v ∧
    (k.late = [] → k.flagLeft n = (k.flag n).toNat) ∧
    ({ k with late := k.late ++ [.fsub m v] } : Core).flagLeft n = (if m = n then k.flagLeft n - v.toNat else k.flagLeft n) ∧
    (∀ l, (∀ j u, l ≠ .fsub j u) → ({ k with late := k.late ++ [l] } : Core).flagLeft n = k.flagLeft n)

/-- An ordering operation completes in its turn (R202 to R218): FENCE and TLSIG release their token; TLWAIT once its timeline has
the number it waits for; BINIT, BINV and BARR act on their object; bits 63:32 of BARR's operand take the generation it arrived in, and
bits 63:30 of BTRY's the generation and the status (R207, R216), and no other bit of the register; BWAIT is pending on an active object,
and ends once the phase it waits on is over; ICINV after its cycles; HCALL with the status that the slice manager answers. -/
def Obligations.OrderingOperationsComplete : Prop :=
  (∀ c e num s o k x m w, s.orderTurn c e num = some o → o.instr = .fence k x m w →
    exec (.fenceComplete c e num) s = .next (s.finish c e num)) ∧
  (∀ c e num s o d w, s.orderTurn c e num = some o → o.instr = .tlsig d w →
    exec (.tlsigComplete c e num) s = .next (s.finish c e num)) ∧
  (∀ c e num s o t n w c' e', s.orderTurn c e num = some o → o.instr = .tlwait t n w →
    s.tlTarget c (o.val.setWidth 64) = some (c', e') →
    exec (.tlwaitComplete c e num) s = .next (if o.addr.toNat ≤ s.timeline c' e' then s.finish c e num else s)) ∧
  (∀ c e num s o r b f w home bar t, ((s.core c).ctx e).op? num = some o → o.instr = .bwait r b f w →
    o.status = .departed → o.mask = 0 → s.barOpen c e o.instr = true → (s.core c).parked e = false → isStash o.addr = true →
    s.barHome c (o.val.setWidth 64) = some home → s.readBar home o.addr .read = .ok (bar, t) → bar.status = 1 →
    exec (.bwaitComplete c e num) s =
      .next (if bar.phase ≠ o.val.getLsbD 32 then (t.reachStage (barPlace 4 0 0)).finish c e num else t.reachStage (barPlace 4 0 0))) ∧
  (∀ c e s o r b f w home bar, ((s.core c).ctx e).op? o.num = some o → s.mayPerform c e o = true → isStash o.addr = true →
    s.barHome c (o.val.setWidth 64) = some home →
    let at_ (kind : Nat) : Nat := barPlace kind c (engPlace e)
    (∀ t, s.readBar home o.addr .rw = .ok (bar, t) →
      (o.instr = .binit r b f w → PerformsTo c e o 0 s
        (((t.reachStage (at_ 0)).applyBar home o.addr (Bar.init (slice o.val 32 16))).finish c e o.num)) ∧
      (o.instr = .binv r b f w → PerformsTo c e o 0 s (((t.reachStage (at_ 0)).applyBar home o.addr bar.inv).finish c e o.num)) ∧
      (let out := bar.arrive (slice o.val 32 32)
       o.instr = .barr r b f w → bar.status = 1 → out.trap = none → PerformsTo c e o 0 s
        (((t.reachStage (at_ 2)).applyBar home o.addr out).send c e o.num
          (RF.bitsEff r (field out.result 32) 0xFFFFFFFF00000000#64)))) ∧
    (∀ t, s.readBar home o.addr .read = .ok (bar, t) →
      (o.instr = .btry r b f w → PerformsTo c e o 0 s
        ((t.reachStage (barPlace 3 0 0)).send c e o.num
          (RF.bitsEff r (field bar.gen 32 ||| field bar.status 30) 0xFFFFFFFFC0000000#64))) ∧
      (o.instr = .bwait r b f w → bar.status = 1 → PerformsTo c e o 0 s
        ((t.reachStage (barPlace 4 0 0)).modOp c e o.num (fun o =>
          { o with status := .departed, mask := if t.asserted c then 1 else 0 }))))) ∧
  (∀ (k : Core) (e : Engine) (n : BitVec 6) (v mask : W64) (j : Nat), n ≠ 0 →
    ((k.apply e (.gbits n v mask)).gr n).getLsbD j = if mask.getLsbD j then v.getLsbD j else (k.gr n).getLsbD j) ∧
  (∀ c num s o sc, (s.core c).scu.op? num = some o → s.icinvDue o = some sc → slice o.addr 48 16 = 0#16 →
    exec (.icinvComplete c num) s =
      .next ((if slice o.val 0 64 = 0#64 then s else s.invalidate c sc o).finish c .scu num)) ∧
  (∀ c status s o d svc old t, s.hcallOp c = some (o, d, svc) → isStash o.addr = true →
    s.stashPacket c o.addr = .ok (old, t) → hcallAnswer svc status = true →
    (slice status 0 8 ≠ 0#8 → exec (.hcallComplete c status old) s = .next (t.landG c o.num d 0 status)) ∧
    (∀ u, slice status 0 8 = 0#8 → t.serveHcall c svc old = some u →
      exec (.hcallComplete c status old) s = .next (u.landG c o.num d 0 status)))

/-- The barrier object (R205, R207): what an arrival and a credit do to it, where a phase completes, where it fails and where
the operation traps; its 16 bytes hold it. -/
def Obligations.BarrierPhasesAdvance : Prop :=
  (∀ b : Bar, -(2 ^ 31) ≤ b.count → b.count < 2 ^ 31 → Bar.ofBits b.bits = b) ∧
  (∀ (b : Bar) (arg : BitVec 32), let c := b.count + arg.toInt
    (b.status ≠ 1 → b.arrive arg = { bar := b, abort := false, trap := some b.status, result := 0 }) ∧
    (b.status = 1 → b.pend = 0 ∨ c < -(2 ^ 31) ∨ 2 ^ 31 ≤ c →
      (b.arrive arg).bar = { b with status := 2 } ∧ (b.arrive arg).abort = true ∧ (b.arrive arg).trap = some 1) ∧
    (b.status = 1 → b.pend ≠ 0 → -(2 ^ 31) ≤ c → c < 2 ^ 31 → (b.arrive arg).trap = none ∧ (b.arrive arg).result = b.gen ∧
      (b.pend = 1 → c = 0 → (b.arrive arg).abort = false ∧
        (b.arrive arg).bar = { b with gen := b.gen + 1, phase := (b.gen + 1).getLsbD 0, pend := b.expect, count := 0 }) ∧
      (b.pend = 1 → c < 0 → (b.arrive arg).abort = true ∧ (b.arrive arg).bar = { b with count := c, pend := 0, status := 2 }) ∧
      (b.pend ≠ 1 ∨ 0 < c → (b.arrive arg).abort = false ∧ (b.arrive arg).bar = { b with count := c, pend := b.pend - 1 }))) ∧
  (∀ (b : Bar) (n : Nat), let c := b.count - n
    (b.status ≠ 1 → b.credit n = none) ∧
    (b.status = 1 → c < -(2 ^ 31) → b.credit n = some ({ b with status := 2 }, true)) ∧
    (b.status = 1 → -(2 ^ 31) ≤ c →
      (b.pend = 0 → c = 0 → b.credit n =
        some ({ b with gen := b.gen + 1, phase := (b.gen + 1).getLsbD 0, pend := b.expect, count := 0 }, false)) ∧
      (b.pend = 0 → c < 0 → b.credit n = some ({ b with count := c, status := 2 }, true)) ∧
      (b.pend ≠ 0 ∨ 0 < c → b.credit n = some ({ b with count := c }, false))))

/-! ## Memory accesses -/

/-- A scalar store to its stash changes the bytes it stores, and no other byte of any stash nor of HBM, nor any register (R158,
R179); `u` is the state after its row has been claimed and filled, as the access needs it (R161 to R165), where the banks that this
claims are free; where they are not, nothing but its claim is new (R159). A row store of the VE writes the bytes its guard enables,
swizzled where its mode says so, and no other byte of any stash nor of HBM; with none enabled there is no access (R173, R174). The
lowest lane of a scatter writes its 4 bytes and leaves the mask (R177). The row-range operations act on one row after another: STBIND
binds it to its line, not filled and clean, unless the range is denied, STUNBD makes it scratch, STFLSH writes back what is dirty,
STDROP discards it, STTCH touches it (R183 to R185); CFLSH, CINV and CDISC act on one sector after another (R186). -/
def Obligations.StashStoresChangeTheirBytes : Prop :=
  (∀ (c num : Nat) (s u : State) (o : PendOp) (t : StTy) (x : GField) (m : MemOpnd) (w : BitVec 3),
    (s.core c).scu.op? num = some o → o.instr = .st t x m w → s.mayPerform c .scu o = true → isStash o.addr = true →
    s.touchPlain c (stashRow o.addr) .write = .ok u →
    (u.banksFree = false → exec (.memoryAccessPerform c .scu num 0) s =
      .next (s.modCore c (fun k => k.noteClaim (.op .scu num) s.cycle s.cycle))) ∧
    (u.banksFree = true → ∃ v, exec (.memoryAccessPerform c .scu num 0) s = .next v ∧
      (let off := (slice o.addr 0 8).toNat / t.bytes * t.bytes
       ∀ c' q j, j < 256 → stashByte v c' q j =
        if c' = c ∧ q = stashRow o.addr ∧ off ≤ j ∧ j < off + t.bytes then slice o.val (8 * (j - off)) 8
        else stashByte u c' q j) ∧
      v.hbm = u.hbm ∧ v.dirty = u.dirty ∧ v.hostMem = u.hostMem ∧
      ∀ c', (v.core c').g = (u.core c').g ∧ (v.core c').p = (u.core c').p ∧ (v.core c').v = (u.core c').v ∧
        (v.core c').flags = (u.core c').flags ∧ (v.core c').queues = (u.core c').queues)) ∧
  (∀ (c num : Nat) (s u : State) (o : PendOp) (x : VField) (m : MemOpnd) (p w : BitVec 3),
    (s.core c).ve.op? num = some o → (o.instr = .vst x m w ∨ o.instr = .vstm x m p w) → s.mayPerform c .ve o = true →
    (o.mask ≠ 0 → isStash o.addr = true → s.touchPlain c (stashRow o.addr) .write = .ok u → u.banksFree = true →
      let across := if m.mode = .swz then 32 * (stashRow o.addr / 4 % 8) else 0
      ∃ v, exec (.memoryAccessPerform c .ve num 0) s = .next v ∧
        (∀ c' q j, j < 256 → stashByte v c' q j =
          if c' = c ∧ q = stashRow o.addr ∧ o.mask.getLsbD (j ^^^ across) = true then slice o.val (8 * (j ^^^ across)) 8
          else stashByte u c' q j) ∧
        v.hbm = u.hbm ∧ v.dirty = u.dirty) ∧
    (o.mask = 0 → s.claims = [] → exec (.memoryAccessPerform c .ve num 0) s = .next (s.finish c .ve num))) ∧
  (∀ (c : Nat) (s : State) (o : PendOp) (x : VField) (b : BitVec 4) (sh : Bool) (ix : BitVec 5) (p w : BitVec 3),
    (s.core c).ve.op? o.num = some o → o.instr = .vscat x b sh ix p w → s.mayPerform c .ve o = true →
    let j := lowestLane o.mpc
    let a := laneAddr o sh j
    (o.mpc = 0 → PerformsTo c .ve o 0 s (s.finish c .ve o.num)) ∧
    (∀ u, o.mpc ≠ 0 → s.write c a 4 (elem 32 o.val2 j).toNat = .ok u → PerformsTo c .ve o 0 s (u.laneDone c o j a)) ∧
    (∀ u, o.mpc ≠ 0 → isStash a = true → s.touchPlain c (stashRow a) .write = .ok u → u.banksFree = true →
      ∃ v, exec (.memoryAccessPerform c .ve o.num 0) s = .next v ∧
        (let off := (slice a 0 8).toNat / 4 * 4
         ∀ c' q i, i < 256 → stashByte v c' q i =
          if c' = c ∧ q = stashRow a ∧ off ≤ i ∧ i < off + 4 then slice (elem 32 o.val2 j) (8 * (i - off)) 8 else stashByte u c' q i) ∧
        v.hbm = u.hbm ∧ v.dirty = u.dirty)) ∧
  (∀ (c : Nat) (s : State) (o : PendOp) (r : GField) (b : BitVec 4) (w : BitVec 3),
    (s.core c).scu.op? o.num = some o → s.mayPerform c .scu o = true →
    let first := (slice o.val 0 13 : BitVec 13).toNat
    let count := min (slice o.val 16 14 : BitVec 14).toNat 8192
    let done := (o.mpc.toNat + 8192 - first) % 8192
    let q := o.mpc.toNat % 8192
    let row (u : State) : Prop := PerformsTo c .scu o 0 s
      (if count ≤ done + 1 then u.finish c .scu o.num else u.setMpc c .scu o.num (BitVec.ofNat 64 ((first + (done + 1)) % 8192)))
    (o.instr = .stbind r b w ∨ o.instr = .stunbd r w ∨ o.instr = .stflsh r w ∨ o.instr = .stdrop r w ∨ o.instr = .sttch r w →
      count = 0 → PerformsTo c .scu o 0 s (s.finish c .scu o.num)) ∧
    (o.instr = .stbind r b w → count ≠ 0 →
      (done = 0 → s.bindDenied c o.addr first count = true → PerformsTo c .scu o 0 s (s.permOp c .scu o.num o.addr .write)) ∧
      (done ≠ 0 ∨ s.bindDenied c o.addr first count = false →
        ∀ u, s.bindRow c q (bindLine o.addr done) (o.val.getLsbD 31) (o.val.getLsbD 30) = .ok u → row u)) ∧
    (o.instr = .stunbd r w → count ≠ 0 → ∀ u, s.unbindRow c q = .ok u → row u) ∧
    (o.instr = .stflsh r w → count ≠ 0 → ∀ u, s.flushRow c q = .ok u → row u) ∧
    (o.instr = .stdrop r w → count ≠ 0 → ∀ u, s.dropRow c q = .ok u → row u) ∧
    (o.instr = .sttch r w → count ≠ 0 → ∀ u, s.touchRow c q = .ok u → row u)) ∧
  (∀ (c q : Nat) (line : BitVec 40) (ro zero : Bool) (s u : State),
    (s.bindRow c q line ro zero = .ok u → (u.row c q).bound = true ∧ (u.row c q).line = line ∧ (u.row c q).ro = ro ∧
      (u.row c q).zero = zero ∧ (u.row c q).filled = false ∧ (u.row c q).dirty = 0) ∧
    (s.unbindRow c q = .ok u → (u.row c q).bound = false) ∧
    (s.flushRow c q = .ok u → (u.row c q).bound = true → (u.row c q).dirty = 0) ∧
    (s.dropRow c q = .ok u → (u.row c q).bound = true → (u.row c q).filled = false ∧ (u.row c q).dirty = 0)) ∧
  (∀ (c : Nat) (s : State) (o : PendOp) (n : GField) (b : BitVec 4) (w : BitVec 3),
    (s.core c).scu.op? o.num = some o → s.mayPerform c .scu o = true →
    let a := o.addr.toNat
    let len := o.val.toNat % 2 ^ 64
    let va := a / 32 * 32 + 32 * o.mpc.toNat
    let sector (u : State) : Prop := PerformsTo c .scu o 0 s
      (if a + len ≤ va + 32 then u.finish c .scu o.num else u.setMpc c .scu o.num (o.mpc + 1))
    (o.instr = .cflsh n b w ∨ o.instr = .cinv n b w ∨ o.instr = .cdisc n b w →
      (len = 0 → PerformsTo c .scu o 0 s (s.finish c .scu o.num)) ∧
      (len ≠ 0 → slice o.addr 48 16 ≠ 0#16 → PerformsTo c .scu o 0 s (s.permOp c .scu o.num o.addr .write))) ∧
    (len ≠ 0 → slice o.addr 48 16 = 0#16 → ∀ u,
      (o.instr = .cflsh n b w → s.cleanSector c va = .ok u → sector u) ∧
      (o.instr = .cinv n b w → s.invSector c va = .ok u → sector u) ∧
      (o.instr = .cdisc n b w → s.discardSector c va a (a + len) = .ok u → sector u)))

/-- A load performs where its bytes can be read (R178): the value goes to its register or its queue entry, to arrive five cycles on
from a stash row, and the token is released when it lands (R85, R87, R170); LDN passes the caches. An atomic performs as one
read-modify-write and answers the old value, a compare and swap with its new value where the old one is as expected (R180 to R182). A
row load brings its row (R173), VLDQ to its queue entry (R175), VLDT the sectors of eight rows (R176), and each lane of a gather its 4
bytes (R177). A misaligned global access traps ALIGN with the address and the power of two (R171, R363). -/
def Obligations.LoadsPerform : Prop :=
  (∀ (c num : Nat) (s : State) (o : PendOp) (t : LdTy) (d : GField) (m : MemOpnd) (w : BitVec 3),
    (s.core c).scu.op? num = some o → s.mayPerform c .scu o = true →
    let via : Via := if o.instr = .ldn t d m w then .pass c else .l1 c
    o.instr = .ld t d m w ∨ o.instr = .ldn t d m w ∨ o.instr = .lda t d m w →
    (∀ v u, s.read c o.addr t.bytes via = .ok (v, u) → u.banksFree = true →
      exec (.memoryAccessPerform c .scu num 0) s =
        .next (u.landG c o.num d o.qid (t.ext v) (if isStash o.addr then 5 + o.part else 0)).takeBanks) ∧
    (s.claims = [] → isStash o.addr = false → slice o.addr 48 15 = 0#15 → o.addr.toNat % t.bytes ≠ 0 →
      exec (.memoryAccessPerform c .scu num 0) s =
        .next ((s.showMpc c .scu o.num).opTrap c .scu o.num 0x10 o.addr (BitVec.ofNat 64 t.bytes.log2)))) ∧
  (∀ (c num : Nat) (s : State) (o : PendOp) (op : AtOp) (wide : Bool) (d x : GField) (b : BitVec 4) (w : BitVec 3),
    (s.core c).scu.op? num = some o → s.mayPerform c .scu o = true → o.instr = .atm op wide d b x w →
    let n := if wide then 8 else 4
    ∀ old u, s.readWrite c o.addr n (fun v => some (op.apply (8 * n) (BitVec.ofNat _ v) (o.val.setWidth (8 * n))).toNat) =
        .ok (old, u) → u.banksFree = true →
      exec (.memoryAccessPerform c .scu num 0) s =
        .next (u.landG c o.num d o.qid (BitVec.ofNat 64 old) (if isStash o.addr then 5 + o.part else 0)).takeBanks) ∧
  (∀ (c num : Nat) (s : State) (o : PendOp) (d : VField) (m : MemOpnd) (w : BitVec 3),
    (s.core c).ve.op? num = some o → s.mayPerform c .ve o = true → o.instr = .vld d m w → isStash o.addr = true →
    ∀ v u, s.readRow c o.addr 0xFF = .ok (v, u) → u.banksFree = true →
      exec (.memoryAccessPerform c .ve num 0) s =
        .next (u.landV c o.num d o.qid (mergeBytes 0 (swizzleRow (decide (m.mode = .swz)) (stashRow o.addr) v) o.mask)
          (BitVec.allOnes 256) 0 (5 + o.part)).takeBanks) ∧
  (∀ (c : Nat) (s : State) (o : PendOp) (wide : Bool) (d x : GField) (b : BitVec 4) (w : BitVec 3),
    (s.core c).scu.op? o.num = some o → s.mayPerform c .scu o = true →
    let late := if isStash o.addr then 5 + o.part else 0
    let swap (n : Nat) (old : Nat) : Option Nat :=
      if old = o.val2.toNat % 2 ^ (8 * n) then some (o.val.toNat % 2 ^ (8 * n)) else none
    (o.instr = .acas wide d b x w → ∀ old u, s.readWrite c o.addr (if wide then 8 else 4) (swap (if wide then 8 else 4)) = .ok (old, u) →
      PerformsTo c .scu o 0 s (u.landG c o.num d o.qid (BitVec.ofNat 64 old) late)) ∧
    (o.instr = .acas2 d b x w → ∀ old u, s.readWrite c o.addr 16 (swap 16) = .ok (old, u) →
      PerformsTo c .scu o 0 s (u.send c .scu o.num (pairEff d (BitVec.ofNat 128 old)) 0 late))) ∧
  (∀ (c : Nat) (s : State) (o : PendOp) (m : MemOpnd) (p w : BitVec 3),
    (s.core c).ve.op? o.num = some o → s.mayPerform c .ve o = true → isStash o.addr = true →
    (∀ q v u, o.instr = .vldq q m p w → s.readRow c o.addr 0xFF = .ok (v, u) →
      PerformsTo c .ve o 0 s (u.landV c o.num (.pop q) o.qid
        (mergeBytes 0 (swizzleRow (decide (m.mode = .swz)) (stashRow o.addr) v) o.mask) (BitVec.allOnes 256) 0 (5 + o.part))) ∧
    (∀ d v u, o.instr = .vldt d m p w → s.vldtFrom c o (decide (m.mode = .swz)) (List.range 8) 0 = .ok (v, u) →
      PerformsTo c .ve o 0 s (u.landV c o.num d o.qid v o.mask 0 (5 + o.part)))) ∧
  (∀ (c j : Nat) (s : State) (o : PendOp) (d : BitVec 5) (b : BitVec 4) (sh : Bool) (ix : BitVec 5) (p w : BitVec 3),
    (s.core c).ve.op? o.num = some o → s.mayPerform c .ve o = true → o.instr = .vgath d b sh ix p w →
    let a := laneAddr o sh j
    (o.mpc = 0 → PerformsTo c .ve o j s (s.finish c .ve o.num)) ∧
    (∀ v u, o.mpc.getLsbD j = true → elem 32 o.val2 j = 0 → isStash a = true ∨ o.issued + 15 ≤ s.cycle →
      s.read c a 4 = .ok (v, u) → PerformsTo c .ve o j s (u.sendLane c d o j v (if isStash a then 5 + o.part else 0))))

/-! ## Slots, links and replies -/

/-- The fabric's events (R301 to R309, R313 to R317, R331, R403): a slot of a reserved channel is dropped and logged; another comes to
its endpoint, without ELDER where it comes from a higher ring, goes on to its next ring, or is turned away with TAG; links train, are
keyed, enter protected mode without two slots of credit for each channel, leave it, and slew the device's time; a request of this
package is served, where the stash banks that it needs are free, and its reply held; one of another package waits for its turn, or is
answered TAG where no slice here admits its tag or its port has no key for it; a reply completes its instruction; a message refused
with NACK-BUSY is sent again 63 times and then turned back with BUSY; a reply for a context that has moved goes on to its target, and
one that a migration lost is LINK after 10 ms. The session that sets a link up is the model's choice in its messages (log 16). -/
def Obligations.FabricEventsAct : Prop :=
  (∀ (level : BitVec 2) (die : BitVec 3) (x : Slot) (s : State),
    let does (t : State) : Prop := exec (.slotArrival ⟨level, die, x⟩) s = .next t
    let keyed := decide (level ≠ 0) && s.linkUp level.toNat die && (s.link level.toNat die).keyed
    (6 ≤ x.vc.toNat → does (s.tell (.link level die 2))) ∧
    (x.vc.toNat < 6 → level = 0 → x.dpkg = s.pkg → does (endpointEffect x s)) ∧
    (x.vc.toNat < 6 → keyed = true → x.kind = 0xF → does (s.tell (.link level die 2))) ∧
    (x.vc.toNat < 6 → keyed = true → x.kind ≠ 0xF → s.turnsAway level.toNat die x = true →
      does (s.slotReply x (homeEnd die.toNat) 0x0B)) ∧
    (x.vc.toNat < 6 → keyed = true → x.kind ≠ 0xF → s.turnsAway level.toNat die x = false →
      does (if x.dpkg = s.pkg then endpointEffect { x with elder := false } s else s.passOn level.toNat x)) ∧
    (level ≠ 0 → s.linkUp level.toNat die = true → (s.link level.toNat die).keyed = false → x.kind = 0xF → x.vc = 4 → x.dpkg = s.pkg →
      does ((endpointEffect { x with elder := false } s).postSetup die x.spkg))) ∧
  (∀ (level : BitVec 2) (die : BitVec 3) (v : BitVec 16) (p : BitVec 21) (s : State), level ≠ 0 → s.dev.svc ≠ 3 →
    (1 ≤ (slice v 8 8).toNat → exec (.linkTraining level ⟨die, v, p⟩) s =
      .next (((s.dropSetup level die).modLink level.toNat die (fun l => { l with trained := true, keyed := false })).postSetup die p)) ∧
    (slice v 8 8 = 0#8 → exec (.linkTraining level ⟨die, v, p⟩) s =
      .next ((s.modLink level.toNat die (fun l => { l with trained := false, keyed := false })).tell (.link level die 4)))) ∧
  (∀ (level : BitVec 2) (die : BitVec 3) (s : State), s.linkUp level.toNat die = true →
    exec (.linkKeyed level die) s =
      .next ((s.dropSetup level die).modLink level.toNat die (fun l => { l with keyed := true })) ∧
    (∀ (cw : Bool) (n : List Nat),
      let t := s.modLink level.toNat die (fun l => l.modWay cw (fun w => w.hold n s.gtime))
      let old := (s.link level.toNat die).way cw
      exec (.protectedModeEnter level ⟨⟨die, cw⟩, n⟩) s =
        .next (if old.protected_ = false ∧ (old.hold n s.gtime).protected_ = true then t.tell (.link level die 1) else t)) ∧
    exec (.frameAuthFail level die) s =
      .next ((s.modLink level.toNat die (fun l => { l with errors := l.errors + 1 })).tell (.link level die 3)) ∧
    (∀ n : Int, (s.link level.toNat die).keyed = true → exec (.timeExchange level die n) s =
      .next { s.modLink level.toNat die (fun l => { l with slew := n }) with slew := n })) ∧
  (∀ (w : Way) (n : List Nat) (now : W64),
    (∀ v, v < 6 → (w.hold n now).credits.get 2 v = n.getD v 2) ∧
    ((w.hold n now).protected_ = true ↔ w.protected_ = true ∨ ∃ v, v < 6 ∧ n.getD v 2 < 2)) ∧
  (∀ (level : BitVec 2) (die : BitVec 3) (cw : Bool) (s : State), s.mayLeave level die cw = true →
    exec (.protectedModeExit level ⟨die, cw⟩) s =
      .next (s.modLink level.toNat die (fun l => l.modWay cw (fun w => { w with protected_ := false })))) ∧
  (∀ c num s o k r t, s.inFlight c num = some (o, k) → s.staysHere o = true → o.mask = 0 →
    s.headHeld (s.ownTarget c) (o.reqIn k) = false →
    ({ s with claims := [] } : State).serve (s.ownTarget c) (o.reqIn k) none = .reply r t → (t.holdReply c num r).banksFree = true →
    exec (.remoteRequestCheck (.here c num)) s = .next (t.holdReply c num r).takeBanks) ∧
  (∀ (r : FarReq) (s : State), r.node = none →
    exec (.remoteRequestCheck (.far r)) s =
      .next (if s.admitsTag r.stag ∧ s.portKeyed r then { s with arrived := s.arrived ++ [(s.cycle, r)] }
        else s.replyTo r (nackReply 0x0B) 0)) ∧
  (∀ (sep : BitVec 12) (vc : BitVec 3) (seq : BitVec 16) (s : State) (m : Msg) (k : Nat), s.refused sep vc seq = some (m, k) →
    let t := { s with waiting := s.waiting.filter (fun n => !m.same n), sent := s.sent.filter (fun n => !m.same n) }
    exec (.nackBusyRetry sep vc seq) s = .next (if m.busy + 1 < 64 then t.resend m k else t.turnBack m 0x0C)) ∧
  (∀ c num far s o k r t, (s.core c).scu.op? num = some o → o.instr.request = some k → o.status = .departed →
    s.stillHere c (.op .scu num) = false → (s.instOf c).status = .running → (s.core c).parked .scu = false →
    s.replyFor c o k far = some (.reply r t) → r.code = 0 →
    let u : State := (t.holdReply c num r).accepted c (.op .scu num)
    (∀ ty d b w, o.instr = .rld ty d b w →
      exec (.remoteReply c num far) s = .next (u.landG c o.num d o.qid (ty.ext (r.value.toNat % 2 ^ (8 * ty.bytes))))) ∧
    (∀ ty x b w, o.instr = .rst ty x b w → exec (.remoteReply c num far) s = .next (u.finish c .scu o.num)) ∧
    (∀ op d b x w, o.instr = .ratm op d b x w →
      exec (.remoteReply c num far) s = .next (u.landG c o.num d o.qid (slice r.value 0 64)))) ∧
  (∀ c num r s n p stag e, s.forwards c num = some (n, p, stag, e) →
    exec (.replyForward c num r) s = .next (forwardEffect n c num e p stag r s)) ∧
  (∀ c num s o k, s.lateHere c = true → s.inFlight c num = some (o, k) → o.first = 0 →
    exec (.replyTimeout c num) s = .next (s.holdReply c num (nackReply 0x0D)))

/-! ## The front end and the slice manager -/

/-- The front end's events (R389, R390, R414 to R428): a doorbell refreshes the guest's control block and writes the tail; a queue is enabled
where it is bound and its function's version has been agreed; a packet commits; a launch is dispatched, starts, is reported
blocked, and ends with its instance; a disabled queue is reset. -/
def Obligations.FrontEndEventsAct : Prop :=
  (∀ vf q s, isVf vf = true →
    (∀ v, exec (.qtail vf q v) s = .next (qtailEffect vf q v s) ∧ ((qtailEffect vf q v s).cq vf q).tail = slice v 0 16) ∧
    (s.managed = true → (∀ b, exec (.queueBind vf q b) s = .next (queueBindEffect vf q b s)) ∧
      exec (.queueEnable vf q false) s = .next (s.modCq vf q (fun x => { x with en := false }))) ∧
    (s.managed = true → (s.cq vf q).bound = true → s.agreed vf ≠ 0 →
      exec (.queueEnable vf q true) s = .next (s.modCq vf q (fun x => { x with en := true })))) ∧
  (∀ vf q s, (s.cq vf q).bound = true → exec (.controlBlockRefresh vf q) s = .next (refreshEffect vf q s)) ∧
  (∀ vf q s p, s.packet vf q = some p →
    (p.kind = 1 → exec (.update vf q) s = .next (commitEffect vf q p s)) ∧
    (p.kind = 2 → exec (.gang vf q) s = .next (commitEffect vf q p s)) ∧
    (p.kind ≠ 1 → p.kind ≠ 2 → exec (.launch vf q) s = .next (commitEffect vf q p s)) ∧
    (p.dma = true → commitEffect vf q p s = s.modCq vf q (fun x => { x with en := false, halted := true, reason := 2 })) ∧
    (p.dma = false → p.seq ≠ (s.cq vf q).seqc → commitEffect vf q p s =
      s.modCq vf q (fun x => { x with en := false, halted := true, reason := 1 }))) ∧
  (∀ vf q s l, (s.dispatches vf q = some l → exec (.launchDispatch vf q) s = .next (dispatchEffect vf q l s)) ∧
    (s.startable vf q = some l → exec (.launchStart vf q) s = .next (startEffect vf q l s)) ∧
    (s.blocked vf q = some l → exec (.blockedEvent vf q) s = .next (blockedEffect vf q l s))) ∧
  (∀ gid s, (s.gangReady gid = true → exec (.gangReserve gid) s = .next (s.stageParts (s.gangParts gid) .reserved)) ∧
    (s.gangLate gid = true → exec (.gangto gid) s = .next (s.endParts gid (s.gangParts gid) 5 (fun _ => 0x0E)))) ∧
  (∀ vf q s, (s.cq vf q).en = false → exec (.reset vf q) s = .next (resetEffect vf q s)) ∧
  (∀ n s, (∀ st, s.endDue n = some st → exec (.instanceEnd n) s = .next (endEffect n st s) ∧
      ((endEffect n st s).insts.get Inst.init n).status = .ended) ∧
    (s.isLive n = true → exec (.killed n) s = .next (s.modInst n (fun i => { i with status := .ending 3 }))) ∧
    (s.deadlineDue n = true →
      exec (.deadlineEvent n) s = .next ((s.modInst n (fun i => { i with dlined := true })).tell (.deadline n))))

/-- Page requests, their replies, invalidations and memory errors (R371 to R376): a record goes to its ring where there is
room; a reply that names an outstanding request answers it, and another is counted as ignored; an invalidation completes in
its order; an error poisons what it names, and patrol scrubbing counts a correction. -/
def Obligations.PagingEventsAct : Prop :=
  (∀ vf s n r, s.nextRecord vf = some (n, r) → ringRoom (s.prqOf vf).ctl (s.prqOf vf).tail (s.prqOf vf).head = true →
    exec (.pageRequestRecordWrite vf) s = .next (recordEffect vf n r s)) ∧
  (∀ vf v s, isVf vf = true → exec (.prqctl vf v) s = .next (s.modPrq vf (fun b => { b with ctl := v &&& prqctlBits }))) ∧
  (∀ vf w s n r, isVf vf = true → s.outstanding vf w = some (n, r) →
    (slice w 32 32 = 0#32 → exec (.prrplyRetry vf w) s = .next (replyEffect true n r s)) ∧
    (slice w 32 32 = 1#32 → exec (.prrplyFail vf w) s = .next (replyEffect false n r s))) ∧
  (∀ vf w s, isVf vf = true → s.outstanding vf w = none →
    (slice w 32 32 = 0#32 → exec (.prrplyRetry vf w) s = .next (passReply vf w true s)) ∧
    (slice w 32 32 = 1#32 → exec (.prrplyFail vf w) s = .next (passReply vf w false s)) ∧
    (2 ≤ (slice w 32 32).toNat → exec (.prrplyRetry vf w) s = .next (ignoreReply vf s)) ∧
    (s.outbound = [] → s.inbound = [] → ∀ retry, passReply vf w retry s = ignoreReply vf s) ∧
    ((ignoreReply vf s).prqOf vf).ignored.toNat = min 65535 (((s.prqOf vf).ignored).toNat + 1)) ∧
  (∀ vf s, isVf vf = true →
    exec (.invcmdStage1 vf) s = .next (s.invalidateLater vf false false) ∧
    exec (.invcmdStage2 vf) s = .next (s.invalidateLater vf true false) ∧
    exec (.invcmdWholeSlice vf) s = .next (s.invalidateLater vf false true)) ∧
  (∀ vf s x r, (s.prqOf vf).invals = x :: r → ∃ t, exec (.invalidationComplete vf) s = .next t ∧ (t.prqOf vf).invals = r ∧
    (t.prqOf vf).invdone = (s.prqOf vf).invdone + 1) ∧
  (∀ loc s, locExists loc = true →
    exec (.uncorrectableError loc) s = .next (errorEffect loc s) ∧
    exec (.patrolScrubbing loc) s =
      .next ((s.modDev (fun d => { d with correctable := d.correctable + 1 })).tell (.corrected (s.dev.correctable + 1))))

/-- Pre-emption, migration and metering (R386 to R408, R435, R439): an instance is stopped, saved, parked and restored, under AUTO with
the deadline of its bind record; a slice is made, and migrates over a keyed link with rounds of pre-copy, a move and an arrival, not at
all where the managers share no version; meter records are written with their reasons. -/
def Obligations.PreemptionAndMeterEventsAct : Prop :=
  (∀ n s, (s.isRunning n = true → exec (.preemptStop n) s = .next (s.stop n false none) ∧
      ∀ d : W64, d = (s.insts.get Inst.init n).deadline →
        exec (.preemptAuto n d) s = .next (s.stop n false (if d = 0 then none else some (s.gtime + d)))) ∧
    (s.canFreeze n = true → exec (.preemptFreeze n) s = .next (s.stop n true none)) ∧
    (s.autoDue n = true → exec (.autoDeadline n) s = .next (s.stop n true none)) ∧
    (∀ freeze d, (s.stop n freeze d).insts.get Inst.init n =
        { s.insts.get Inst.init n with status := .stopping freeze d, stopCycle := s.cycle, stopTime := s.gtime } ∧
      (s.stop n freeze d).hbm = s.hbm) ∧
    (∀ f, s.halted n = some f → s.shadowFree n = true → exec (.contextSwapOut n) s = .next (swapEffect n f s)) ∧
    (∀ ox oy, s.dev.running = false → s.restorable n ox oy = true → exec (.restore n ox oy) s = .next (restoreEffect n ox oy s))) ∧
  (∀ cl s f, (s.insts.get Inst.init (s.cluster cl).shadow).status = .saved f → (s.cluster cl).shadow ≠ 0 →
    exec (.contextParkOut cl) s = .next (parkEffect cl s) ∧ ((parkEffect cl s).cluster cl).shadow = 0) ∧
  (∀ sl target v s, (s.slices.get Slice.init sl.toNat).granules ≠ 0 → target ≠ s.pkg → 1 ≤ (slice v 8 8).toNat →
    s.sessionLink target = true → s.managed = true →
    exec (.migration sl ⟨target, v, true⟩) s = .next (precopyEffect sl s) ∧
    exec (.migration sl ⟨target, v, false⟩) s = .next (migrateEffect sl target s) ∧
      ((migrateEffect sl target s).slices.get Slice.init sl.toNat).granules = 0) ∧
  (∀ sl s v round m, (s.slices.get Slice.init sl.toNat).granules ≠ 0 → s.arriving sl = some m → 1 ≤ (slice v 8 8).toNat →
    s.sessionLink s.pkg = true → s.managed = true →
    exec (.migration sl ⟨s.pkg, v, round⟩) s = .next (installEffect sl m s)) ∧
  (∀ sl target v round s, slice v 8 8 = 0#8 ∨ s.sessionLink target = false → exec (.migration sl ⟨target, v, round⟩) s = .next s) ∧
  (∀ sl p s, s.sliceFits sl p = true → s.managed = true → exec (.sliceCreate sl p) s = .next (sliceEffect sl p s) ∧
    ((sliceEffect sl p s).slices.get Slice.init sl.toNat).granules = p.granules) ∧
  (∀ region s, s.recordDue region = true → exec (.periodicMeterRecord region) s = .next (s.emit 0 region)) ∧
  (∀ m s, s.managed = true → (meterOpens m = true → exec (.regionOpen m) s = .next (openEffect m s)) ∧
    (s.meterArrives m = true → exec (.migrateIn m) s = .next (migrateInEffect m s)) ∧
    (s.carries m = true → exec (.carryIn m) s = .next ((s.modRegion m.region (fun x => { x with count := m.count })).emit 4 m.region))) ∧
  (∀ region s, (s.regions.get Region.init region.toNat).opened = true →
    exec (.regionClose region) s = .next ((s.emit 6 region).modRegion region (fun x => { x with opened := false })))

/-- The device's events (R391, R404, R433 to R442): power-good, service levels, the clock's steps of 225 MHz between 1,800 and
3,600, heartbeats, hand-over, attestation, versions, checkpoints, event records and register writes. -/
def Obligations.DeviceEventsAct : Prop :=
  ∀ s : State,
    (∀ a b, exec (.powerGood a b) s = .next (powerEffect (a <|> b) s)) ∧
    (s.dev.svc = 0 → s.dev.responder = true →
      exec .reducedService s = .next (s.modDev (fun d => { d with svc := 1, dies := 1, clock := 1800 }))) ∧
    (s.dev.svc = 1 → exec .fullService s = .next (s.modDev (fun d => { d with svc := 2, dies := 0xFF, clock := 3600 }))) ∧
    (2025 ≤ s.dev.clock.toNat → exec .clockLower s = .next (s.modDev (fun d => { d with clock := d.clock - 225 }))) ∧
    (s.dev.svc = 2 → s.dev.clock.toNat ≤ 3375 →
      exec .clockRaise s = .next (s.modDev (fun d => { d with clock := d.clock + 225 }))) ∧
    (∀ c, s.managed = true → exec (.heartbeat c) s = .next (heartbeatEffect c s)) ∧
    (∀ image, s.dev.responder = true → s.dev.svc ≠ 3 → s.dev.handover = false →
      exec (.handoverStart image true) s = .next (s.modDev (fun d => { d with handover := true, next := image }))) ∧
    (∀ v, s.dev.handover = true → exec (.handoverCommit (some v)) s = .next (commitHandover v s) ∧
      (s.dev.ckptDue = false → (commitHandover v s).dev.image = s.dev.next ∧ (commitHandover v s).dev.fwver = v ∧
        (commitHandover v s).dev.handover = false)) ∧
    (s.dev.handover = true → exec (.handoverCommit none) s = .next (abandonHandover s) ∧
      (s.dev.ckptDue = false → (abandonHandover s).dev.image = s.dev.image ∧ (abandonHandover s).dev.meas = s.dev.meas ∧
        (abandonHandover s).dev.handover = false)) ∧
    (s.dev.responder = true → s.managed = true →
      exec .getVersion s = .next (s.modDev (fun d => { d with doe := .versions [0x1200, 0x1300] })) ∧
      (s.dev.handover = true → exec .getMeasurements s = .next (s.modDev (fun d => { d with doe := .notReady }))) ∧
      (s.dev.handover = false → exec .getMeasurements s = .next (s.modDev (fun d =>
        { d with doe := .measurements ((List.range 4).map (fun k => d.meas.get 0 k)) d.log }))) ∧
      (s.dev.handover = false → s.dev.svc ≠ 3 →
        exec .getCertificate s = .next (s.modDev (fun d => { d with doe := .certificate Config.certificateChain })))) ∧
    (∀ vf v, isVf vf = true → s.managed = true →
      exec (.qver vf v) s = .next (s.modDev (fun d => { d with qver := d.qver.set 0 vf.toNat (agreedFor v) }))) ∧
    (∀ v, s.managed = true → exec (.qverpf v) s = .next (s.modDev (fun d => { d with qverpf := agreedFor v }))) ∧
    (∀ v : W64, v.getLsbD 0 = true → s.managed = true → exec (.ckpt v) s = .next (ckptEffect s)) ∧
    (∀ ok, s.dev.running = true → s.allParked = true →
      exec (.checkpointComplete ok) s = .next (checkpointEffect ok s) ∧ (checkpointEffect ok s).dev.running = false) ∧
    (∀ t rest, s.dev.events = t :: rest → ringRoom s.dev.evctl s.dev.evtail s.dev.evhead = true →
      exec .eventRecordWrite s = .next (eventEffect t rest s)) ∧
    (∀ r v, (∀ f off, r ≠ .bar0 f off ∧ r ≠ .bar0read f off) → (DevReg.function r).all isVf = true →
      s.managed = true ∨ DevReg.outside r = true → exec (.registerWrite r v) s = .next (registerEffect r v s)) ∧
    (∀ f off v, (s.managed = true → exec (.registerWrite (.bar0 f off) v) s = barWrite f off.toNat (slice v 0 64) s) ∧
      exec (.registerWrite (.bar0read f off) v) s = .next (s.modDev (fun d => { d with readData := s.barRead f off.toNat })) ∧
      (barReg f off.toNat = none → barWrite f off.toNat (slice v 0 64) s = .next s ∧ s.barRead f off.toNat = 0)) ∧
    (∀ vf q : BitVec 6, isVf vf = true → ∀ n, n < 8 →
      barReg vf (0x40 * q.toNat + 8 * n) = some (.queue vf q n) ∧
      barReg 0 (0x20000 + 0x1000 * (vf.toNat - 1) + 0x40 * q.toNat + 8 * n) = some (.queue vf q n) ∧
      barReg vf (0x10000 + 0x100 * q.toNat + 8 * n) = some (.shadow vf q n) ∧
      barReg 0 (0x10000 + 0x80 * (vf.toNat - 1) + 8 * n) = some (.prq vf n))

/-! ## Frames -/

/-- What a register instruction of the SCU or of the VE with fixed latency leaves unchanged (R84, R96): where it issues, nothing
is new but the queues its operands pop and its destination reserves, and its result in the landing buffer; memory, flags, modes
and every register are as before until the result lands. So do the arithmetic, the immediates, the counts, the moves, the compares and
the address instructions of the SCU (R101 to R110), and the arithmetic, logic, shifts, multiply-accumulates, compares, selections,
conversions, permutes and exact-register instructions of the VE (R131 to R155). A part of a row that goes to a queue takes a free
value for the bytes that the spec leaves open (log 19), and the model's counter of those moves on. A result's destination is never a peek
code (R41), which the clauses of instructions that read no operand say. -/
def Obligations.RegisterInstructionsOnlyLand : Prop :=
  ∀ s : State,
    (∀ (d a b : GField) (g : Guard) (i : Instr),
      i ∈ [.add d a b g, .sub d a b g, .and d a b g, .or d a b g, .xor d a b g, .andn d a b g, .shl d a b g, .shr d a b g,
        .sra d a b g, .rotl d a b g, .min d a b g, .max d a b g, .minn d a b g, .maxn d a b g, .sel d a b g, .mul d a b g,
        .mulh d a b g, .mulhn d a b g, .bext d a b g, .bins d a b g] →
      ∀ lat : Nat, lat = (if i ∈ [.mul d a b g, .mulh d a b g, .mulhn d a b g] then 3 else 1) →
      (i = .sel d a b g → s.ready { srcs := [a.qref, b.qref], dst := d.push, lat := 1, file := d.file } = true) →
      (i ≠ .sel d a b g → s.ready (s.cur.needs2 d a b g lat) = true) →
      ∃ t l, exec i s = .next t ∧ OnlyLands s t l ∧ (∀ n, d = .r n → t.cur.g = s.cur.g)) ∧
    (∀ (t : ITy) (d a b : VField) (g : BitVec 3) (i : Instr),
      i ∈ [.viadd t d a b g, .visub t d a b g, .vimin t d a b g, .vimax t d a b g, .vclamp t d a b g] →
      s.ready (needsV d [a.qref, b.qref] 2) = true → ∃ u l, exec i s = .next u ∧ OnlyLands s u l) ∧
    (∀ (t : FTy) (d a b : VField) (g : BitVec 3) (i : Instr),
      i ∈ [.vadd t d a b g, .vsub t d a b g, .vmul t d a b g, .vmin t d a b g, .vmax t d a b g, .vfma t d a b g,
        .vfms t d a b g, .vfnma t d a b g] →
      s.ready (needsV d [a.qref, b.qref] 4) = true → ∃ u l, exec i s = .next u ∧ OnlyLands s u l) ∧
    let lands (n : Needs) (i : Instr) : Prop := s.ready n = true → ∃ t l, exec i s = .next t ∧ OnlyLands s t l
    (∀ (d a : GField) (n : BitVec 10) (m : BitVec 6) (i : Instr),
      i ∈ [.addi d a n, .andi d a n, .ori d a n, .xori d a n, .shli d a m, .shri d a m, .srai d a m] → lands (needs1 d a) i) ∧
    (∀ (d a : GField) (g : Guard) (i : Instr), i ∈ [.clz d a g, .ctz d a g, .popc d a g] →
      lands { needs1 d a with act := s.cur.guardP g } i) ∧
    (∀ (d : GField) (i : BitVec 16) (h : BitVec 2), lands (needs1 d (.r 0)) (.movk d i h)) ∧
    (∀ (d : GField) (i : BitVec 16) (j : BitVec 32) (a : BitVec 4) (sel : MeshSel) (x : Instr), (∀ q, d ≠ .peek q) →
      x ∈ [.movi d i, .ldi d j, .aget d a, .amesh d sel] → lands (needs1 d (.r 0)) x) ∧
    (∀ (d a : BitVec 4) (g : GField) (n : BitVec 10),
      lands { srcs := [g.qref], lat := 1, file := .gpa } (.aadd d a g) ∧ lands { lat := 1, file := .gpa } (.aaddi d a n) ∧
      lands { srcs := [g.qref], lat := 1, file := .gpa } (.amov d g)) ∧
    (∀ p c a b g, lands { srcs := [a.qref, b.qref], act := s.cur.guardP g, lat := 1, file := .gpa } (.cmp p c a b g)) ∧
    (∀ p c a n, lands { srcs := [a.qref], lat := 1, file := .gpa } (.cmpi p c a n)) ∧
    (∀ (t : ITy) (d a b : VField) (g : BitVec 3) (q : BitVec 2) (wide : Bool) (i : Instr),
      i ∈ [.vimul t d a b g, .vimulh t d a b g, .vimulr wide d a b g, .vmacb q d a b g] → lands (needsV d [a.qref, b.qref] 3) i) ∧
    (∀ (t : WTy) (u : WaddTy) (d a b : VField) (g : BitVec 3) (i : Instr),
      i ∈ [.vand t d a b g, .vor t d a b g, .vxor t d a b g, .vshl t d a b g, .vshr t d a b g, .vsra t d a b g, .vrshr t d a b g,
        .vwadd u d a b g, .vsel t d a b g] → lands (needsV d [a.qref, b.qref] 2) i) ∧
    (∀ (t : WTy) (f : FTy) (d a : VField) (g : BitVec 3) (i : Instr),
      i ∈ [.vnot t d a g, .vabs f d a g, .vneg f d a g] → lands (needsV d [a.qref] 2) i) ∧
    (∀ (t : WTy) (d a b : VField) (g : BitVec 3), lands (needsV d [a.qref, b.qref] 3) (.vperm t d a b g)) ∧
    (∀ (t : WTy) (p : ShufPat) (n : BitVec 8) (d a : VField) (g : BitVec 3) (i : Instr),
      i ∈ [.vshuf t p d a g, .vrot n d a g, .vrmrg n d a g] → lands (needsV d [a.qref] 3) i) ∧
    (∀ t start d g, (∀ q, d ≠ .peek q) → lands (needsV d [] 3) (.viota t start d g)) ∧
    (∀ blk i d a g, lands (needsV d [a.qref] 3) (.vbcast blk i d a g)) ∧
    (∀ wide i d a g, lands (needsV d [a.qref] 3) (.vextr wide i d a g)) ∧
    (∀ op d a g, lands (needsV d [a.qref] (scanLat op)) (.vscan op d a g)) ∧
    (∀ t d a b g, lands (needsV d [a.qref, b.qref] 4) (.vkey t d a b g)) ∧
    (let landsPart (d : VField) (n : Needs) (i : Instr) : Prop := s.ready n = true → ∃ t l,
      exec i s = .next { t with free := if d.push.isSome then s.free + 1 else s.free } ∧ OnlyLands s t l
     (∀ q d a g, landsPart d (needsV d [a.qref] 3) (.vnarb q d a g)) ∧
     (∀ dst src d a k, landsPart d (needsV d [a.qref] 3) (.vcvtLow dst src d a k)) ∧
     (∀ dst src d a k, landsPart d (needsV d [a.qref] 3) (.vcvtHigh dst src d a k)) ∧
     (∀ dst d a b k, landsPart d (needsV d [a.qref, b.qref] 4) (.vqnt dst d a b k))) ∧
    (∀ c t p a b g, lands (needsVp [a.qref, b.qref]) (.vcmp c t p a b g)) ∧
    (∀ c t p a b g, lands (needsVp [a.qref, b.qref]) (.vfcmp c t p a b g)) ∧
    (∀ p a b g, lands (needsVp []) (.vpand p a b g) ∧ lands (needsVp []) (.vpor p a b g) ∧ lands (needsVp []) (.vpnot p a g)) ∧
    (∀ x g, lands (needsX [] 2) (.xclr x g)) ∧ (∀ x a g, lands (needsX [a.qref] 2) (.xacc x a g)) ∧
    (∀ e x a b g, lands (needsX [a.qref, b.qref] 4) (.xsca e x a b g)) ∧ (∀ n x a g, lands (needsX [] 4) (.xred n x a g)) ∧
    (∀ b d a g, (∀ q, d ≠ .peek q) → lands (needsV d [] 6) (.xrnd b d a g))

/-- What a memory instruction of the SCU or the VE leaves unchanged when it issues (R87, R96, R189, R202): nothing is new but
queues its operands pop or reserve, and the operation it enters with its token; no byte of memory changes until it performs. VLDQ also
advances its address register (R175), and a gather, scatter or prefetch sets MPC to its lanes (R177, R468). Atomics, CFLSH, CINV, CDISC
and the row-range operations are among them (R180 to R186). -/
def Obligations.MemoryInstructionsOnlyEnter : Prop :=
  ∀ s : State,
    (∀ (t : LdTy) (d : GField) (m : MemOpnd) (w : BitVec 3) (i : Instr),
      i ∈ [.ld t d m w, .ldn t d m w, .lda t d m w] → s.ready (needsLd d m w) = true →
      ∃ u o, exec i s = .next u ∧ OnlyEnters s u o true ∧ o.instr = i ∧ u.hbm = s.hbm) ∧
    (∀ (t : StTy) (x : GField) (m : MemOpnd) (w : BitVec 3), s.ready (needsSt x m w) = true →
      ∃ u o, exec (.st t x m w) s = .next u ∧ OnlyEnters s u o true ∧ o.instr = .st t x m w ∧
        ∀ c q j, stashByte u c q j = stashByte s c q j) ∧
    (∀ (d : VField) (m : MemOpnd) (w : BitVec 3), s.ready (needsVld d w) = true →
      ∃ u o, exec (.vld d m w) s = .next u ∧ OnlyEnters s u o true ∧ o.instr = .vld d m w ∧ o.addr = s.ctx.ea m 256) ∧
    (∀ (x : VField) (m : MemOpnd) (p w : BitVec 3), s.ready (needsVst x w) = true →
      (∃ u o, exec (.vst x m w) s = .next u ∧ OnlyEnters s u o true ∧ o.addr = s.ctx.ea m 256 ∧
        ∀ c q j, stashByte u c q j = stashByte s c q j) ∧
      (∃ u o, exec (.vstm x m p w) s = .next u ∧ OnlyEnters s u o true ∧ o.mask = s.cur.vpr p ∧ u.hbm = s.hbm)) ∧
    let enters (n : Needs) (i : Instr) : Prop :=
      s.ready n = true → ∃ u o, exec i s = .next u ∧ OnlyEnters s u o true ∧ o.instr = i ∧ u.hbm = s.hbm ∧
        ∀ c q j, stashByte u c q j = stashByte s c q j
    (∀ (op : AtOp) (wide : Bool) (d x : GField) (b : BitVec 4) (w : BitVec 3) (i : Instr),
      i ∈ [.atm op wide d b x w, .acas wide d b x w, .acas2 d b x w] → enters (needsAtomic d x w) i) ∧
    (∀ (r : GField) (b : BitVec 4) (w : BitVec 3) (i : Instr),
      i ∈ [.stbind r b w, .stunbd r w, .stflsh r w, .stdrop r w, .sttch r w, .cflsh r b w, .cinv r b w, .cdisc r b w] →
      enters (needsMgmt r w) i) ∧
    (∀ (d : VField) (m : MemOpnd) (p w : BitVec 3), enters (needsVld d w) (.vldt d m p w)) ∧
    (∀ (q : BitVec 3) (m : MemOpnd) (p w : BitVec 3), s.ready (s.needsVldq q w) = true →
      ∃ u o, exec (.vldq q m p w) s = .next u ∧
        OnlyEnters (s.modCtx (fun x => x.setA m.base (s.ctx.ar m.base + s.ctx.increment m))) u o true ∧
        o.addr = s.ctx.ar m.base ∧ o.mask = s.cur.vpr p ∧ u.hbm = s.hbm ∧ ∀ c q j, stashByte u c q j = stashByte s c q j) ∧
    (let lanes (n : Needs) (p : BitVec 3) (i : Instr) : Prop :=
      s.ready n = true → ∃ u o, OnlyEnters s u o true ∧ o.mpc = laneMask (s.cur.vpr p) ∧ u.hbm = s.hbm ∧
        exec i s = .next (u.modCtx (fun x => { x with mpc := laneMask (s.cur.vpr p) })) ∧
        ∀ c q j, stashByte u c q j = stashByte s c q j
     (∀ d b sh ix p w, lanes (needsVld (.r d) w) p (.vgath d b sh ix p w)) ∧
     (∀ x b sh ix p w, lanes (needsVst x w) p (.vscat x b sh ix p w)) ∧
     (∀ b sh ix p w, lanes (needsVld (.r 0) w) p (.vpref b sh ix p w)))
end

