-- ==== Sys2Proof/Laws/Decode.lean ====
section
/-!
SUPPORT. Reading a field of an encoded word gives the field: for each form of R36, any run of bits that lies within one field
is that run of the field's own bits; and each code of an operand, a type or a condition names it.
-/

set_option Elab.async false

namespace Sys2Proof

/-! ## Bits of the forms -/

theorem extract_hi {n m : Nat} (x : BitVec n) (y : BitVec m) {lo len k : Nat} (h : k + m ≤ lo) :
    (x ++ y).extractLsb' (lo - k) len = x.extractLsb' (lo - (k + m)) len := by
  apply BitVec.eq_of_getLsbD_eq
  intro j hj
  simp only [BitVec.getLsbD_extractLsb', hj, decide_true, Bool.true_and, BitVec.getLsbD_append]
  rw [if_neg (by omega)]
  congr 1
  omega

theorem extract_lo {n m : Nat} (x : BitVec n) (y : BitVec m) {lo len k : Nat} (h : k ≤ lo) (h' : lo + len ≤ k + m) :
    (x ++ y).extractLsb' (lo - k) len = y.extractLsb' (lo - k) len := by
  apply BitVec.eq_of_getLsbD_eq
  intro j hj
  simp only [BitVec.getLsbD_extractLsb', hj, decide_true, Bool.true_and, BitVec.getLsbD_append]
  rw [if_pos (by omega)]

theorem bit_hi {n m : Nat} (x : BitVec n) (y : BitVec m) {j k : Nat} (h : k + m ≤ j) :
    (x ++ y).getLsbD (j - k) = x.getLsbD (j - (k + m)) := by
  rw [BitVec.getLsbD_append, if_neg (by omega)]
  congr 1
  omega

theorem bit_lo {n m : Nat} (x : BitVec n) (y : BitVec m) {j k : Nat} (h : k ≤ j) (h' : j < k + m) :
    (x ++ y).getLsbD (j - k) = y.getLsbD (j - k) := by
  rw [BitVec.getLsbD_append, if_pos (by omega)]

@[simp] theorem formA_s (s : Bool) (maj : BitVec 5) (d a b : BitVec 6) (pg : BitVec 3) (pn : BitVec 1) (m : BitVec 4) {lo len : Nat} (h : 31 ≤ lo) :
    bits (formA s maj d a b pg pn m) lo len = (BitVec.ofBool s).extractLsb' (lo - 31) len :=
  (extract_hi (k := 0) _ _ (by omega)).trans <|
    (extract_hi (k := 4) _ _ (by omega)).trans <|
    (extract_hi (k := 5) _ _ (by omega)).trans <|
    (extract_hi (k := 8) _ _ (by omega)).trans <|
    (extract_hi (k := 14) _ _ (by omega)).trans <|
    (extract_hi (k := 20) _ _ (by omega)).trans <|
    (extract_hi (k := 26) _ _ (by omega))

@[simp] theorem formA_s_bit (s : Bool) (maj : BitVec 5) (d a b : BitVec 6) (pg : BitVec 3) (pn : BitVec 1) (m : BitVec 4) {j : Nat} (h : 31 ≤ j) :
    (formA s maj d a b pg pn m).getLsbD j = (BitVec.ofBool s).getLsbD (j - 31) :=
  (bit_hi (k := 0) _ _ (by omega)).trans <|
    (bit_hi (k := 4) _ _ (by omega)).trans <|
    (bit_hi (k := 5) _ _ (by omega)).trans <|
    (bit_hi (k := 8) _ _ (by omega)).trans <|
    (bit_hi (k := 14) _ _ (by omega)).trans <|
    (bit_hi (k := 20) _ _ (by omega)).trans <|
    (bit_hi (k := 26) _ _ (by omega))

@[simp] theorem formA_maj (s : Bool) (maj : BitVec 5) (d a b : BitVec 6) (pg : BitVec 3) (pn : BitVec 1) (m : BitVec 4) {lo len : Nat} (h : 26 ≤ lo) (h' : lo + len ≤ 31) :
    bits (formA s maj d a b pg pn m) lo len = (maj).extractLsb' (lo - 26) len :=
  (extract_hi (k := 0) _ _ (by omega)).trans <|
    (extract_hi (k := 4) _ _ (by omega)).trans <|
    (extract_hi (k := 5) _ _ (by omega)).trans <|
    (extract_hi (k := 8) _ _ (by omega)).trans <|
    (extract_hi (k := 14) _ _ (by omega)).trans <|
    (extract_hi (k := 20) _ _ (by omega)).trans <|
    (extract_lo (k := 26) _ _ h h')

@[simp] theorem formA_maj_bit (s : Bool) (maj : BitVec 5) (d a b : BitVec 6) (pg : BitVec 3) (pn : BitVec 1) (m : BitVec 4) {j : Nat} (h : 26 ≤ j) (h' : j < 31) :
    (formA s maj d a b pg pn m).getLsbD j = (maj).getLsbD (j - 26) :=
  (bit_hi (k := 0) _ _ (by omega)).trans <|
    (bit_hi (k := 4) _ _ (by omega)).trans <|
    (bit_hi (k := 5) _ _ (by omega)).trans <|
    (bit_hi (k := 8) _ _ (by omega)).trans <|
    (bit_hi (k := 14) _ _ (by omega)).trans <|
    (bit_hi (k := 20) _ _ (by omega)).trans <|
    (bit_lo (k := 26) _ _ h h')

@[simp] theorem formA_d (s : Bool) (maj : BitVec 5) (d a b : BitVec 6) (pg : BitVec 3) (pn : BitVec 1) (m : BitVec 4) {lo len : Nat} (h : 20 ≤ lo) (h' : lo + len ≤ 26) :
    bits (formA s maj d a b pg pn m) lo len = (d).extractLsb' (lo - 20) len :=
  (extract_hi (k := 0) _ _ (by omega)).trans <|
    (extract_hi (k := 4) _ _ (by omega)).trans <|
    (extract_hi (k := 5) _ _ (by omega)).trans <|
    (extract_hi (k := 8) _ _ (by omega)).trans <|
    (extract_hi (k := 14) _ _ (by omega)).trans <|
    (extract_lo (k := 20) _ _ h h')

@[simp] theorem formA_d_bit (s : Bool) (maj : BitVec 5) (d a b : BitVec 6) (pg : BitVec 3) (pn : BitVec 1) (m : BitVec 4) {j : Nat} (h : 20 ≤ j) (h' : j < 26) :
    (formA s maj d a b pg pn m).getLsbD j = (d).getLsbD (j - 20) :=
  (bit_hi (k := 0) _ _ (by omega)).trans <|
    (bit_hi (k := 4) _ _ (by omega)).trans <|
    (bit_hi (k := 5) _ _ (by omega)).trans <|
    (bit_hi (k := 8) _ _ (by omega)).trans <|
    (bit_hi (k := 14) _ _ (by omega)).trans <|
    (bit_lo (k := 20) _ _ h h')

@[simp] theorem formA_a (s : Bool) (maj : BitVec 5) (d a b : BitVec 6) (pg : BitVec 3) (pn : BitVec 1) (m : BitVec 4) {lo len : Nat} (h : 14 ≤ lo) (h' : lo + len ≤ 20) :
    bits (formA s maj d a b pg pn m) lo len = (a).extractLsb' (lo - 14) len :=
  (extract_hi (k := 0) _ _ (by omega)).trans <|
    (extract_hi (k := 4) _ _ (by omega)).trans <|
    (extract_hi (k := 5) _ _ (by omega)).trans <|
    (extract_hi (k := 8) _ _ (by omega)).trans <|
    (extract_lo (k := 14) _ _ h h')

@[simp] theorem formA_a_bit (s : Bool) (maj : BitVec 5) (d a b : BitVec 6) (pg : BitVec 3) (pn : BitVec 1) (m : BitVec 4) {j : Nat} (h : 14 ≤ j) (h' : j < 20) :
    (formA s maj d a b pg pn m).getLsbD j = (a).getLsbD (j - 14) :=
  (bit_hi (k := 0) _ _ (by omega)).trans <|
    (bit_hi (k := 4) _ _ (by omega)).trans <|
    (bit_hi (k := 5) _ _ (by omega)).trans <|
    (bit_hi (k := 8) _ _ (by omega)).trans <|
    (bit_lo (k := 14) _ _ h h')

@[simp] theorem formA_b (s : Bool) (maj : BitVec 5) (d a b : BitVec 6) (pg : BitVec 3) (pn : BitVec 1) (m : BitVec 4) {lo len : Nat} (h : 8 ≤ lo) (h' : lo + len ≤ 14) :
    bits (formA s maj d a b pg pn m) lo len = (b).extractLsb' (lo - 8) len :=
  (extract_hi (k := 0) _ _ (by omega)).trans <|
    (extract_hi (k := 4) _ _ (by omega)).trans <|
    (extract_hi (k := 5) _ _ (by omega)).trans <|
    (extract_lo (k := 8) _ _ h h')

@[simp] theorem formA_b_bit (s : Bool) (maj : BitVec 5) (d a b : BitVec 6) (pg : BitVec 3) (pn : BitVec 1) (m : BitVec 4) {j : Nat} (h : 8 ≤ j) (h' : j < 14) :
    (formA s maj d a b pg pn m).getLsbD j = (b).getLsbD (j - 8) :=
  (bit_hi (k := 0) _ _ (by omega)).trans <|
    (bit_hi (k := 4) _ _ (by omega)).trans <|
    (bit_hi (k := 5) _ _ (by omega)).trans <|
    (bit_lo (k := 8) _ _ h h')

@[simp] theorem formA_pg (s : Bool) (maj : BitVec 5) (d a b : BitVec 6) (pg : BitVec 3) (pn : BitVec 1) (m : BitVec 4) {lo len : Nat} (h : 5 ≤ lo) (h' : lo + len ≤ 8) :
    bits (formA s maj d a b pg pn m) lo len = (pg).extractLsb' (lo - 5) len :=
  (extract_hi (k := 0) _ _ (by omega)).trans <|
    (extract_hi (k := 4) _ _ (by omega)).trans <|
    (extract_lo (k := 5) _ _ h h')

@[simp] theorem formA_pg_bit (s : Bool) (maj : BitVec 5) (d a b : BitVec 6) (pg : BitVec 3) (pn : BitVec 1) (m : BitVec 4) {j : Nat} (h : 5 ≤ j) (h' : j < 8) :
    (formA s maj d a b pg pn m).getLsbD j = (pg).getLsbD (j - 5) :=
  (bit_hi (k := 0) _ _ (by omega)).trans <|
    (bit_hi (k := 4) _ _ (by omega)).trans <|
    (bit_lo (k := 5) _ _ h h')

@[simp] theorem formA_pn (s : Bool) (maj : BitVec 5) (d a b : BitVec 6) (pg : BitVec 3) (pn : BitVec 1) (m : BitVec 4) {lo len : Nat} (h : 4 ≤ lo) (h' : lo + len ≤ 5) :
    bits (formA s maj d a b pg pn m) lo len = (pn).extractLsb' (lo - 4) len :=
  (extract_hi (k := 0) _ _ (by omega)).trans <|
    (extract_lo (k := 4) _ _ h h')

@[simp] theorem formA_pn_bit (s : Bool) (maj : BitVec 5) (d a b : BitVec 6) (pg : BitVec 3) (pn : BitVec 1) (m : BitVec 4) {j : Nat} (h : 4 ≤ j) (h' : j < 5) :
    (formA s maj d a b pg pn m).getLsbD j = (pn).getLsbD (j - 4) :=
  (bit_hi (k := 0) _ _ (by omega)).trans <|
    (bit_lo (k := 4) _ _ h h')

@[simp] theorem formA_m (s : Bool) (maj : BitVec 5) (d a b : BitVec 6) (pg : BitVec 3) (pn : BitVec 1) (m : BitVec 4) {lo len : Nat} (h : 0 ≤ lo) (h' : lo + len ≤ 4) :
    bits (formA s maj d a b pg pn m) lo len = (m).extractLsb' (lo - 0) len :=
  (extract_lo (k := 0) _ _ h h')

@[simp] theorem formA_m_bit (s : Bool) (maj : BitVec 5) (d a b : BitVec 6) (pg : BitVec 3) (pn : BitVec 1) (m : BitVec 4) {j : Nat} (h : 0 ≤ j) (h' : j < 4) :
    (formA s maj d a b pg pn m).getLsbD j = (m).getLsbD (j - 0) :=
  (bit_lo (k := 0) _ _ h h')

@[simp] theorem formB_s (s : Bool) (maj : BitVec 5) (d a : BitVec 6) (i : BitVec 10) (m : BitVec 4) {lo len : Nat} (h : 31 ≤ lo) :
    bits (formB s maj d a i m) lo len = (BitVec.ofBool s).extractLsb' (lo - 31) len :=
  (extract_hi (k := 0) _ _ (by omega)).trans <|
    (extract_hi (k := 4) _ _ (by omega)).trans <|
    (extract_hi (k := 14) _ _ (by omega)).trans <|
    (extract_hi (k := 20) _ _ (by omega)).trans <|
    (extract_hi (k := 26) _ _ (by omega))

@[simp] theorem formB_s_bit (s : Bool) (maj : BitVec 5) (d a : BitVec 6) (i : BitVec 10) (m : BitVec 4) {j : Nat} (h : 31 ≤ j) :
    (formB s maj d a i m).getLsbD j = (BitVec.ofBool s).getLsbD (j - 31) :=
  (bit_hi (k := 0) _ _ (by omega)).trans <|
    (bit_hi (k := 4) _ _ (by omega)).trans <|
    (bit_hi (k := 14) _ _ (by omega)).trans <|
    (bit_hi (k := 20) _ _ (by omega)).trans <|
    (bit_hi (k := 26) _ _ (by omega))

@[simp] theorem formB_maj (s : Bool) (maj : BitVec 5) (d a : BitVec 6) (i : BitVec 10) (m : BitVec 4) {lo len : Nat} (h : 26 ≤ lo) (h' : lo + len ≤ 31) :
    bits (formB s maj d a i m) lo len = (maj).extractLsb' (lo - 26) len :=
  (extract_hi (k := 0) _ _ (by omega)).trans <|
    (extract_hi (k := 4) _ _ (by omega)).trans <|
    (extract_hi (k := 14) _ _ (by omega)).trans <|
    (extract_hi (k := 20) _ _ (by omega)).trans <|
    (extract_lo (k := 26) _ _ h h')

@[simp] theorem formB_maj_bit (s : Bool) (maj : BitVec 5) (d a : BitVec 6) (i : BitVec 10) (m : BitVec 4) {j : Nat} (h : 26 ≤ j) (h' : j < 31) :
    (formB s maj d a i m).getLsbD j = (maj).getLsbD (j - 26) :=
  (bit_hi (k := 0) _ _ (by omega)).trans <|
    (bit_hi (k := 4) _ _ (by omega)).trans <|
    (bit_hi (k := 14) _ _ (by omega)).trans <|
    (bit_hi (k := 20) _ _ (by omega)).trans <|
    (bit_lo (k := 26) _ _ h h')

@[simp] theorem formB_d (s : Bool) (maj : BitVec 5) (d a : BitVec 6) (i : BitVec 10) (m : BitVec 4) {lo len : Nat} (h : 20 ≤ lo) (h' : lo + len ≤ 26) :
    bits (formB s maj d a i m) lo len = (d).extractLsb' (lo - 20) len :=
  (extract_hi (k := 0) _ _ (by omega)).trans <|
    (extract_hi (k := 4) _ _ (by omega)).trans <|
    (extract_hi (k := 14) _ _ (by omega)).trans <|
    (extract_lo (k := 20) _ _ h h')

@[simp] theorem formB_d_bit (s : Bool) (maj : BitVec 5) (d a : BitVec 6) (i : BitVec 10) (m : BitVec 4) {j : Nat} (h : 20 ≤ j) (h' : j < 26) :
    (formB s maj d a i m).getLsbD j = (d).getLsbD (j - 20) :=
  (bit_hi (k := 0) _ _ (by omega)).trans <|
    (bit_hi (k := 4) _ _ (by omega)).trans <|
    (bit_hi (k := 14) _ _ (by omega)).trans <|
    (bit_lo (k := 20) _ _ h h')

@[simp] theorem formB_a (s : Bool) (maj : BitVec 5) (d a : BitVec 6) (i : BitVec 10) (m : BitVec 4) {lo len : Nat} (h : 14 ≤ lo) (h' : lo + len ≤ 20) :
    bits (formB s maj d a i m) lo len = (a).extractLsb' (lo - 14) len :=
  (extract_hi (k := 0) _ _ (by omega)).trans <|
    (extract_hi (k := 4) _ _ (by omega)).trans <|
    (extract_lo (k := 14) _ _ h h')

@[simp] theorem formB_a_bit (s : Bool) (maj : BitVec 5) (d a : BitVec 6) (i : BitVec 10) (m : BitVec 4) {j : Nat} (h : 14 ≤ j) (h' : j < 20) :
    (formB s maj d a i m).getLsbD j = (a).getLsbD (j - 14) :=
  (bit_hi (k := 0) _ _ (by omega)).trans <|
    (bit_hi (k := 4) _ _ (by omega)).trans <|
    (bit_lo (k := 14) _ _ h h')

@[simp] theorem formB_i (s : Bool) (maj : BitVec 5) (d a : BitVec 6) (i : BitVec 10) (m : BitVec 4) {lo len : Nat} (h : 4 ≤ lo) (h' : lo + len ≤ 14) :
    bits (formB s maj d a i m) lo len = (i).extractLsb' (lo - 4) len :=
  (extract_hi (k := 0) _ _ (by omega)).trans <|
    (extract_lo (k := 4) _ _ h h')

@[simp] theorem formB_i_bit (s : Bool) (maj : BitVec 5) (d a : BitVec 6) (i : BitVec 10) (m : BitVec 4) {j : Nat} (h : 4 ≤ j) (h' : j < 14) :
    (formB s maj d a i m).getLsbD j = (i).getLsbD (j - 4) :=
  (bit_hi (k := 0) _ _ (by omega)).trans <|
    (bit_lo (k := 4) _ _ h h')

@[simp] theorem formB_m (s : Bool) (maj : BitVec 5) (d a : BitVec 6) (i : BitVec 10) (m : BitVec 4) {lo len : Nat} (h : 0 ≤ lo) (h' : lo + len ≤ 4) :
    bits (formB s maj d a i m) lo len = (m).extractLsb' (lo - 0) len :=
  (extract_lo (k := 0) _ _ h h')

@[simp] theorem formB_m_bit (s : Bool) (maj : BitVec 5) (d a : BitVec 6) (i : BitVec 10) (m : BitVec 4) {j : Nat} (h : 0 ≤ j) (h' : j < 4) :
    (formB s maj d a i m).getLsbD j = (m).getLsbD (j - 0) :=
  (bit_lo (k := 0) _ _ h h')

@[simp] theorem formV_s (s : Bool) (maj : BitVec 5) (d a b : BitVec 6) (pg : BitVec 3) (t : BitVec 2) (o : BitVec 3) {lo len : Nat} (h : 31 ≤ lo) :
    bits (formV s maj d a b pg t o) lo len = (BitVec.ofBool s).extractLsb' (lo - 31) len :=
  (extract_hi (k := 0) _ _ (by omega)).trans <|
    (extract_hi (k := 3) _ _ (by omega)).trans <|
    (extract_hi (k := 5) _ _ (by omega)).trans <|
    (extract_hi (k := 8) _ _ (by omega)).trans <|
    (extract_hi (k := 14) _ _ (by omega)).trans <|
    (extract_hi (k := 20) _ _ (by omega)).trans <|
    (extract_hi (k := 26) _ _ (by omega))

@[simp] theorem formV_s_bit (s : Bool) (maj : BitVec 5) (d a b : BitVec 6) (pg : BitVec 3) (t : BitVec 2) (o : BitVec 3) {j : Nat} (h : 31 ≤ j) :
    (formV s maj d a b pg t o).getLsbD j = (BitVec.ofBool s).getLsbD (j - 31) :=
  (bit_hi (k := 0) _ _ (by omega)).trans <|
    (bit_hi (k := 3) _ _ (by omega)).trans <|
    (bit_hi (k := 5) _ _ (by omega)).trans <|
    (bit_hi (k := 8) _ _ (by omega)).trans <|
    (bit_hi (k := 14) _ _ (by omega)).trans <|
    (bit_hi (k := 20) _ _ (by omega)).trans <|
    (bit_hi (k := 26) _ _ (by omega))

@[simp] theorem formV_maj (s : Bool) (maj : BitVec 5) (d a b : BitVec 6) (pg : BitVec 3) (t : BitVec 2) (o : BitVec 3) {lo len : Nat} (h : 26 ≤ lo) (h' : lo + len ≤ 31) :
    bits (formV s maj d a b pg t o) lo len = (maj).extractLsb' (lo - 26) len :=
  (extract_hi (k := 0) _ _ (by omega)).trans <|
    (extract_hi (k := 3) _ _ (by omega)).trans <|
    (extract_hi (k := 5) _ _ (by omega)).trans <|
    (extract_hi (k := 8) _ _ (by omega)).trans <|
    (extract_hi (k := 14) _ _ (by omega)).trans <|
    (extract_hi (k := 20) _ _ (by omega)).trans <|
    (extract_lo (k := 26) _ _ h h')

@[simp] theorem formV_maj_bit (s : Bool) (maj : BitVec 5) (d a b : BitVec 6) (pg : BitVec 3) (t : BitVec 2) (o : BitVec 3) {j : Nat} (h : 26 ≤ j) (h' : j < 31) :
    (formV s maj d a b pg t o).getLsbD j = (maj).getLsbD (j - 26) :=
  (bit_hi (k := 0) _ _ (by omega)).trans <|
    (bit_hi (k := 3) _ _ (by omega)).trans <|
    (bit_hi (k := 5) _ _ (by omega)).trans <|
    (bit_hi (k := 8) _ _ (by omega)).trans <|
    (bit_hi (k := 14) _ _ (by omega)).trans <|
    (bit_hi (k := 20) _ _ (by omega)).trans <|
    (bit_lo (k := 26) _ _ h h')

@[simp] theorem formV_d (s : Bool) (maj : BitVec 5) (d a b : BitVec 6) (pg : BitVec 3) (t : BitVec 2) (o : BitVec 3) {lo len : Nat} (h : 20 ≤ lo) (h' : lo + len ≤ 26) :
    bits (formV s maj d a b pg t o) lo len = (d).extractLsb' (lo - 20) len :=
  (extract_hi (k := 0) _ _ (by omega)).trans <|
    (extract_hi (k := 3) _ _ (by omega)).trans <|
    (extract_hi (k := 5) _ _ (by omega)).trans <|
    (extract_hi (k := 8) _ _ (by omega)).trans <|
    (extract_hi (k := 14) _ _ (by omega)).trans <|
    (extract_lo (k := 20) _ _ h h')

@[simp] theorem formV_d_bit (s : Bool) (maj : BitVec 5) (d a b : BitVec 6) (pg : BitVec 3) (t : BitVec 2) (o : BitVec 3) {j : Nat} (h : 20 ≤ j) (h' : j < 26) :
    (formV s maj d a b pg t o).getLsbD j = (d).getLsbD (j - 20) :=
  (bit_hi (k := 0) _ _ (by omega)).trans <|
    (bit_hi (k := 3) _ _ (by omega)).trans <|
    (bit_hi (k := 5) _ _ (by omega)).trans <|
    (bit_hi (k := 8) _ _ (by omega)).trans <|
    (bit_hi (k := 14) _ _ (by omega)).trans <|
    (bit_lo (k := 20) _ _ h h')

@[simp] theorem formV_a (s : Bool) (maj : BitVec 5) (d a b : BitVec 6) (pg : BitVec 3) (t : BitVec 2) (o : BitVec 3) {lo len : Nat} (h : 14 ≤ lo) (h' : lo + len ≤ 20) :
    bits (formV s maj d a b pg t o) lo len = (a).extractLsb' (lo - 14) len :=
  (extract_hi (k := 0) _ _ (by omega)).trans <|
    (extract_hi (k := 3) _ _ (by omega)).trans <|
    (extract_hi (k := 5) _ _ (by omega)).trans <|
    (extract_hi (k := 8) _ _ (by omega)).trans <|
    (extract_lo (k := 14) _ _ h h')

@[simp] theorem formV_a_bit (s : Bool) (maj : BitVec 5) (d a b : BitVec 6) (pg : BitVec 3) (t : BitVec 2) (o : BitVec 3) {j : Nat} (h : 14 ≤ j) (h' : j < 20) :
    (formV s maj d a b pg t o).getLsbD j = (a).getLsbD (j - 14) :=
  (bit_hi (k := 0) _ _ (by omega)).trans <|
    (bit_hi (k := 3) _ _ (by omega)).trans <|
    (bit_hi (k := 5) _ _ (by omega)).trans <|
    (bit_hi (k := 8) _ _ (by omega)).trans <|
    (bit_lo (k := 14) _ _ h h')

@[simp] theorem formV_b (s : Bool) (maj : BitVec 5) (d a b : BitVec 6) (pg : BitVec 3) (t : BitVec 2) (o : BitVec 3) {lo len : Nat} (h : 8 ≤ lo) (h' : lo + len ≤ 14) :
    bits (formV s maj d a b pg t o) lo len = (b).extractLsb' (lo - 8) len :=
  (extract_hi (k := 0) _ _ (by omega)).trans <|
    (extract_hi (k := 3) _ _ (by omega)).trans <|
    (extract_hi (k := 5) _ _ (by omega)).trans <|
    (extract_lo (k := 8) _ _ h h')

@[simp] theorem formV_b_bit (s : Bool) (maj : BitVec 5) (d a b : BitVec 6) (pg : BitVec 3) (t : BitVec 2) (o : BitVec 3) {j : Nat} (h : 8 ≤ j) (h' : j < 14) :
    (formV s maj d a b pg t o).getLsbD j = (b).getLsbD (j - 8) :=
  (bit_hi (k := 0) _ _ (by omega)).trans <|
    (bit_hi (k := 3) _ _ (by omega)).trans <|
    (bit_hi (k := 5) _ _ (by omega)).trans <|
    (bit_lo (k := 8) _ _ h h')

@[simp] theorem formV_pg (s : Bool) (maj : BitVec 5) (d a b : BitVec 6) (pg : BitVec 3) (t : BitVec 2) (o : BitVec 3) {lo len : Nat} (h : 5 ≤ lo) (h' : lo + len ≤ 8) :
    bits (formV s maj d a b pg t o) lo len = (pg).extractLsb' (lo - 5) len :=
  (extract_hi (k := 0) _ _ (by omega)).trans <|
    (extract_hi (k := 3) _ _ (by omega)).trans <|
    (extract_lo (k := 5) _ _ h h')

@[simp] theorem formV_pg_bit (s : Bool) (maj : BitVec 5) (d a b : BitVec 6) (pg : BitVec 3) (t : BitVec 2) (o : BitVec 3) {j : Nat} (h : 5 ≤ j) (h' : j < 8) :
    (formV s maj d a b pg t o).getLsbD j = (pg).getLsbD (j - 5) :=
  (bit_hi (k := 0) _ _ (by omega)).trans <|
    (bit_hi (k := 3) _ _ (by omega)).trans <|
    (bit_lo (k := 5) _ _ h h')

@[simp] theorem formV_t (s : Bool) (maj : BitVec 5) (d a b : BitVec 6) (pg : BitVec 3) (t : BitVec 2) (o : BitVec 3) {lo len : Nat} (h : 3 ≤ lo) (h' : lo + len ≤ 5) :
    bits (formV s maj d a b pg t o) lo len = (t).extractLsb' (lo - 3) len :=
  (extract_hi (k := 0) _ _ (by omega)).trans <|
    (extract_lo (k := 3) _ _ h h')

@[simp] theorem formV_t_bit (s : Bool) (maj : BitVec 5) (d a b : BitVec 6) (pg : BitVec 3) (t : BitVec 2) (o : BitVec 3) {j : Nat} (h : 3 ≤ j) (h' : j < 5) :
    (formV s maj d a b pg t o).getLsbD j = (t).getLsbD (j - 3) :=
  (bit_hi (k := 0) _ _ (by omega)).trans <|
    (bit_lo (k := 3) _ _ h h')

@[simp] theorem formV_o (s : Bool) (maj : BitVec 5) (d a b : BitVec 6) (pg : BitVec 3) (t : BitVec 2) (o : BitVec 3) {lo len : Nat} (h : 0 ≤ lo) (h' : lo + len ≤ 3) :
    bits (formV s maj d a b pg t o) lo len = (o).extractLsb' (lo - 0) len :=
  (extract_lo (k := 0) _ _ h h')

@[simp] theorem formV_o_bit (s : Bool) (maj : BitVec 5) (d a b : BitVec 6) (pg : BitVec 3) (t : BitVec 2) (o : BitVec 3) {j : Nat} (h : 0 ≤ j) (h' : j < 3) :
    (formV s maj d a b pg t o).getLsbD j = (o).getLsbD (j - 0) :=
  (bit_lo (k := 0) _ _ h h')

@[simp] theorem formW_s (s : Bool) (maj : BitVec 5) (d : BitVec 6) (i : BitVec 16) (m : BitVec 4) {lo len : Nat} (h : 31 ≤ lo) :
    bits (formW s maj d i m) lo len = (BitVec.ofBool s).extractLsb' (lo - 31) len :=
  (extract_hi (k := 0) _ _ (by omega)).trans <|
    (extract_hi (k := 4) _ _ (by omega)).trans <|
    (extract_hi (k := 20) _ _ (by omega)).trans <|
    (extract_hi (k := 26) _ _ (by omega))

@[simp] theorem formW_s_bit (s : Bool) (maj : BitVec 5) (d : BitVec 6) (i : BitVec 16) (m : BitVec 4) {j : Nat} (h : 31 ≤ j) :
    (formW s maj d i m).getLsbD j = (BitVec.ofBool s).getLsbD (j - 31) :=
  (bit_hi (k := 0) _ _ (by omega)).trans <|
    (bit_hi (k := 4) _ _ (by omega)).trans <|
    (bit_hi (k := 20) _ _ (by omega)).trans <|
    (bit_hi (k := 26) _ _ (by omega))

@[simp] theorem formW_maj (s : Bool) (maj : BitVec 5) (d : BitVec 6) (i : BitVec 16) (m : BitVec 4) {lo len : Nat} (h : 26 ≤ lo) (h' : lo + len ≤ 31) :
    bits (formW s maj d i m) lo len = (maj).extractLsb' (lo - 26) len :=
  (extract_hi (k := 0) _ _ (by omega)).trans <|
    (extract_hi (k := 4) _ _ (by omega)).trans <|
    (extract_hi (k := 20) _ _ (by omega)).trans <|
    (extract_lo (k := 26) _ _ h h')

@[simp] theorem formW_maj_bit (s : Bool) (maj : BitVec 5) (d : BitVec 6) (i : BitVec 16) (m : BitVec 4) {j : Nat} (h : 26 ≤ j) (h' : j < 31) :
    (formW s maj d i m).getLsbD j = (maj).getLsbD (j - 26) :=
  (bit_hi (k := 0) _ _ (by omega)).trans <|
    (bit_hi (k := 4) _ _ (by omega)).trans <|
    (bit_hi (k := 20) _ _ (by omega)).trans <|
    (bit_lo (k := 26) _ _ h h')

@[simp] theorem formW_d (s : Bool) (maj : BitVec 5) (d : BitVec 6) (i : BitVec 16) (m : BitVec 4) {lo len : Nat} (h : 20 ≤ lo) (h' : lo + len ≤ 26) :
    bits (formW s maj d i m) lo len = (d).extractLsb' (lo - 20) len :=
  (extract_hi (k := 0) _ _ (by omega)).trans <|
    (extract_hi (k := 4) _ _ (by omega)).trans <|
    (extract_lo (k := 20) _ _ h h')

@[simp] theorem formW_d_bit (s : Bool) (maj : BitVec 5) (d : BitVec 6) (i : BitVec 16) (m : BitVec 4) {j : Nat} (h : 20 ≤ j) (h' : j < 26) :
    (formW s maj d i m).getLsbD j = (d).getLsbD (j - 20) :=
  (bit_hi (k := 0) _ _ (by omega)).trans <|
    (bit_hi (k := 4) _ _ (by omega)).trans <|
    (bit_lo (k := 20) _ _ h h')

@[simp] theorem formW_i (s : Bool) (maj : BitVec 5) (d : BitVec 6) (i : BitVec 16) (m : BitVec 4) {lo len : Nat} (h : 4 ≤ lo) (h' : lo + len ≤ 20) :
    bits (formW s maj d i m) lo len = (i).extractLsb' (lo - 4) len :=
  (extract_hi (k := 0) _ _ (by omega)).trans <|
    (extract_lo (k := 4) _ _ h h')

@[simp] theorem formW_i_bit (s : Bool) (maj : BitVec 5) (d : BitVec 6) (i : BitVec 16) (m : BitVec 4) {j : Nat} (h : 4 ≤ j) (h' : j < 20) :
    (formW s maj d i m).getLsbD j = (i).getLsbD (j - 4) :=
  (bit_hi (k := 0) _ _ (by omega)).trans <|
    (bit_lo (k := 4) _ _ h h')

@[simp] theorem formW_m (s : Bool) (maj : BitVec 5) (d : BitVec 6) (i : BitVec 16) (m : BitVec 4) {lo len : Nat} (h : 0 ≤ lo) (h' : lo + len ≤ 4) :
    bits (formW s maj d i m) lo len = (m).extractLsb' (lo - 0) len :=
  (extract_lo (k := 0) _ _ h h')

@[simp] theorem formW_m_bit (s : Bool) (maj : BitVec 5) (d : BitVec 6) (i : BitVec 16) (m : BitVec 4) {j : Nat} (h : 0 ≤ j) (h' : j < 4) :
    (formW s maj d i m).getLsbD j = (m).getLsbD (j - 0) :=
  (bit_lo (k := 0) _ _ h h')

@[simp] theorem formS_s (s : Bool) (maj : BitVec 5) (d : BitVec 6) (r : BitVec 10) (g : Guard) (m : BitVec 4) {lo len : Nat} (h : 31 ≤ lo) :
    bits (formS s maj d r g m) lo len = (BitVec.ofBool s).extractLsb' (lo - 31) len :=
  (extract_hi (k := 0) _ _ (by omega)).trans <|
    (extract_hi (k := 4) _ _ (by omega)).trans <|
    (extract_hi (k := 5) _ _ (by omega)).trans <|
    (extract_hi (k := 8) _ _ (by omega)).trans <|
    (extract_hi (k := 10) _ _ (by omega)).trans <|
    (extract_hi (k := 20) _ _ (by omega)).trans <|
    (extract_hi (k := 26) _ _ (by omega))

@[simp] theorem formS_s_bit (s : Bool) (maj : BitVec 5) (d : BitVec 6) (r : BitVec 10) (g : Guard) (m : BitVec 4) {j : Nat} (h : 31 ≤ j) :
    (formS s maj d r g m).getLsbD j = (BitVec.ofBool s).getLsbD (j - 31) :=
  (bit_hi (k := 0) _ _ (by omega)).trans <|
    (bit_hi (k := 4) _ _ (by omega)).trans <|
    (bit_hi (k := 5) _ _ (by omega)).trans <|
    (bit_hi (k := 8) _ _ (by omega)).trans <|
    (bit_hi (k := 10) _ _ (by omega)).trans <|
    (bit_hi (k := 20) _ _ (by omega)).trans <|
    (bit_hi (k := 26) _ _ (by omega))

@[simp] theorem formS_maj (s : Bool) (maj : BitVec 5) (d : BitVec 6) (r : BitVec 10) (g : Guard) (m : BitVec 4) {lo len : Nat} (h : 26 ≤ lo) (h' : lo + len ≤ 31) :
    bits (formS s maj d r g m) lo len = (maj).extractLsb' (lo - 26) len :=
  (extract_hi (k := 0) _ _ (by omega)).trans <|
    (extract_hi (k := 4) _ _ (by omega)).trans <|
    (extract_hi (k := 5) _ _ (by omega)).trans <|
    (extract_hi (k := 8) _ _ (by omega)).trans <|
    (extract_hi (k := 10) _ _ (by omega)).trans <|
    (extract_hi (k := 20) _ _ (by omega)).trans <|
    (extract_lo (k := 26) _ _ h h')

@[simp] theorem formS_maj_bit (s : Bool) (maj : BitVec 5) (d : BitVec 6) (r : BitVec 10) (g : Guard) (m : BitVec 4) {j : Nat} (h : 26 ≤ j) (h' : j < 31) :
    (formS s maj d r g m).getLsbD j = (maj).getLsbD (j - 26) :=
  (bit_hi (k := 0) _ _ (by omega)).trans <|
    (bit_hi (k := 4) _ _ (by omega)).trans <|
    (bit_hi (k := 5) _ _ (by omega)).trans <|
    (bit_hi (k := 8) _ _ (by omega)).trans <|
    (bit_hi (k := 10) _ _ (by omega)).trans <|
    (bit_hi (k := 20) _ _ (by omega)).trans <|
    (bit_lo (k := 26) _ _ h h')

@[simp] theorem formS_d (s : Bool) (maj : BitVec 5) (d : BitVec 6) (r : BitVec 10) (g : Guard) (m : BitVec 4) {lo len : Nat} (h : 20 ≤ lo) (h' : lo + len ≤ 26) :
    bits (formS s maj d r g m) lo len = (d).extractLsb' (lo - 20) len :=
  (extract_hi (k := 0) _ _ (by omega)).trans <|
    (extract_hi (k := 4) _ _ (by omega)).trans <|
    (extract_hi (k := 5) _ _ (by omega)).trans <|
    (extract_hi (k := 8) _ _ (by omega)).trans <|
    (extract_hi (k := 10) _ _ (by omega)).trans <|
    (extract_lo (k := 20) _ _ h h')

@[simp] theorem formS_d_bit (s : Bool) (maj : BitVec 5) (d : BitVec 6) (r : BitVec 10) (g : Guard) (m : BitVec 4) {j : Nat} (h : 20 ≤ j) (h' : j < 26) :
    (formS s maj d r g m).getLsbD j = (d).getLsbD (j - 20) :=
  (bit_hi (k := 0) _ _ (by omega)).trans <|
    (bit_hi (k := 4) _ _ (by omega)).trans <|
    (bit_hi (k := 5) _ _ (by omega)).trans <|
    (bit_hi (k := 8) _ _ (by omega)).trans <|
    (bit_hi (k := 10) _ _ (by omega)).trans <|
    (bit_lo (k := 20) _ _ h h')

@[simp] theorem formS_r (s : Bool) (maj : BitVec 5) (d : BitVec 6) (r : BitVec 10) (g : Guard) (m : BitVec 4) {lo len : Nat} (h : 10 ≤ lo) (h' : lo + len ≤ 20) :
    bits (formS s maj d r g m) lo len = (r).extractLsb' (lo - 10) len :=
  (extract_hi (k := 0) _ _ (by omega)).trans <|
    (extract_hi (k := 4) _ _ (by omega)).trans <|
    (extract_hi (k := 5) _ _ (by omega)).trans <|
    (extract_hi (k := 8) _ _ (by omega)).trans <|
    (extract_lo (k := 10) _ _ h h')

@[simp] theorem formS_r_bit (s : Bool) (maj : BitVec 5) (d : BitVec 6) (r : BitVec 10) (g : Guard) (m : BitVec 4) {j : Nat} (h : 10 ≤ j) (h' : j < 20) :
    (formS s maj d r g m).getLsbD j = (r).getLsbD (j - 10) :=
  (bit_hi (k := 0) _ _ (by omega)).trans <|
    (bit_hi (k := 4) _ _ (by omega)).trans <|
    (bit_hi (k := 5) _ _ (by omega)).trans <|
    (bit_hi (k := 8) _ _ (by omega)).trans <|
    (bit_lo (k := 10) _ _ h h')

@[simp] theorem formS_z (s : Bool) (maj : BitVec 5) (d : BitVec 6) (r : BitVec 10) (g : Guard) (m : BitVec 4) {lo len : Nat} (h : 8 ≤ lo) (h' : lo + len ≤ 10) :
    bits (formS s maj d r g m) lo len = ((0 : BitVec 2)).extractLsb' (lo - 8) len :=
  (extract_hi (k := 0) _ _ (by omega)).trans <|
    (extract_hi (k := 4) _ _ (by omega)).trans <|
    (extract_hi (k := 5) _ _ (by omega)).trans <|
    (extract_lo (k := 8) _ _ h h')

@[simp] theorem formS_z_bit (s : Bool) (maj : BitVec 5) (d : BitVec 6) (r : BitVec 10) (g : Guard) (m : BitVec 4) {j : Nat} (h : 8 ≤ j) (h' : j < 10) :
    (formS s maj d r g m).getLsbD j = ((0 : BitVec 2)).getLsbD (j - 8) :=
  (bit_hi (k := 0) _ _ (by omega)).trans <|
    (bit_hi (k := 4) _ _ (by omega)).trans <|
    (bit_hi (k := 5) _ _ (by omega)).trans <|
    (bit_lo (k := 8) _ _ h h')

@[simp] theorem formS_p (s : Bool) (maj : BitVec 5) (d : BitVec 6) (r : BitVec 10) (g : Guard) (m : BitVec 4) {lo len : Nat} (h : 5 ≤ lo) (h' : lo + len ≤ 8) :
    bits (formS s maj d r g m) lo len = (g.p).extractLsb' (lo - 5) len :=
  (extract_hi (k := 0) _ _ (by omega)).trans <|
    (extract_hi (k := 4) _ _ (by omega)).trans <|
    (extract_lo (k := 5) _ _ h h')

@[simp] theorem formS_p_bit (s : Bool) (maj : BitVec 5) (d : BitVec 6) (r : BitVec 10) (g : Guard) (m : BitVec 4) {j : Nat} (h : 5 ≤ j) (h' : j < 8) :
    (formS s maj d r g m).getLsbD j = (g.p).getLsbD (j - 5) :=
  (bit_hi (k := 0) _ _ (by omega)).trans <|
    (bit_hi (k := 4) _ _ (by omega)).trans <|
    (bit_lo (k := 5) _ _ h h')

@[simp] theorem formS_n (s : Bool) (maj : BitVec 5) (d : BitVec 6) (r : BitVec 10) (g : Guard) (m : BitVec 4) {lo len : Nat} (h : 4 ≤ lo) (h' : lo + len ≤ 5) :
    bits (formS s maj d r g m) lo len = (BitVec.ofBool g.neg).extractLsb' (lo - 4) len :=
  (extract_hi (k := 0) _ _ (by omega)).trans <|
    (extract_lo (k := 4) _ _ h h')

@[simp] theorem formS_n_bit (s : Bool) (maj : BitVec 5) (d : BitVec 6) (r : BitVec 10) (g : Guard) (m : BitVec 4) {j : Nat} (h : 4 ≤ j) (h' : j < 5) :
    (formS s maj d r g m).getLsbD j = (BitVec.ofBool g.neg).getLsbD (j - 4) :=
  (bit_hi (k := 0) _ _ (by omega)).trans <|
    (bit_lo (k := 4) _ _ h h')

@[simp] theorem formS_m (s : Bool) (maj : BitVec 5) (d : BitVec 6) (r : BitVec 10) (g : Guard) (m : BitVec 4) {lo len : Nat} (h : 0 ≤ lo) (h' : lo + len ≤ 4) :
    bits (formS s maj d r g m) lo len = (m).extractLsb' (lo - 0) len :=
  (extract_lo (k := 0) _ _ h h')

@[simp] theorem formS_m_bit (s : Bool) (maj : BitVec 5) (d : BitVec 6) (r : BitVec 10) (g : Guard) (m : BitVec 4) {j : Nat} (h : 0 ≤ j) (h' : j < 4) :
    (formS s maj d r g m).getLsbD j = (m).getLsbD (j - 0) :=
  (bit_lo (k := 0) _ _ h h')

@[simp] theorem formP_s (s : Bool) (maj : BitVec 5) (arg : BitVec 22) (m : BitVec 4) {lo len : Nat} (h : 31 ≤ lo) :
    bits (formP s maj arg m) lo len = (BitVec.ofBool s).extractLsb' (lo - 31) len :=
  (extract_hi (k := 0) _ _ (by omega)).trans <|
    (extract_hi (k := 4) _ _ (by omega)).trans <|
    (extract_hi (k := 26) _ _ (by omega))

@[simp] theorem formP_s_bit (s : Bool) (maj : BitVec 5) (arg : BitVec 22) (m : BitVec 4) {j : Nat} (h : 31 ≤ j) :
    (formP s maj arg m).getLsbD j = (BitVec.ofBool s).getLsbD (j - 31) :=
  (bit_hi (k := 0) _ _ (by omega)).trans <|
    (bit_hi (k := 4) _ _ (by omega)).trans <|
    (bit_hi (k := 26) _ _ (by omega))

@[simp] theorem formP_maj (s : Bool) (maj : BitVec 5) (arg : BitVec 22) (m : BitVec 4) {lo len : Nat} (h : 26 ≤ lo) (h' : lo + len ≤ 31) :
    bits (formP s maj arg m) lo len = (maj).extractLsb' (lo - 26) len :=
  (extract_hi (k := 0) _ _ (by omega)).trans <|
    (extract_hi (k := 4) _ _ (by omega)).trans <|
    (extract_lo (k := 26) _ _ h h')

@[simp] theorem formP_maj_bit (s : Bool) (maj : BitVec 5) (arg : BitVec 22) (m : BitVec 4) {j : Nat} (h : 26 ≤ j) (h' : j < 31) :
    (formP s maj arg m).getLsbD j = (maj).getLsbD (j - 26) :=
  (bit_hi (k := 0) _ _ (by omega)).trans <|
    (bit_hi (k := 4) _ _ (by omega)).trans <|
    (bit_lo (k := 26) _ _ h h')

@[simp] theorem formP_arg (s : Bool) (maj : BitVec 5) (arg : BitVec 22) (m : BitVec 4) {lo len : Nat} (h : 4 ≤ lo) (h' : lo + len ≤ 26) :
    bits (formP s maj arg m) lo len = (arg).extractLsb' (lo - 4) len :=
  (extract_hi (k := 0) _ _ (by omega)).trans <|
    (extract_lo (k := 4) _ _ h h')

@[simp] theorem formP_arg_bit (s : Bool) (maj : BitVec 5) (arg : BitVec 22) (m : BitVec 4) {j : Nat} (h : 4 ≤ j) (h' : j < 26) :
    (formP s maj arg m).getLsbD j = (arg).getLsbD (j - 4) :=
  (bit_hi (k := 0) _ _ (by omega)).trans <|
    (bit_lo (k := 4) _ _ h h')

@[simp] theorem formP_m (s : Bool) (maj : BitVec 5) (arg : BitVec 22) (m : BitVec 4) {lo len : Nat} (h : 0 ≤ lo) (h' : lo + len ≤ 4) :
    bits (formP s maj arg m) lo len = (m).extractLsb' (lo - 0) len :=
  (extract_lo (k := 0) _ _ h h')

@[simp] theorem formP_m_bit (s : Bool) (maj : BitVec 5) (arg : BitVec 22) (m : BitVec 4) {j : Nat} (h : 0 ≤ j) (h' : j < 4) :
    (formP s maj arg m).getLsbD j = (m).getLsbD (j - 0) :=
  (bit_lo (k := 0) _ _ h h')

@[simp] theorem formD_s (s : Bool) (maj : BitVec 5) (d : BitVec 6) (x : MemOpnd) (w : BitVec 3) (m5 : BitVec 5) {lo len : Nat} (h : 31 ≤ lo) :
    bits (formD s maj d x w m5) lo len = (BitVec.ofBool s).extractLsb' (lo - 31) len :=
  (extract_hi (k := 0) _ _ (by omega)).trans <|
    (extract_hi (k := 5) _ _ (by omega)).trans <|
    (extract_hi (k := 8) _ _ (by omega)).trans <|
    (extract_hi (k := 14) _ _ (by omega)).trans <|
    (extract_hi (k := 16) _ _ (by omega)).trans <|
    (extract_hi (k := 20) _ _ (by omega)).trans <|
    (extract_hi (k := 26) _ _ (by omega))

@[simp] theorem formD_s_bit (s : Bool) (maj : BitVec 5) (d : BitVec 6) (x : MemOpnd) (w : BitVec 3) (m5 : BitVec 5) {j : Nat} (h : 31 ≤ j) :
    (formD s maj d x w m5).getLsbD j = (BitVec.ofBool s).getLsbD (j - 31) :=
  (bit_hi (k := 0) _ _ (by omega)).trans <|
    (bit_hi (k := 5) _ _ (by omega)).trans <|
    (bit_hi (k := 8) _ _ (by omega)).trans <|
    (bit_hi (k := 14) _ _ (by omega)).trans <|
    (bit_hi (k := 16) _ _ (by omega)).trans <|
    (bit_hi (k := 20) _ _ (by omega)).trans <|
    (bit_hi (k := 26) _ _ (by omega))

@[simp] theorem formD_maj (s : Bool) (maj : BitVec 5) (d : BitVec 6) (x : MemOpnd) (w : BitVec 3) (m5 : BitVec 5) {lo len : Nat} (h : 26 ≤ lo) (h' : lo + len ≤ 31) :
    bits (formD s maj d x w m5) lo len = (maj).extractLsb' (lo - 26) len :=
  (extract_hi (k := 0) _ _ (by omega)).trans <|
    (extract_hi (k := 5) _ _ (by omega)).trans <|
    (extract_hi (k := 8) _ _ (by omega)).trans <|
    (extract_hi (k := 14) _ _ (by omega)).trans <|
    (extract_hi (k := 16) _ _ (by omega)).trans <|
    (extract_hi (k := 20) _ _ (by omega)).trans <|
    (extract_lo (k := 26) _ _ h h')

@[simp] theorem formD_maj_bit (s : Bool) (maj : BitVec 5) (d : BitVec 6) (x : MemOpnd) (w : BitVec 3) (m5 : BitVec 5) {j : Nat} (h : 26 ≤ j) (h' : j < 31) :
    (formD s maj d x w m5).getLsbD j = (maj).getLsbD (j - 26) :=
  (bit_hi (k := 0) _ _ (by omega)).trans <|
    (bit_hi (k := 5) _ _ (by omega)).trans <|
    (bit_hi (k := 8) _ _ (by omega)).trans <|
    (bit_hi (k := 14) _ _ (by omega)).trans <|
    (bit_hi (k := 16) _ _ (by omega)).trans <|
    (bit_hi (k := 20) _ _ (by omega)).trans <|
    (bit_lo (k := 26) _ _ h h')

@[simp] theorem formD_d (s : Bool) (maj : BitVec 5) (d : BitVec 6) (x : MemOpnd) (w : BitVec 3) (m5 : BitVec 5) {lo len : Nat} (h : 20 ≤ lo) (h' : lo + len ≤ 26) :
    bits (formD s maj d x w m5) lo len = (d).extractLsb' (lo - 20) len :=
  (extract_hi (k := 0) _ _ (by omega)).trans <|
    (extract_hi (k := 5) _ _ (by omega)).trans <|
    (extract_hi (k := 8) _ _ (by omega)).trans <|
    (extract_hi (k := 14) _ _ (by omega)).trans <|
    (extract_hi (k := 16) _ _ (by omega)).trans <|
    (extract_lo (k := 20) _ _ h h')

@[simp] theorem formD_d_bit (s : Bool) (maj : BitVec 5) (d : BitVec 6) (x : MemOpnd) (w : BitVec 3) (m5 : BitVec 5) {j : Nat} (h : 20 ≤ j) (h' : j < 26) :
    (formD s maj d x w m5).getLsbD j = (d).getLsbD (j - 20) :=
  (bit_hi (k := 0) _ _ (by omega)).trans <|
    (bit_hi (k := 5) _ _ (by omega)).trans <|
    (bit_hi (k := 8) _ _ (by omega)).trans <|
    (bit_hi (k := 14) _ _ (by omega)).trans <|
    (bit_hi (k := 16) _ _ (by omega)).trans <|
    (bit_lo (k := 20) _ _ h h')

@[simp] theorem formD_base (s : Bool) (maj : BitVec 5) (d : BitVec 6) (x : MemOpnd) (w : BitVec 3) (m5 : BitVec 5) {lo len : Nat} (h : 16 ≤ lo) (h' : lo + len ≤ 20) :
    bits (formD s maj d x w m5) lo len = (x.base).extractLsb' (lo - 16) len :=
  (extract_hi (k := 0) _ _ (by omega)).trans <|
    (extract_hi (k := 5) _ _ (by omega)).trans <|
    (extract_hi (k := 8) _ _ (by omega)).trans <|
    (extract_hi (k := 14) _ _ (by omega)).trans <|
    (extract_lo (k := 16) _ _ h h')

@[simp] theorem formD_base_bit (s : Bool) (maj : BitVec 5) (d : BitVec 6) (x : MemOpnd) (w : BitVec 3) (m5 : BitVec 5) {j : Nat} (h : 16 ≤ j) (h' : j < 20) :
    (formD s maj d x w m5).getLsbD j = (x.base).getLsbD (j - 16) :=
  (bit_hi (k := 0) _ _ (by omega)).trans <|
    (bit_hi (k := 5) _ _ (by omega)).trans <|
    (bit_hi (k := 8) _ _ (by omega)).trans <|
    (bit_hi (k := 14) _ _ (by omega)).trans <|
    (bit_lo (k := 16) _ _ h h')

@[simp] theorem formD_mode (s : Bool) (maj : BitVec 5) (d : BitVec 6) (x : MemOpnd) (w : BitVec 3) (m5 : BitVec 5) {lo len : Nat} (h : 14 ≤ lo) (h' : lo + len ≤ 16) :
    bits (formD s maj d x w m5) lo len = (x.mode.code).extractLsb' (lo - 14) len :=
  (extract_hi (k := 0) _ _ (by omega)).trans <|
    (extract_hi (k := 5) _ _ (by omega)).trans <|
    (extract_hi (k := 8) _ _ (by omega)).trans <|
    (extract_lo (k := 14) _ _ h h')

@[simp] theorem formD_mode_bit (s : Bool) (maj : BitVec 5) (d : BitVec 6) (x : MemOpnd) (w : BitVec 3) (m5 : BitVec 5) {j : Nat} (h : 14 ≤ j) (h' : j < 16) :
    (formD s maj d x w m5).getLsbD j = (x.mode.code).getLsbD (j - 14) :=
  (bit_hi (k := 0) _ _ (by omega)).trans <|
    (bit_hi (k := 5) _ _ (by omega)).trans <|
    (bit_hi (k := 8) _ _ (by omega)).trans <|
    (bit_lo (k := 14) _ _ h h')

@[simp] theorem formD_field (s : Bool) (maj : BitVec 5) (d : BitVec 6) (x : MemOpnd) (w : BitVec 3) (m5 : BitVec 5) {lo len : Nat} (h : 8 ≤ lo) (h' : lo + len ≤ 14) :
    bits (formD s maj d x w m5) lo len = (x.field).extractLsb' (lo - 8) len :=
  (extract_hi (k := 0) _ _ (by omega)).trans <|
    (extract_hi (k := 5) _ _ (by omega)).trans <|
    (extract_lo (k := 8) _ _ h h')

@[simp] theorem formD_field_bit (s : Bool) (maj : BitVec 5) (d : BitVec 6) (x : MemOpnd) (w : BitVec 3) (m5 : BitVec 5) {j : Nat} (h : 8 ≤ j) (h' : j < 14) :
    (formD s maj d x w m5).getLsbD j = (x.field).getLsbD (j - 8) :=
  (bit_hi (k := 0) _ _ (by omega)).trans <|
    (bit_hi (k := 5) _ _ (by omega)).trans <|
    (bit_lo (k := 8) _ _ h h')

@[simp] theorem formD_w (s : Bool) (maj : BitVec 5) (d : BitVec 6) (x : MemOpnd) (w : BitVec 3) (m5 : BitVec 5) {lo len : Nat} (h : 5 ≤ lo) (h' : lo + len ≤ 8) :
    bits (formD s maj d x w m5) lo len = (w).extractLsb' (lo - 5) len :=
  (extract_hi (k := 0) _ _ (by omega)).trans <|
    (extract_lo (k := 5) _ _ h h')

@[simp] theorem formD_w_bit (s : Bool) (maj : BitVec 5) (d : BitVec 6) (x : MemOpnd) (w : BitVec 3) (m5 : BitVec 5) {j : Nat} (h : 5 ≤ j) (h' : j < 8) :
    (formD s maj d x w m5).getLsbD j = (w).getLsbD (j - 5) :=
  (bit_hi (k := 0) _ _ (by omega)).trans <|
    (bit_lo (k := 5) _ _ h h')

@[simp] theorem formD_m5 (s : Bool) (maj : BitVec 5) (d : BitVec 6) (x : MemOpnd) (w : BitVec 3) (m5 : BitVec 5) {lo len : Nat} (h : 0 ≤ lo) (h' : lo + len ≤ 5) :
    bits (formD s maj d x w m5) lo len = (m5).extractLsb' (lo - 0) len :=
  (extract_lo (k := 0) _ _ h h')

@[simp] theorem formD_m5_bit (s : Bool) (maj : BitVec 5) (d : BitVec 6) (x : MemOpnd) (w : BitVec 3) (m5 : BitVec 5) {j : Nat} (h : 0 ≤ j) (h' : j < 5) :
    (formD s maj d x w m5).getLsbD j = (m5).getLsbD (j - 0) :=
  (bit_lo (k := 0) _ _ h h')

@[simp] theorem formM_s (s : Bool) (maj : BitVec 5) (d : BitVec 6) (b : BitVec 4) (x : BitVec 6) (o : BitVec 4) (w : BitVec 3) (op : BitVec 3) {lo len : Nat} (h : 31 ≤ lo) :
    bits (formM s maj d b x o w op) lo len = (BitVec.ofBool s).extractLsb' (lo - 31) len :=
  (extract_hi (k := 0) _ _ (by omega)).trans <|
    (extract_hi (k := 3) _ _ (by omega)).trans <|
    (extract_hi (k := 6) _ _ (by omega)).trans <|
    (extract_hi (k := 10) _ _ (by omega)).trans <|
    (extract_hi (k := 16) _ _ (by omega)).trans <|
    (extract_hi (k := 20) _ _ (by omega)).trans <|
    (extract_hi (k := 26) _ _ (by omega))

@[simp] theorem formM_s_bit (s : Bool) (maj : BitVec 5) (d : BitVec 6) (b : BitVec 4) (x : BitVec 6) (o : BitVec 4) (w : BitVec 3) (op : BitVec 3) {j : Nat} (h : 31 ≤ j) :
    (formM s maj d b x o w op).getLsbD j = (BitVec.ofBool s).getLsbD (j - 31) :=
  (bit_hi (k := 0) _ _ (by omega)).trans <|
    (bit_hi (k := 3) _ _ (by omega)).trans <|
    (bit_hi (k := 6) _ _ (by omega)).trans <|
    (bit_hi (k := 10) _ _ (by omega)).trans <|
    (bit_hi (k := 16) _ _ (by omega)).trans <|
    (bit_hi (k := 20) _ _ (by omega)).trans <|
    (bit_hi (k := 26) _ _ (by omega))

@[simp] theorem formM_maj (s : Bool) (maj : BitVec 5) (d : BitVec 6) (b : BitVec 4) (x : BitVec 6) (o : BitVec 4) (w : BitVec 3) (op : BitVec 3) {lo len : Nat} (h : 26 ≤ lo) (h' : lo + len ≤ 31) :
    bits (formM s maj d b x o w op) lo len = (maj).extractLsb' (lo - 26) len :=
  (extract_hi (k := 0) _ _ (by omega)).trans <|
    (extract_hi (k := 3) _ _ (by omega)).trans <|
    (extract_hi (k := 6) _ _ (by omega)).trans <|
    (extract_hi (k := 10) _ _ (by omega)).trans <|
    (extract_hi (k := 16) _ _ (by omega)).trans <|
    (extract_hi (k := 20) _ _ (by omega)).trans <|
    (extract_lo (k := 26) _ _ h h')

@[simp] theorem formM_maj_bit (s : Bool) (maj : BitVec 5) (d : BitVec 6) (b : BitVec 4) (x : BitVec 6) (o : BitVec 4) (w : BitVec 3) (op : BitVec 3) {j : Nat} (h : 26 ≤ j) (h' : j < 31) :
    (formM s maj d b x o w op).getLsbD j = (maj).getLsbD (j - 26) :=
  (bit_hi (k := 0) _ _ (by omega)).trans <|
    (bit_hi (k := 3) _ _ (by omega)).trans <|
    (bit_hi (k := 6) _ _ (by omega)).trans <|
    (bit_hi (k := 10) _ _ (by omega)).trans <|
    (bit_hi (k := 16) _ _ (by omega)).trans <|
    (bit_hi (k := 20) _ _ (by omega)).trans <|
    (bit_lo (k := 26) _ _ h h')

@[simp] theorem formM_d (s : Bool) (maj : BitVec 5) (d : BitVec 6) (b : BitVec 4) (x : BitVec 6) (o : BitVec 4) (w : BitVec 3) (op : BitVec 3) {lo len : Nat} (h : 20 ≤ lo) (h' : lo + len ≤ 26) :
    bits (formM s maj d b x o w op) lo len = (d).extractLsb' (lo - 20) len :=
  (extract_hi (k := 0) _ _ (by omega)).trans <|
    (extract_hi (k := 3) _ _ (by omega)).trans <|
    (extract_hi (k := 6) _ _ (by omega)).trans <|
    (extract_hi (k := 10) _ _ (by omega)).trans <|
    (extract_hi (k := 16) _ _ (by omega)).trans <|
    (extract_lo (k := 20) _ _ h h')

@[simp] theorem formM_d_bit (s : Bool) (maj : BitVec 5) (d : BitVec 6) (b : BitVec 4) (x : BitVec 6) (o : BitVec 4) (w : BitVec 3) (op : BitVec 3) {j : Nat} (h : 20 ≤ j) (h' : j < 26) :
    (formM s maj d b x o w op).getLsbD j = (d).getLsbD (j - 20) :=
  (bit_hi (k := 0) _ _ (by omega)).trans <|
    (bit_hi (k := 3) _ _ (by omega)).trans <|
    (bit_hi (k := 6) _ _ (by omega)).trans <|
    (bit_hi (k := 10) _ _ (by omega)).trans <|
    (bit_hi (k := 16) _ _ (by omega)).trans <|
    (bit_lo (k := 20) _ _ h h')

@[simp] theorem formM_b (s : Bool) (maj : BitVec 5) (d : BitVec 6) (b : BitVec 4) (x : BitVec 6) (o : BitVec 4) (w : BitVec 3) (op : BitVec 3) {lo len : Nat} (h : 16 ≤ lo) (h' : lo + len ≤ 20) :
    bits (formM s maj d b x o w op) lo len = (b).extractLsb' (lo - 16) len :=
  (extract_hi (k := 0) _ _ (by omega)).trans <|
    (extract_hi (k := 3) _ _ (by omega)).trans <|
    (extract_hi (k := 6) _ _ (by omega)).trans <|
    (extract_hi (k := 10) _ _ (by omega)).trans <|
    (extract_lo (k := 16) _ _ h h')

@[simp] theorem formM_b_bit (s : Bool) (maj : BitVec 5) (d : BitVec 6) (b : BitVec 4) (x : BitVec 6) (o : BitVec 4) (w : BitVec 3) (op : BitVec 3) {j : Nat} (h : 16 ≤ j) (h' : j < 20) :
    (formM s maj d b x o w op).getLsbD j = (b).getLsbD (j - 16) :=
  (bit_hi (k := 0) _ _ (by omega)).trans <|
    (bit_hi (k := 3) _ _ (by omega)).trans <|
    (bit_hi (k := 6) _ _ (by omega)).trans <|
    (bit_hi (k := 10) _ _ (by omega)).trans <|
    (bit_lo (k := 16) _ _ h h')

@[simp] theorem formM_x (s : Bool) (maj : BitVec 5) (d : BitVec 6) (b : BitVec 4) (x : BitVec 6) (o : BitVec 4) (w : BitVec 3) (op : BitVec 3) {lo len : Nat} (h : 10 ≤ lo) (h' : lo + len ≤ 16) :
    bits (formM s maj d b x o w op) lo len = (x).extractLsb' (lo - 10) len :=
  (extract_hi (k := 0) _ _ (by omega)).trans <|
    (extract_hi (k := 3) _ _ (by omega)).trans <|
    (extract_hi (k := 6) _ _ (by omega)).trans <|
    (extract_lo (k := 10) _ _ h h')

@[simp] theorem formM_x_bit (s : Bool) (maj : BitVec 5) (d : BitVec 6) (b : BitVec 4) (x : BitVec 6) (o : BitVec 4) (w : BitVec 3) (op : BitVec 3) {j : Nat} (h : 10 ≤ j) (h' : j < 16) :
    (formM s maj d b x o w op).getLsbD j = (x).getLsbD (j - 10) :=
  (bit_hi (k := 0) _ _ (by omega)).trans <|
    (bit_hi (k := 3) _ _ (by omega)).trans <|
    (bit_hi (k := 6) _ _ (by omega)).trans <|
    (bit_lo (k := 10) _ _ h h')

@[simp] theorem formM_o (s : Bool) (maj : BitVec 5) (d : BitVec 6) (b : BitVec 4) (x : BitVec 6) (o : BitVec 4) (w : BitVec 3) (op : BitVec 3) {lo len : Nat} (h : 6 ≤ lo) (h' : lo + len ≤ 10) :
    bits (formM s maj d b x o w op) lo len = (o).extractLsb' (lo - 6) len :=
  (extract_hi (k := 0) _ _ (by omega)).trans <|
    (extract_hi (k := 3) _ _ (by omega)).trans <|
    (extract_lo (k := 6) _ _ h h')

@[simp] theorem formM_o_bit (s : Bool) (maj : BitVec 5) (d : BitVec 6) (b : BitVec 4) (x : BitVec 6) (o : BitVec 4) (w : BitVec 3) (op : BitVec 3) {j : Nat} (h : 6 ≤ j) (h' : j < 10) :
    (formM s maj d b x o w op).getLsbD j = (o).getLsbD (j - 6) :=
  (bit_hi (k := 0) _ _ (by omega)).trans <|
    (bit_hi (k := 3) _ _ (by omega)).trans <|
    (bit_lo (k := 6) _ _ h h')

@[simp] theorem formM_w (s : Bool) (maj : BitVec 5) (d : BitVec 6) (b : BitVec 4) (x : BitVec 6) (o : BitVec 4) (w : BitVec 3) (op : BitVec 3) {lo len : Nat} (h : 3 ≤ lo) (h' : lo + len ≤ 6) :
    bits (formM s maj d b x o w op) lo len = (w).extractLsb' (lo - 3) len :=
  (extract_hi (k := 0) _ _ (by omega)).trans <|
    (extract_lo (k := 3) _ _ h h')

@[simp] theorem formM_w_bit (s : Bool) (maj : BitVec 5) (d : BitVec 6) (b : BitVec 4) (x : BitVec 6) (o : BitVec 4) (w : BitVec 3) (op : BitVec 3) {j : Nat} (h : 3 ≤ j) (h' : j < 6) :
    (formM s maj d b x o w op).getLsbD j = (w).getLsbD (j - 3) :=
  (bit_hi (k := 0) _ _ (by omega)).trans <|
    (bit_lo (k := 3) _ _ h h')

@[simp] theorem formM_op (s : Bool) (maj : BitVec 5) (d : BitVec 6) (b : BitVec 4) (x : BitVec 6) (o : BitVec 4) (w : BitVec 3) (op : BitVec 3) {lo len : Nat} (h : 0 ≤ lo) (h' : lo + len ≤ 3) :
    bits (formM s maj d b x o w op) lo len = (op).extractLsb' (lo - 0) len :=
  (extract_lo (k := 0) _ _ h h')

@[simp] theorem formM_op_bit (s : Bool) (maj : BitVec 5) (d : BitVec 6) (b : BitVec 4) (x : BitVec 6) (o : BitVec 4) (w : BitVec 3) (op : BitVec 3) {j : Nat} (h : 0 ≤ j) (h' : j < 3) :
    (formM s maj d b x o w op).getLsbD j = (op).getLsbD (j - 0) :=
  (bit_lo (k := 0) _ _ h h')

@[simp] theorem formE_s (s : Bool) (maj : BitVec 5) (op : BitVec 2) (g : Guard) (l : BitVec 16) (y : BitVec 4) {lo len : Nat} (h : 31 ≤ lo) :
    bits (formE s maj op g l y) lo len = (BitVec.ofBool s).extractLsb' (lo - 31) len :=
  (extract_hi (k := 0) _ _ (by omega)).trans <|
    (extract_hi (k := 4) _ _ (by omega)).trans <|
    (extract_hi (k := 20) _ _ (by omega)).trans <|
    (extract_hi (k := 21) _ _ (by omega)).trans <|
    (extract_hi (k := 24) _ _ (by omega)).trans <|
    (extract_hi (k := 26) _ _ (by omega))

@[simp] theorem formE_s_bit (s : Bool) (maj : BitVec 5) (op : BitVec 2) (g : Guard) (l : BitVec 16) (y : BitVec 4) {j : Nat} (h : 31 ≤ j) :
    (formE s maj op g l y).getLsbD j = (BitVec.ofBool s).getLsbD (j - 31) :=
  (bit_hi (k := 0) _ _ (by omega)).trans <|
    (bit_hi (k := 4) _ _ (by omega)).trans <|
    (bit_hi (k := 20) _ _ (by omega)).trans <|
    (bit_hi (k := 21) _ _ (by omega)).trans <|
    (bit_hi (k := 24) _ _ (by omega)).trans <|
    (bit_hi (k := 26) _ _ (by omega))

@[simp] theorem formE_maj (s : Bool) (maj : BitVec 5) (op : BitVec 2) (g : Guard) (l : BitVec 16) (y : BitVec 4) {lo len : Nat} (h : 26 ≤ lo) (h' : lo + len ≤ 31) :
    bits (formE s maj op g l y) lo len = (maj).extractLsb' (lo - 26) len :=
  (extract_hi (k := 0) _ _ (by omega)).trans <|
    (extract_hi (k := 4) _ _ (by omega)).trans <|
    (extract_hi (k := 20) _ _ (by omega)).trans <|
    (extract_hi (k := 21) _ _ (by omega)).trans <|
    (extract_hi (k := 24) _ _ (by omega)).trans <|
    (extract_lo (k := 26) _ _ h h')

@[simp] theorem formE_maj_bit (s : Bool) (maj : BitVec 5) (op : BitVec 2) (g : Guard) (l : BitVec 16) (y : BitVec 4) {j : Nat} (h : 26 ≤ j) (h' : j < 31) :
    (formE s maj op g l y).getLsbD j = (maj).getLsbD (j - 26) :=
  (bit_hi (k := 0) _ _ (by omega)).trans <|
    (bit_hi (k := 4) _ _ (by omega)).trans <|
    (bit_hi (k := 20) _ _ (by omega)).trans <|
    (bit_hi (k := 21) _ _ (by omega)).trans <|
    (bit_hi (k := 24) _ _ (by omega)).trans <|
    (bit_lo (k := 26) _ _ h h')

@[simp] theorem formE_op (s : Bool) (maj : BitVec 5) (op : BitVec 2) (g : Guard) (l : BitVec 16) (y : BitVec 4) {lo len : Nat} (h : 24 ≤ lo) (h' : lo + len ≤ 26) :
    bits (formE s maj op g l y) lo len = (op).extractLsb' (lo - 24) len :=
  (extract_hi (k := 0) _ _ (by omega)).trans <|
    (extract_hi (k := 4) _ _ (by omega)).trans <|
    (extract_hi (k := 20) _ _ (by omega)).trans <|
    (extract_hi (k := 21) _ _ (by omega)).trans <|
    (extract_lo (k := 24) _ _ h h')

@[simp] theorem formE_op_bit (s : Bool) (maj : BitVec 5) (op : BitVec 2) (g : Guard) (l : BitVec 16) (y : BitVec 4) {j : Nat} (h : 24 ≤ j) (h' : j < 26) :
    (formE s maj op g l y).getLsbD j = (op).getLsbD (j - 24) :=
  (bit_hi (k := 0) _ _ (by omega)).trans <|
    (bit_hi (k := 4) _ _ (by omega)).trans <|
    (bit_hi (k := 20) _ _ (by omega)).trans <|
    (bit_hi (k := 21) _ _ (by omega)).trans <|
    (bit_lo (k := 24) _ _ h h')

@[simp] theorem formE_p (s : Bool) (maj : BitVec 5) (op : BitVec 2) (g : Guard) (l : BitVec 16) (y : BitVec 4) {lo len : Nat} (h : 21 ≤ lo) (h' : lo + len ≤ 24) :
    bits (formE s maj op g l y) lo len = (g.p).extractLsb' (lo - 21) len :=
  (extract_hi (k := 0) _ _ (by omega)).trans <|
    (extract_hi (k := 4) _ _ (by omega)).trans <|
    (extract_hi (k := 20) _ _ (by omega)).trans <|
    (extract_lo (k := 21) _ _ h h')

@[simp] theorem formE_p_bit (s : Bool) (maj : BitVec 5) (op : BitVec 2) (g : Guard) (l : BitVec 16) (y : BitVec 4) {j : Nat} (h : 21 ≤ j) (h' : j < 24) :
    (formE s maj op g l y).getLsbD j = (g.p).getLsbD (j - 21) :=
  (bit_hi (k := 0) _ _ (by omega)).trans <|
    (bit_hi (k := 4) _ _ (by omega)).trans <|
    (bit_hi (k := 20) _ _ (by omega)).trans <|
    (bit_lo (k := 21) _ _ h h')

@[simp] theorem formE_n (s : Bool) (maj : BitVec 5) (op : BitVec 2) (g : Guard) (l : BitVec 16) (y : BitVec 4) {lo len : Nat} (h : 20 ≤ lo) (h' : lo + len ≤ 21) :
    bits (formE s maj op g l y) lo len = (BitVec.ofBool g.neg).extractLsb' (lo - 20) len :=
  (extract_hi (k := 0) _ _ (by omega)).trans <|
    (extract_hi (k := 4) _ _ (by omega)).trans <|
    (extract_lo (k := 20) _ _ h h')

@[simp] theorem formE_n_bit (s : Bool) (maj : BitVec 5) (op : BitVec 2) (g : Guard) (l : BitVec 16) (y : BitVec 4) {j : Nat} (h : 20 ≤ j) (h' : j < 21) :
    (formE s maj op g l y).getLsbD j = (BitVec.ofBool g.neg).getLsbD (j - 20) :=
  (bit_hi (k := 0) _ _ (by omega)).trans <|
    (bit_hi (k := 4) _ _ (by omega)).trans <|
    (bit_lo (k := 20) _ _ h h')

@[simp] theorem formE_l (s : Bool) (maj : BitVec 5) (op : BitVec 2) (g : Guard) (l : BitVec 16) (y : BitVec 4) {lo len : Nat} (h : 4 ≤ lo) (h' : lo + len ≤ 20) :
    bits (formE s maj op g l y) lo len = (l).extractLsb' (lo - 4) len :=
  (extract_hi (k := 0) _ _ (by omega)).trans <|
    (extract_lo (k := 4) _ _ h h')

@[simp] theorem formE_l_bit (s : Bool) (maj : BitVec 5) (op : BitVec 2) (g : Guard) (l : BitVec 16) (y : BitVec 4) {j : Nat} (h : 4 ≤ j) (h' : j < 20) :
    (formE s maj op g l y).getLsbD j = (l).getLsbD (j - 4) :=
  (bit_hi (k := 0) _ _ (by omega)).trans <|
    (bit_lo (k := 4) _ _ h h')

@[simp] theorem formE_y (s : Bool) (maj : BitVec 5) (op : BitVec 2) (g : Guard) (l : BitVec 16) (y : BitVec 4) {lo len : Nat} (h : 0 ≤ lo) (h' : lo + len ≤ 4) :
    bits (formE s maj op g l y) lo len = (y).extractLsb' (lo - 0) len :=
  (extract_lo (k := 0) _ _ h h')

@[simp] theorem formE_y_bit (s : Bool) (maj : BitVec 5) (op : BitVec 2) (g : Guard) (l : BitVec 16) (y : BitVec 4) {j : Nat} (h : 0 ≤ j) (h' : j < 4) :
    (formE s maj op g l y).getLsbD j = (y).getLsbD (j - 0) :=
  (bit_lo (k := 0) _ _ h h')

@[simp] theorem formF_s (s : Bool) (maj : BitVec 5) (lvl : BitVec 2) (k : Bool) (n : BitVec 9) (el es : BitVec 4) {lo len : Nat} (h : 31 ≤ lo) :
    bits (formF s maj lvl k n el es) lo len = (BitVec.ofBool s).extractLsb' (lo - 31) len :=
  (extract_hi (k := 0) _ _ (by omega)).trans <|
    (extract_hi (k := 6) _ _ (by omega)).trans <|
    (extract_hi (k := 10) _ _ (by omega)).trans <|
    (extract_hi (k := 14) _ _ (by omega)).trans <|
    (extract_hi (k := 23) _ _ (by omega)).trans <|
    (extract_hi (k := 24) _ _ (by omega)).trans <|
    (extract_hi (k := 26) _ _ (by omega))

@[simp] theorem formF_s_bit (s : Bool) (maj : BitVec 5) (lvl : BitVec 2) (k : Bool) (n : BitVec 9) (el es : BitVec 4) {j : Nat} (h : 31 ≤ j) :
    (formF s maj lvl k n el es).getLsbD j = (BitVec.ofBool s).getLsbD (j - 31) :=
  (bit_hi (k := 0) _ _ (by omega)).trans <|
    (bit_hi (k := 6) _ _ (by omega)).trans <|
    (bit_hi (k := 10) _ _ (by omega)).trans <|
    (bit_hi (k := 14) _ _ (by omega)).trans <|
    (bit_hi (k := 23) _ _ (by omega)).trans <|
    (bit_hi (k := 24) _ _ (by omega)).trans <|
    (bit_hi (k := 26) _ _ (by omega))

@[simp] theorem formF_maj (s : Bool) (maj : BitVec 5) (lvl : BitVec 2) (k : Bool) (n : BitVec 9) (el es : BitVec 4) {lo len : Nat} (h : 26 ≤ lo) (h' : lo + len ≤ 31) :
    bits (formF s maj lvl k n el es) lo len = (maj).extractLsb' (lo - 26) len :=
  (extract_hi (k := 0) _ _ (by omega)).trans <|
    (extract_hi (k := 6) _ _ (by omega)).trans <|
    (extract_hi (k := 10) _ _ (by omega)).trans <|
    (extract_hi (k := 14) _ _ (by omega)).trans <|
    (extract_hi (k := 23) _ _ (by omega)).trans <|
    (extract_hi (k := 24) _ _ (by omega)).trans <|
    (extract_lo (k := 26) _ _ h h')

@[simp] theorem formF_maj_bit (s : Bool) (maj : BitVec 5) (lvl : BitVec 2) (k : Bool) (n : BitVec 9) (el es : BitVec 4) {j : Nat} (h : 26 ≤ j) (h' : j < 31) :
    (formF s maj lvl k n el es).getLsbD j = (maj).getLsbD (j - 26) :=
  (bit_hi (k := 0) _ _ (by omega)).trans <|
    (bit_hi (k := 6) _ _ (by omega)).trans <|
    (bit_hi (k := 10) _ _ (by omega)).trans <|
    (bit_hi (k := 14) _ _ (by omega)).trans <|
    (bit_hi (k := 23) _ _ (by omega)).trans <|
    (bit_hi (k := 24) _ _ (by omega)).trans <|
    (bit_lo (k := 26) _ _ h h')

@[simp] theorem formF_lvl (s : Bool) (maj : BitVec 5) (lvl : BitVec 2) (k : Bool) (n : BitVec 9) (el es : BitVec 4) {lo len : Nat} (h : 24 ≤ lo) (h' : lo + len ≤ 26) :
    bits (formF s maj lvl k n el es) lo len = (lvl).extractLsb' (lo - 24) len :=
  (extract_hi (k := 0) _ _ (by omega)).trans <|
    (extract_hi (k := 6) _ _ (by omega)).trans <|
    (extract_hi (k := 10) _ _ (by omega)).trans <|
    (extract_hi (k := 14) _ _ (by omega)).trans <|
    (extract_hi (k := 23) _ _ (by omega)).trans <|
    (extract_lo (k := 24) _ _ h h')

@[simp] theorem formF_lvl_bit (s : Bool) (maj : BitVec 5) (lvl : BitVec 2) (k : Bool) (n : BitVec 9) (el es : BitVec 4) {j : Nat} (h : 24 ≤ j) (h' : j < 26) :
    (formF s maj lvl k n el es).getLsbD j = (lvl).getLsbD (j - 24) :=
  (bit_hi (k := 0) _ _ (by omega)).trans <|
    (bit_hi (k := 6) _ _ (by omega)).trans <|
    (bit_hi (k := 10) _ _ (by omega)).trans <|
    (bit_hi (k := 14) _ _ (by omega)).trans <|
    (bit_hi (k := 23) _ _ (by omega)).trans <|
    (bit_lo (k := 24) _ _ h h')

@[simp] theorem formF_k (s : Bool) (maj : BitVec 5) (lvl : BitVec 2) (k : Bool) (n : BitVec 9) (el es : BitVec 4) {lo len : Nat} (h : 23 ≤ lo) (h' : lo + len ≤ 24) :
    bits (formF s maj lvl k n el es) lo len = (BitVec.ofBool k).extractLsb' (lo - 23) len :=
  (extract_hi (k := 0) _ _ (by omega)).trans <|
    (extract_hi (k := 6) _ _ (by omega)).trans <|
    (extract_hi (k := 10) _ _ (by omega)).trans <|
    (extract_hi (k := 14) _ _ (by omega)).trans <|
    (extract_lo (k := 23) _ _ h h')

@[simp] theorem formF_k_bit (s : Bool) (maj : BitVec 5) (lvl : BitVec 2) (k : Bool) (n : BitVec 9) (el es : BitVec 4) {j : Nat} (h : 23 ≤ j) (h' : j < 24) :
    (formF s maj lvl k n el es).getLsbD j = (BitVec.ofBool k).getLsbD (j - 23) :=
  (bit_hi (k := 0) _ _ (by omega)).trans <|
    (bit_hi (k := 6) _ _ (by omega)).trans <|
    (bit_hi (k := 10) _ _ (by omega)).trans <|
    (bit_hi (k := 14) _ _ (by omega)).trans <|
    (bit_lo (k := 23) _ _ h h')

@[simp] theorem formF_n (s : Bool) (maj : BitVec 5) (lvl : BitVec 2) (k : Bool) (n : BitVec 9) (el es : BitVec 4) {lo len : Nat} (h : 14 ≤ lo) (h' : lo + len ≤ 23) :
    bits (formF s maj lvl k n el es) lo len = (n).extractLsb' (lo - 14) len :=
  (extract_hi (k := 0) _ _ (by omega)).trans <|
    (extract_hi (k := 6) _ _ (by omega)).trans <|
    (extract_hi (k := 10) _ _ (by omega)).trans <|
    (extract_lo (k := 14) _ _ h h')

@[simp] theorem formF_n_bit (s : Bool) (maj : BitVec 5) (lvl : BitVec 2) (k : Bool) (n : BitVec 9) (el es : BitVec 4) {j : Nat} (h : 14 ≤ j) (h' : j < 23) :
    (formF s maj lvl k n el es).getLsbD j = (n).getLsbD (j - 14) :=
  (bit_hi (k := 0) _ _ (by omega)).trans <|
    (bit_hi (k := 6) _ _ (by omega)).trans <|
    (bit_hi (k := 10) _ _ (by omega)).trans <|
    (bit_lo (k := 14) _ _ h h')

@[simp] theorem formF_el (s : Bool) (maj : BitVec 5) (lvl : BitVec 2) (k : Bool) (n : BitVec 9) (el es : BitVec 4) {lo len : Nat} (h : 10 ≤ lo) (h' : lo + len ≤ 14) :
    bits (formF s maj lvl k n el es) lo len = (el).extractLsb' (lo - 10) len :=
  (extract_hi (k := 0) _ _ (by omega)).trans <|
    (extract_hi (k := 6) _ _ (by omega)).trans <|
    (extract_lo (k := 10) _ _ h h')

@[simp] theorem formF_el_bit (s : Bool) (maj : BitVec 5) (lvl : BitVec 2) (k : Bool) (n : BitVec 9) (el es : BitVec 4) {j : Nat} (h : 10 ≤ j) (h' : j < 14) :
    (formF s maj lvl k n el es).getLsbD j = (el).getLsbD (j - 10) :=
  (bit_hi (k := 0) _ _ (by omega)).trans <|
    (bit_hi (k := 6) _ _ (by omega)).trans <|
    (bit_lo (k := 10) _ _ h h')

@[simp] theorem formF_es (s : Bool) (maj : BitVec 5) (lvl : BitVec 2) (k : Bool) (n : BitVec 9) (el es : BitVec 4) {lo len : Nat} (h : 6 ≤ lo) (h' : lo + len ≤ 10) :
    bits (formF s maj lvl k n el es) lo len = (es).extractLsb' (lo - 6) len :=
  (extract_hi (k := 0) _ _ (by omega)).trans <|
    (extract_lo (k := 6) _ _ h h')

@[simp] theorem formF_es_bit (s : Bool) (maj : BitVec 5) (lvl : BitVec 2) (k : Bool) (n : BitVec 9) (el es : BitVec 4) {j : Nat} (h : 6 ≤ j) (h' : j < 10) :
    (formF s maj lvl k n el es).getLsbD j = (es).getLsbD (j - 6) :=
  (bit_hi (k := 0) _ _ (by omega)).trans <|
    (bit_lo (k := 6) _ _ h h')

@[simp] theorem formF_z (s : Bool) (maj : BitVec 5) (lvl : BitVec 2) (k : Bool) (n : BitVec 9) (el es : BitVec 4) {lo len : Nat} (h : 0 ≤ lo) (h' : lo + len ≤ 6) :
    bits (formF s maj lvl k n el es) lo len = ((0 : BitVec 6)).extractLsb' (lo - 0) len :=
  (extract_lo (k := 0) _ _ h h')

@[simp] theorem formF_z_bit (s : Bool) (maj : BitVec 5) (lvl : BitVec 2) (k : Bool) (n : BitVec 9) (el es : BitVec 4) {j : Nat} (h : 0 ≤ j) (h' : j < 6) :
    (formF s maj lvl k n el es).getLsbD j = ((0 : BitVec 6)).getLsbD (j - 0) :=
  (bit_lo (k := 0) _ _ h h')

/-! ## Codes -/

@[simp] theorem AMode.ofCode_code (c : AMode) : AMode.ofCode c.code = c := by cases c <;> rfl

@[simp] theorem Cond.ofCode_code (c : Cond) : Cond.ofCode c.code = some c := by cases c <;> rfl

@[simp] theorem FCond.ofCode_code (c : FCond) : FCond.ofCode c.code = some c := by cases c <;> rfl

@[simp] theorem FenceKind.ofCode_code (c : FenceKind) : FenceKind.ofCode c.code = some c := by cases c <;> rfl

@[simp] theorem Scope.ofCode_code (c : Scope) : Scope.ofCode c.code = some c := by cases c <;> rfl

@[simp] theorem IcScope.ofCode_code (c : IcScope) : IcScope.ofCode c.code = c := by cases c <;> rfl

@[simp] theorem MeshSel.ofCode_code (c : MeshSel) : MeshSel.ofCode c.code = some c := by cases c <;> rfl

@[simp] theorem LdTy.ofCode_code (c : LdTy) : LdTy.ofCode c.code = some c := by cases c <;> rfl

@[simp] theorem StTy.ofCode_code (c : StTy) : StTy.ofCode c.code = c := by cases c <;> rfl

@[simp] theorem AtOp.ofCode_code (c : AtOp) : AtOp.ofCode c.code = some c := by cases c <;> rfl

@[simp] theorem RcasTy.ofCode_code (c : RcasTy) : RcasTy.ofCode c.code = some c := by cases c <;> rfl

@[simp] theorem FTy.ofCode_code (c : FTy) : FTy.ofCode c.code = some c := by cases c <;> rfl

@[simp] theorem ITy.ofCode_code (c : ITy) : ITy.ofCode c.code = c := by cases c <;> rfl

@[simp] theorem WTy.ofCode_code (c : WTy) : WTy.ofCode c.code = some c := by cases c <;> rfl

@[simp] theorem WaddTy.ofCode_code (c : WaddTy) : WaddTy.ofCode c.code = some c := by cases c <;> rfl

@[simp] theorem Fmt.ofCode_code (c : Fmt) : Fmt.ofCode c.code = some c := by cases c <;> rfl

@[simp] theorem QFmt.ofCode_code (c : QFmt) : QFmt.ofCode c.code = c := by cases c <;> rfl

@[simp] theorem ShufPat.ofCode_code (c : ShufPat) : ShufPat.ofCode c.code = some c := by cases c <;> rfl

@[simp] theorem KeyTy.ofCode_code (c : KeyTy) : KeyTy.ofCode c.code = some c := by cases c <;> rfl

@[simp] theorem MFmt.ofCode_code (c : MFmt) : MFmt.ofCode c.code = some c := by cases c <;> rfl

@[simp] theorem SMask.ofCode_code (x : SMask) : SMask.ofCode x.code = x := by
  obtain ⟨s, g, f⟩ := x
  cases s <;> cases g <;> cases f <;> rfl

@[simp] theorem ScanOp.ofCode_code (x : ScanOp) : ScanOp.ofCode x.code x.ty = some x := by
  cases x <;> rename_i t <;> cases t <;> rfl

theorem GField.ofCode_code (x : GField) (h : x.src = true) : GField.ofCode x.code = x := by
  cases x with
  | r n =>
    simp only [GField.src, decide_eq_true_eq] at h
    simp [GField.ofCode, GField.code, h]
  | pop q => revert q; decide
  | peek q => revert q; decide

@[simp] theorem VField.ofCode_code (x : VField) : VField.ofCode x.code = some x := by
  cases x with
  | r n => revert n; decide
  | pop q => revert q; decide
  | peek q => revert q; decide

@[simp] theorem aregOfCode_aCode (n : BitVec 4) : aregOfCode (aCode n) = some n := by
  revert n
  decide

theorem RF.ofCode_code (e : Engine) (x : RF) (h : x.src e = true) : RF.ofCode e x.code = some x := by
  cases x with
  | g f =>
    simp only [RF.src, Bool.and_eq_true, decide_eq_true_eq] at h
    simp [RF.ofCode, RF.code, h.1, GField.ofCode_code f h.2]
  | a n =>
    simp only [RF.src, decide_eq_true_eq] at h
    simp only [RF.ofCode, RF.code, h, if_false]
    exact congrArg (Option.map RF.a) (aregOfCode_aCode n)

@[simp] theorem SReg.ofCode_code (x : SReg) : SReg.ofCode x.code = some x := by
  cases x with
  | qcfg n => revert n; decide
  | flagr n => revert n; decide
  | lcnt n => revert n; decide
  | _ => rfl

end Sys2Proof
end

