-- ==== Sys2Proof/Laws/Tbl.lean ====
section
/-!
SUPPORT. The laws of sparse tables: reading after writing, writing twice, and that writes keep the canonical form. The laws
of reading hold of every list of pairs.
-/

set_option Elab.async false

namespace Sys2Proof.Machine

section
variable {α : Type} (d : α)

@[simp] theorem Tbl.get_nil (k : Nat) : Tbl.get ([] : Tbl α) d k = d := rfl

theorem Tbl.above_cons (e : Nat × α) (r : Tbl α) (k : Nat) :
    Tbl.above (e :: r) k = if e.1 ≤ k then Tbl.above r k else e :: r := by
  by_cases h : e.1 ≤ k <;> simp [Tbl.above, List.dropWhile, h]

theorem Tbl.get_above_le (r : Tbl α) {k k' : Nat} (h : k' ≤ k) : (Tbl.above r k).get d k' = d := by
  induction r with
  | nil => rfl
  | cons e r ih =>
    rw [Tbl.above_cons]
    split
    · exact ih
    · have : k' ≠ e.1 := by omega
      have : k' < e.1 := by omega
      simp [Tbl.get, *]

theorem Tbl.get_above_gt (r : Tbl α) {k k' : Nat} (h : k < k') : (Tbl.above r k).get d k' = r.get d k' := by
  induction r with
  | nil => rfl
  | cons e r ih =>
    rw [Tbl.above_cons]
    split
    · have : k' ≠ e.1 := by omega
      have : ¬ k' < e.1 := by omega
      simp [Tbl.get, *]
    · rfl

theorem Tbl.above_above (r : Tbl α) (k : Nat) : Tbl.above (Tbl.above r k) k = Tbl.above r k := by
  induction r with
  | nil => rfl
  | cons e r ih =>
    rw [Tbl.above_cons]
    split
    · exact ih
    · rw [Tbl.above_cons, if_neg ‹_›]

end

section
variable {α : Type} [DecidableEq α] (d : α)

theorem Tbl.wfFrom_mono (t : Tbl α) {lo lo' : Nat} (h : Tbl.wfFrom d lo t = true) (le : lo' ≤ lo) :
    Tbl.wfFrom d lo' t = true := by
  cases t with
  | nil => rfl
  | cons e r =>
    obtain ⟨k, v⟩ := e
    simp only [Tbl.wfFrom, Bool.and_eq_true, decide_eq_true_eq] at h ⊢
    exact ⟨⟨by omega, h.1.2⟩, h.2⟩

/-- In a canonical table nothing is dropped from what stands beyond a key. -/
theorem Tbl.above_wf (r : Tbl α) {k : Nat} (h : Tbl.wfFrom d (k + 1) r = true) : Tbl.above r k = r := by
  cases r with
  | nil => rfl
  | cons e r =>
    obtain ⟨j, v⟩ := e
    simp only [Tbl.wfFrom, Bool.and_eq_true, decide_eq_true_eq] at h
    rw [Tbl.above_cons, if_neg (by simp only; omega)]

theorem Tbl.wfFrom_set (t : Tbl α) (lo k : Nat) (v : α) (h : Tbl.wfFrom d lo t = true) (le : lo ≤ k) :
    Tbl.wfFrom d lo (t.set d k v) = true := by
  induction t generalizing lo with
  | nil =>
    unfold Tbl.set
    split <;> simp_all [Tbl.wfFrom]
  | cons e r ih =>
    obtain ⟨j, w⟩ := e
    have h' := h
    simp only [Tbl.wfFrom, Bool.and_eq_true, decide_eq_true_eq] at h
    obtain ⟨⟨hj, hw⟩, hr⟩ := h
    unfold Tbl.set
    split
    · split
      · exact h'
      · simp only [Tbl.wfFrom, Bool.and_eq_true, decide_eq_true_eq]
        exact ⟨⟨le, ‹_›⟩, ⟨by omega, hw⟩, hr⟩
    · split
      · subst_vars
        rw [Tbl.above_wf d r hr]
        split
        · exact Tbl.wfFrom_mono d r hr (by omega)
        · simp only [Tbl.wfFrom, Bool.and_eq_true, decide_eq_true_eq]
          exact ⟨⟨le, ‹_›⟩, hr⟩
      · simp only [Tbl.wfFrom, Bool.and_eq_true, decide_eq_true_eq]
        exact ⟨⟨hj, hw⟩, ih (j + 1) hr (by omega)⟩

/-- A write keeps the canonical form. -/
theorem Tbl.wf_set (t : Tbl α) (k : Nat) (v : α) (h : Tbl.wf d t = true) : Tbl.wf d (t.set d k v) = true :=
  Tbl.wfFrom_set d t 0 k v h (Nat.zero_le k)

/-- Reading a key after writing it gives what was written. -/
@[simp] theorem Tbl.get_set_same (t : Tbl α) (k : Nat) (v : α) : (t.set d k v).get d k = v := by
  induction t with
  | nil =>
    unfold Tbl.set
    split <;> simp_all [Tbl.get]
  | cons e r ih =>
    obtain ⟨j, w⟩ := e
    unfold Tbl.set
    split
    · rename_i hlt
      split
      · have : k ≠ j := by omega
        simp_all [Tbl.get]
      · simp [Tbl.get]
    · split
      · split
        · rw [Tbl.get_above_le d r (Nat.le_refl k)]
          exact Eq.symm ‹_›
        · simp [Tbl.get]
      · rename_i h1 h2
        simp [Tbl.get, h1, h2, ih]

/-- Reading another key is not changed by a write. -/
theorem Tbl.get_set_other (t : Tbl α) {k k' : Nat} (v : α) (ne : k' ≠ k) : (t.set d k v).get d k' = t.get d k' := by
  induction t with
  | nil =>
    unfold Tbl.set
    split
    · rfl
    · simp [Tbl.get, ne]
  | cons e r ih =>
    obtain ⟨j, w⟩ := e
    unfold Tbl.set
    split
    · rename_i hlt
      split
      · rfl
      · by_cases hk : k' < k
        · have : k' ≠ j := by omega
          have : k' < j := by omega
          simp [Tbl.get, *]
        · simp [Tbl.get, ne, hk]
    · split
      · rename_i hjk
        subst hjk
        by_cases hk : k' < k
        · have h1 := Tbl.get_above_le d r (Nat.le_of_lt hk)
          split <;> simp [Tbl.get, ne, hk, h1]
        · have h1 := Tbl.get_above_gt d r (k := k) (k' := k') (by omega)
          split <;> simp [Tbl.get, ne, hk, h1]
      · simp only [Tbl.get, ih]

/-- Reading any key after a write. -/
theorem Tbl.get_set (t : Tbl α) (k k' : Nat) (v : α) : (t.set d k v).get d k' = if k' = k then v else t.get d k' := by
  split
  · subst_vars
    exact Tbl.get_set_same d t k' v
  · exact Tbl.get_set_other d t v ‹_›

/-- Of two writes to one key the later counts. -/
@[simp] theorem Tbl.set_set (t : Tbl α) (k : Nat) (v w : α) : (t.set d k v).set d k w = t.set d k w := by
  induction t with
  | nil =>
    by_cases hv : v = d <;> by_cases hw : w = d <;> simp [Tbl.set, Tbl.above, hv, hw]
  | cons e r ih =>
    obtain ⟨j, x⟩ := e
    by_cases hlt : k < j
    · have hn : ¬ j ≤ k := by omega
      by_cases hv : v = d <;> simp [Tbl.set, Tbl.above_cons, hlt, hn, hv]
    · by_cases hj : k = j
      · subst hj
        have key : ∀ r : Tbl α, (Tbl.above r k).set d k w = if w = d then Tbl.above r k else (k, w) :: Tbl.above r k := by
          intro r
          induction r with
          | nil => rfl
          | cons e r ih =>
            rw [Tbl.above_cons]
            split
            · exact ih
            · have : k < e.1 := by omega
              simp [Tbl.set, this]
        by_cases hv : v = d
        · simp [Tbl.set, hv, key]
        · simp [Tbl.set, hv, Tbl.above_above]
      · simp [Tbl.set, hlt, hj, ih]

/-- Applying a function at a key keeps the canonical form. -/
theorem Tbl.wf_upd (t : Tbl α) (k : Nat) (f : α → α) (h : Tbl.wf d t = true) : Tbl.wf d (t.upd d k f) = true :=
  Tbl.wf_set d t k _ h

theorem Tbl.wfFrom_filter (t : Tbl α) (lo : Nat) (p : Nat × α → Bool) (h : Tbl.wfFrom d lo t = true) :
    Tbl.wfFrom d lo (t.filter p) = true := by
  induction t generalizing lo with
  | nil => rfl
  | cons e r ih =>
    obtain ⟨j, w⟩ := e
    simp only [Tbl.wfFrom, Bool.and_eq_true, decide_eq_true_eq] at h
    obtain ⟨⟨hj, hw⟩, hr⟩ := h
    simp only [List.filter]
    split
    · simp only [Tbl.wfFrom, Bool.and_eq_true, decide_eq_true_eq]
      exact ⟨⟨hj, hw⟩, ih (j + 1) hr⟩
    · exact Tbl.wfFrom_mono d _ (ih (j + 1) hr) (by omega)

/-- Leaving entries out keeps the canonical form. -/
theorem Tbl.wf_filter (t : Tbl α) (p : Nat × α → Bool) (h : Tbl.wf d t = true) : Tbl.wf d (t.filter p) = true :=
  Tbl.wfFrom_filter d t 0 p h

/-- Writing one key after another keeps the canonical form. -/
theorem Tbl.wf_foldl_set {β : Type} (l : List β) (key : β → Nat) (val : β → α) (t : Tbl α) (h : Tbl.wf d t = true) :
    Tbl.wf d (l.foldl (fun m b => Tbl.set m d (key b) (val b)) t) = true := by
  induction l generalizing t with
  | nil => exact h
  | cons b l ih => exact ih _ (Tbl.wf_set d t _ _ h)

end

end Sys2Proof.Machine
end

