-- ==== Sys2Proof/Laws/State.lean ====
section
/-!
SUPPORT. One lemma per field and per update of the state, so that no proof unfolds a record update: replacing or changing a
core, an engine of it, an instance; entering results and operations; noting late actions.
-/

namespace Sys2Proof.Machine

/-! ## Reading what was written -/

@[simp] theorem State.core_setCore (s : State) (c : Nat) (k : Core) : (s.setCore c k).core c = k := by
  simp [State.core, State.setCore]

theorem State.core_setCore_other (s : State) {c c' : Nat} (k : Core) (h : c' ≠ c) : (s.setCore c k).core c' = s.core c' := by
  simp only [State.core, State.setCore]
  exact Tbl.get_set_other _ _ _ h

@[simp] theorem State.core_modCore (s : State) (c : Nat) (f : Core → Core) : (s.modCore c f).core c = f (s.core c) := by
  simp [State.modCore]

theorem State.core_modCore_other (s : State) {c c' : Nat} (f : Core → Core) (h : c' ≠ c) :
    (s.modCore c f).core c' = s.core c' := State.core_setCore_other s _ h

@[simp] theorem State.cur_setCore (s : State) (k : Core) : (s.setCore s.focus k).cur = k := State.core_setCore s s.focus k

@[simp] theorem State.cur_modCur (s : State) (f : Core → Core) : (s.modCur f).cur = f s.cur := State.core_modCore s s.focus f

@[simp] theorem State.cur_modCtx (s : State) (f : Ctx → Ctx) : (s.modCtx f).cur = s.cur.modCtx s.eng f :=
  State.cur_modCur s _

@[simp] theorem Core.ctx_setCtx (k : Core) (e : Engine) (x : Ctx) : (k.setCtx e x).ctx e = x := by cases e <;> rfl

theorem Core.ctx_setCtx_other (k : Core) {e e' : Engine} (x : Ctx) (h : e' ≠ e) : (k.setCtx e x).ctx e' = k.ctx e' := by
  cases e <;> cases e' <;> first | rfl | exact absurd rfl h

@[simp] theorem Core.ctx_modCtx (k : Core) (e : Engine) (f : Ctx → Ctx) : (k.modCtx e f).ctx e = f (k.ctx e) :=
  Core.ctx_setCtx k e _

theorem Core.ctx_modCtx_other (k : Core) {e e' : Engine} (f : Ctx → Ctx) (h : e' ≠ e) :
    (k.modCtx e f).ctx e' = k.ctx e' := Core.ctx_setCtx_other k _ h

@[simp] theorem Core.setCtx_setCtx (k : Core) (e : Engine) (x y : Ctx) : (k.setCtx e x).setCtx e y = k.setCtx e y := by
  cases e <;> rfl

@[simp] theorem Core.setCtx_ctx (k : Core) (e : Engine) : k.setCtx e (k.ctx e) = k := by cases e <;> rfl

@[simp] theorem Core.modCtx_modCtx (k : Core) (e : Engine) (f g : Ctx → Ctx) :
    (k.modCtx e f).modCtx e g = k.modCtx e (fun x => g (f x)) := by
  simp [Core.modCtx]

@[simp] theorem State.ctx_modCtx (s : State) (f : Ctx → Ctx) : (s.modCtx f).ctx = f s.ctx := by
  show ((s.modCtx f).cur).ctx s.eng = f (s.cur.ctx s.eng)
  simp

/-! ## Fields of the package -/

@[simp] theorem State.setCore_pkg (s : State) (c : Nat) (k : Core) : (s.setCore c k).pkg = s.pkg := rfl
@[simp] theorem State.setCore_cycle (s : State) (c : Nat) (k : Core) : (s.setCore c k).cycle = s.cycle := rfl
@[simp] theorem State.setCore_gtime (s : State) (c : Nat) (k : Core) : (s.setCore c k).gtime = s.gtime := rfl
@[simp] theorem State.setCore_gphase (s : State) (c : Nat) (k : Core) : (s.setCore c k).gphase = s.gphase := rfl
@[simp] theorem State.setCore_slew (s : State) (c : Nat) (k : Core) : (s.setCore c k).slew = s.slew := rfl
@[simp] theorem State.setCore_slewPhase (s : State) (c : Nat) (k : Core) :
    (s.setCore c k).slewPhase = s.slewPhase := rfl
@[simp] theorem State.setCore_free (s : State) (c : Nat) (k : Core) : (s.setCore c k).free = s.free := rfl
@[simp] theorem State.setCore_agenda (s : State) (c : Nat) (k : Core) : (s.setCore c k).agenda = s.agenda := rfl
@[simp] theorem State.setCore_turn (s : State) (c : Nat) (k : Core) : (s.setCore c k).turn = s.turn := rfl
@[simp] theorem State.setCore_focus (s : State) (c : Nat) (k : Core) : (s.setCore c k).focus = s.focus := rfl
@[simp] theorem State.setCore_eng (s : State) (c : Nat) (k : Core) : (s.setCore c k).eng = s.eng := rfl
@[simp] theorem State.setCore_syl (s : State) (c : Nat) (k : Core) : (s.setCore c k).syl = s.syl := rfl
@[simp] theorem State.setCore_idx (s : State) (c : Nat) (k : Core) : (s.setCore c k).idx = s.idx := rfl
@[simp] theorem State.setCore_clusters (s : State) (c : Nat) (k : Core) : (s.setCore c k).clusters = s.clusters := rfl
@[simp] theorem State.setCore_hbm (s : State) (c : Nat) (k : Core) : (s.setCore c k).hbm = s.hbm := rfl
@[simp] theorem State.setCore_scrubs (s : State) (c : Nat) (k : Core) : (s.setCore c k).scrubs = s.scrubs := rfl
@[simp] theorem State.setCore_poison (s : State) (c : Nat) (k : Core) : (s.setCore c k).poison = s.poison := rfl
@[simp] theorem State.setCore_dirty (s : State) (c : Nat) (k : Core) : (s.setCore c k).dirty = s.dirty := rfl
@[simp] theorem State.setCore_l2rng (s : State) (c : Nat) (k : Core) : (s.setCore c k).l2rng = s.l2rng := rfl
@[simp] theorem State.setCore_l2acc (s : State) (c : Nat) (k : Core) : (s.setCore c k).l2acc = s.l2acc := rfl
@[simp] theorem State.setCore_l2 (s : State) (c : Nat) (k : Core) : (s.setCore c k).l2 = s.l2 := rfl
@[simp] theorem State.setCore_claims (s : State) (c : Nat) (k : Core) : (s.setCore c k).claims = s.claims := rfl
@[simp] theorem State.setCore_barStage (s : State) (c : Nat) (k : Core) : (s.setCore c k).barStage = s.barStage := rfl
@[simp] theorem State.setCore_hostMem (s : State) (c : Nat) (k : Core) : (s.setCore c k).hostMem = s.hostMem := rfl
@[simp] theorem State.setCore_slices (s : State) (c : Nat) (k : Core) : (s.setCore c k).slices = s.slices := rfl
@[simp] theorem State.setCore_slots (s : State) (c : Nat) (k : Core) : (s.setCore c k).slots = s.slots := rfl
@[simp] theorem State.setCore_queues (s : State) (c : Nat) (k : Core) : (s.setCore c k).queues = s.queues := rfl
@[simp] theorem State.setCore_gangs (s : State) (c : Nat) (k : Core) : (s.setCore c k).gangs = s.gangs := rfl
@[simp] theorem State.setCore_insts (s : State) (c : Nat) (k : Core) : (s.setCore c k).insts = s.insts := rfl
@[simp] theorem State.setCore_saved (s : State) (c : Nat) (k : Core) : (s.setCore c k).saved = s.saved := rfl
@[simp] theorem State.setCore_nextCtx (s : State) (c : Nat) (k : Core) : (s.setCore c k).nextCtx = s.nextCtx := rfl
@[simp] theorem State.setCore_images (s : State) (c : Nat) (k : Core) : (s.setCore c k).images = s.images := rfl
@[simp] theorem State.setCore_prq (s : State) (c : Nat) (k : Core) : (s.setCore c k).prq = s.prq := rfl
@[simp] theorem State.setCore_reqs (s : State) (c : Nat) (k : Core) : (s.setCore c k).reqs = s.reqs := rfl
@[simp] theorem State.setCore_nextReq (s : State) (c : Nat) (k : Core) : (s.setCore c k).nextReq = s.nextReq := rfl
@[simp] theorem State.setCore_walks (s : State) (c : Nat) (k : Core) : (s.setCore c k).walks = s.walks := rfl
@[simp] theorem State.setCore_xops (s : State) (c : Nat) (k : Core) : (s.setCore c k).xops = s.xops := rfl
@[simp] theorem State.setCore_regions (s : State) (c : Nat) (k : Core) : (s.setCore c k).regions = s.regions := rfl
@[simp] theorem State.setCore_records (s : State) (c : Nat) (k : Core) : (s.setCore c k).records = s.records := rfl
@[simp] theorem State.setCore_links (s : State) (c : Nat) (k : Core) : (s.setCore c k).links = s.links := rfl
@[simp] theorem State.setCore_endpoints (s : State) (c : Nat) (k : Core) :
    (s.setCore c k).endpoints = s.endpoints := rfl
@[simp] theorem State.setCore_unfitted (s : State) (c : Nat) (k : Core) : (s.setCore c k).unfitted = s.unfitted := rfl
@[simp] theorem State.setCore_seqs (s : State) (c : Nat) (k : Core) : (s.setCore c k).seqs = s.seqs := rfl
@[simp] theorem State.setCore_waiting (s : State) (c : Nat) (k : Core) : (s.setCore c k).waiting = s.waiting := rfl
@[simp] theorem State.setCore_sent (s : State) (c : Nat) (k : Core) : (s.setCore c k).sent = s.sent := rfl
@[simp] theorem State.setCore_arrived (s : State) (c : Nat) (k : Core) : (s.setCore c k).arrived = s.arrived := rfl
@[simp] theorem State.setCore_outbound (s : State) (c : Nat) (k : Core) : (s.setCore c k).outbound = s.outbound := rfl
@[simp] theorem State.setCore_inbound (s : State) (c : Nat) (k : Core) : (s.setCore c k).inbound = s.inbound := rfl
@[simp] theorem State.setCore_copied (s : State) (c : Nat) (k : Core) : (s.setCore c k).copied = s.copied := rfl
@[simp] theorem State.setCore_tier (s : State) (c : Nat) (k : Core) : (s.setCore c k).tier = s.tier := rfl
@[simp] theorem State.setCore_dev (s : State) (c : Nat) (k : Core) : (s.setCore c k).dev = s.dev := rfl
@[simp] theorem State.modCore_pkg (s : State) (c : Nat) (f : Core → Core) : (s.modCore c f).pkg = s.pkg := rfl
@[simp] theorem State.modCore_cycle (s : State) (c : Nat) (f : Core → Core) : (s.modCore c f).cycle = s.cycle := rfl
@[simp] theorem State.modCore_gtime (s : State) (c : Nat) (f : Core → Core) : (s.modCore c f).gtime = s.gtime := rfl
@[simp] theorem State.modCore_gphase (s : State) (c : Nat) (f : Core → Core) :
    (s.modCore c f).gphase = s.gphase := rfl
@[simp] theorem State.modCore_slew (s : State) (c : Nat) (f : Core → Core) : (s.modCore c f).slew = s.slew := rfl
@[simp] theorem State.modCore_slewPhase (s : State) (c : Nat) (f : Core → Core) :
    (s.modCore c f).slewPhase = s.slewPhase := rfl
@[simp] theorem State.modCore_free (s : State) (c : Nat) (f : Core → Core) : (s.modCore c f).free = s.free := rfl
@[simp] theorem State.modCore_agenda (s : State) (c : Nat) (f : Core → Core) :
    (s.modCore c f).agenda = s.agenda := rfl
@[simp] theorem State.modCore_turn (s : State) (c : Nat) (f : Core → Core) : (s.modCore c f).turn = s.turn := rfl
@[simp] theorem State.modCore_focus (s : State) (c : Nat) (f : Core → Core) : (s.modCore c f).focus = s.focus := rfl
@[simp] theorem State.modCore_eng (s : State) (c : Nat) (f : Core → Core) : (s.modCore c f).eng = s.eng := rfl
@[simp] theorem State.modCore_syl (s : State) (c : Nat) (f : Core → Core) : (s.modCore c f).syl = s.syl := rfl
@[simp] theorem State.modCore_idx (s : State) (c : Nat) (f : Core → Core) : (s.modCore c f).idx = s.idx := rfl
@[simp] theorem State.modCore_clusters (s : State) (c : Nat) (f : Core → Core) :
    (s.modCore c f).clusters = s.clusters := rfl
@[simp] theorem State.modCore_hbm (s : State) (c : Nat) (f : Core → Core) : (s.modCore c f).hbm = s.hbm := rfl
@[simp] theorem State.modCore_scrubs (s : State) (c : Nat) (f : Core → Core) :
    (s.modCore c f).scrubs = s.scrubs := rfl
@[simp] theorem State.modCore_poison (s : State) (c : Nat) (f : Core → Core) :
    (s.modCore c f).poison = s.poison := rfl
@[simp] theorem State.modCore_dirty (s : State) (c : Nat) (f : Core → Core) : (s.modCore c f).dirty = s.dirty := rfl
@[simp] theorem State.modCore_l2rng (s : State) (c : Nat) (f : Core → Core) : (s.modCore c f).l2rng = s.l2rng := rfl
@[simp] theorem State.modCore_l2acc (s : State) (c : Nat) (f : Core → Core) : (s.modCore c f).l2acc = s.l2acc := rfl
@[simp] theorem State.modCore_l2 (s : State) (c : Nat) (f : Core → Core) : (s.modCore c f).l2 = s.l2 := rfl
@[simp] theorem State.modCore_claims (s : State) (c : Nat) (f : Core → Core) :
    (s.modCore c f).claims = s.claims := rfl
@[simp] theorem State.modCore_barStage (s : State) (c : Nat) (f : Core → Core) :
    (s.modCore c f).barStage = s.barStage := rfl
@[simp] theorem State.modCore_hostMem (s : State) (c : Nat) (f : Core → Core) :
    (s.modCore c f).hostMem = s.hostMem := rfl
@[simp] theorem State.modCore_slices (s : State) (c : Nat) (f : Core → Core) :
    (s.modCore c f).slices = s.slices := rfl
@[simp] theorem State.modCore_slots (s : State) (c : Nat) (f : Core → Core) : (s.modCore c f).slots = s.slots := rfl
@[simp] theorem State.modCore_queues (s : State) (c : Nat) (f : Core → Core) :
    (s.modCore c f).queues = s.queues := rfl
@[simp] theorem State.modCore_gangs (s : State) (c : Nat) (f : Core → Core) : (s.modCore c f).gangs = s.gangs := rfl
@[simp] theorem State.modCore_insts (s : State) (c : Nat) (f : Core → Core) : (s.modCore c f).insts = s.insts := rfl
@[simp] theorem State.modCore_saved (s : State) (c : Nat) (f : Core → Core) : (s.modCore c f).saved = s.saved := rfl
@[simp] theorem State.modCore_nextCtx (s : State) (c : Nat) (f : Core → Core) :
    (s.modCore c f).nextCtx = s.nextCtx := rfl
@[simp] theorem State.modCore_images (s : State) (c : Nat) (f : Core → Core) :
    (s.modCore c f).images = s.images := rfl
@[simp] theorem State.modCore_prq (s : State) (c : Nat) (f : Core → Core) : (s.modCore c f).prq = s.prq := rfl
@[simp] theorem State.modCore_reqs (s : State) (c : Nat) (f : Core → Core) : (s.modCore c f).reqs = s.reqs := rfl
@[simp] theorem State.modCore_nextReq (s : State) (c : Nat) (f : Core → Core) :
    (s.modCore c f).nextReq = s.nextReq := rfl
@[simp] theorem State.modCore_walks (s : State) (c : Nat) (f : Core → Core) : (s.modCore c f).walks = s.walks := rfl
@[simp] theorem State.modCore_xops (s : State) (c : Nat) (f : Core → Core) : (s.modCore c f).xops = s.xops := rfl
@[simp] theorem State.modCore_regions (s : State) (c : Nat) (f : Core → Core) :
    (s.modCore c f).regions = s.regions := rfl
@[simp] theorem State.modCore_records (s : State) (c : Nat) (f : Core → Core) :
    (s.modCore c f).records = s.records := rfl
@[simp] theorem State.modCore_links (s : State) (c : Nat) (f : Core → Core) : (s.modCore c f).links = s.links := rfl
@[simp] theorem State.modCore_endpoints (s : State) (c : Nat) (f : Core → Core) :
    (s.modCore c f).endpoints = s.endpoints := rfl
@[simp] theorem State.modCore_unfitted (s : State) (c : Nat) (f : Core → Core) :
    (s.modCore c f).unfitted = s.unfitted := rfl
@[simp] theorem State.modCore_seqs (s : State) (c : Nat) (f : Core → Core) : (s.modCore c f).seqs = s.seqs := rfl
@[simp] theorem State.modCore_waiting (s : State) (c : Nat) (f : Core → Core) :
    (s.modCore c f).waiting = s.waiting := rfl
@[simp] theorem State.modCore_sent (s : State) (c : Nat) (f : Core → Core) : (s.modCore c f).sent = s.sent := rfl
@[simp] theorem State.modCore_arrived (s : State) (c : Nat) (f : Core → Core) :
    (s.modCore c f).arrived = s.arrived := rfl
@[simp] theorem State.modCore_outbound (s : State) (c : Nat) (f : Core → Core) :
    (s.modCore c f).outbound = s.outbound := rfl
@[simp] theorem State.modCore_inbound (s : State) (c : Nat) (f : Core → Core) :
    (s.modCore c f).inbound = s.inbound := rfl
@[simp] theorem State.modCore_copied (s : State) (c : Nat) (f : Core → Core) :
    (s.modCore c f).copied = s.copied := rfl
@[simp] theorem State.modCore_tier (s : State) (c : Nat) (f : Core → Core) : (s.modCore c f).tier = s.tier := rfl
@[simp] theorem State.modCore_dev (s : State) (c : Nat) (f : Core → Core) : (s.modCore c f).dev = s.dev := rfl
@[simp] theorem State.modCur_pkg (s : State) (f : Core → Core) : (s.modCur f).pkg = s.pkg := rfl
@[simp] theorem State.modCur_cycle (s : State) (f : Core → Core) : (s.modCur f).cycle = s.cycle := rfl
@[simp] theorem State.modCur_gtime (s : State) (f : Core → Core) : (s.modCur f).gtime = s.gtime := rfl
@[simp] theorem State.modCur_gphase (s : State) (f : Core → Core) : (s.modCur f).gphase = s.gphase := rfl
@[simp] theorem State.modCur_slew (s : State) (f : Core → Core) : (s.modCur f).slew = s.slew := rfl
@[simp] theorem State.modCur_slewPhase (s : State) (f : Core → Core) : (s.modCur f).slewPhase = s.slewPhase := rfl
@[simp] theorem State.modCur_free (s : State) (f : Core → Core) : (s.modCur f).free = s.free := rfl
@[simp] theorem State.modCur_agenda (s : State) (f : Core → Core) : (s.modCur f).agenda = s.agenda := rfl
@[simp] theorem State.modCur_turn (s : State) (f : Core → Core) : (s.modCur f).turn = s.turn := rfl
@[simp] theorem State.modCur_focus (s : State) (f : Core → Core) : (s.modCur f).focus = s.focus := rfl
@[simp] theorem State.modCur_eng (s : State) (f : Core → Core) : (s.modCur f).eng = s.eng := rfl
@[simp] theorem State.modCur_syl (s : State) (f : Core → Core) : (s.modCur f).syl = s.syl := rfl
@[simp] theorem State.modCur_idx (s : State) (f : Core → Core) : (s.modCur f).idx = s.idx := rfl
@[simp] theorem State.modCur_clusters (s : State) (f : Core → Core) : (s.modCur f).clusters = s.clusters := rfl
@[simp] theorem State.modCur_hbm (s : State) (f : Core → Core) : (s.modCur f).hbm = s.hbm := rfl
@[simp] theorem State.modCur_scrubs (s : State) (f : Core → Core) : (s.modCur f).scrubs = s.scrubs := rfl
@[simp] theorem State.modCur_poison (s : State) (f : Core → Core) : (s.modCur f).poison = s.poison := rfl
@[simp] theorem State.modCur_dirty (s : State) (f : Core → Core) : (s.modCur f).dirty = s.dirty := rfl
@[simp] theorem State.modCur_l2rng (s : State) (f : Core → Core) : (s.modCur f).l2rng = s.l2rng := rfl
@[simp] theorem State.modCur_l2acc (s : State) (f : Core → Core) : (s.modCur f).l2acc = s.l2acc := rfl
@[simp] theorem State.modCur_l2 (s : State) (f : Core → Core) : (s.modCur f).l2 = s.l2 := rfl
@[simp] theorem State.modCur_claims (s : State) (f : Core → Core) : (s.modCur f).claims = s.claims := rfl
@[simp] theorem State.modCur_barStage (s : State) (f : Core → Core) : (s.modCur f).barStage = s.barStage := rfl
@[simp] theorem State.modCur_hostMem (s : State) (f : Core → Core) : (s.modCur f).hostMem = s.hostMem := rfl
@[simp] theorem State.modCur_slices (s : State) (f : Core → Core) : (s.modCur f).slices = s.slices := rfl
@[simp] theorem State.modCur_slots (s : State) (f : Core → Core) : (s.modCur f).slots = s.slots := rfl
@[simp] theorem State.modCur_queues (s : State) (f : Core → Core) : (s.modCur f).queues = s.queues := rfl
@[simp] theorem State.modCur_gangs (s : State) (f : Core → Core) : (s.modCur f).gangs = s.gangs := rfl
@[simp] theorem State.modCur_insts (s : State) (f : Core → Core) : (s.modCur f).insts = s.insts := rfl
@[simp] theorem State.modCur_saved (s : State) (f : Core → Core) : (s.modCur f).saved = s.saved := rfl
@[simp] theorem State.modCur_nextCtx (s : State) (f : Core → Core) : (s.modCur f).nextCtx = s.nextCtx := rfl
@[simp] theorem State.modCur_images (s : State) (f : Core → Core) : (s.modCur f).images = s.images := rfl
@[simp] theorem State.modCur_prq (s : State) (f : Core → Core) : (s.modCur f).prq = s.prq := rfl
@[simp] theorem State.modCur_reqs (s : State) (f : Core → Core) : (s.modCur f).reqs = s.reqs := rfl
@[simp] theorem State.modCur_nextReq (s : State) (f : Core → Core) : (s.modCur f).nextReq = s.nextReq := rfl
@[simp] theorem State.modCur_walks (s : State) (f : Core → Core) : (s.modCur f).walks = s.walks := rfl
@[simp] theorem State.modCur_xops (s : State) (f : Core → Core) : (s.modCur f).xops = s.xops := rfl
@[simp] theorem State.modCur_regions (s : State) (f : Core → Core) : (s.modCur f).regions = s.regions := rfl
@[simp] theorem State.modCur_records (s : State) (f : Core → Core) : (s.modCur f).records = s.records := rfl
@[simp] theorem State.modCur_links (s : State) (f : Core → Core) : (s.modCur f).links = s.links := rfl
@[simp] theorem State.modCur_endpoints (s : State) (f : Core → Core) : (s.modCur f).endpoints = s.endpoints := rfl
@[simp] theorem State.modCur_unfitted (s : State) (f : Core → Core) : (s.modCur f).unfitted = s.unfitted := rfl
@[simp] theorem State.modCur_seqs (s : State) (f : Core → Core) : (s.modCur f).seqs = s.seqs := rfl
@[simp] theorem State.modCur_waiting (s : State) (f : Core → Core) : (s.modCur f).waiting = s.waiting := rfl
@[simp] theorem State.modCur_sent (s : State) (f : Core → Core) : (s.modCur f).sent = s.sent := rfl
@[simp] theorem State.modCur_arrived (s : State) (f : Core → Core) : (s.modCur f).arrived = s.arrived := rfl
@[simp] theorem State.modCur_outbound (s : State) (f : Core → Core) : (s.modCur f).outbound = s.outbound := rfl
@[simp] theorem State.modCur_inbound (s : State) (f : Core → Core) : (s.modCur f).inbound = s.inbound := rfl
@[simp] theorem State.modCur_copied (s : State) (f : Core → Core) : (s.modCur f).copied = s.copied := rfl
@[simp] theorem State.modCur_tier (s : State) (f : Core → Core) : (s.modCur f).tier = s.tier := rfl
@[simp] theorem State.modCur_dev (s : State) (f : Core → Core) : (s.modCur f).dev = s.dev := rfl
@[simp] theorem State.modCtx_pkg (s : State) (f : Ctx → Ctx) : (s.modCtx f).pkg = s.pkg := rfl
@[simp] theorem State.modCtx_cycle (s : State) (f : Ctx → Ctx) : (s.modCtx f).cycle = s.cycle := rfl
@[simp] theorem State.modCtx_gtime (s : State) (f : Ctx → Ctx) : (s.modCtx f).gtime = s.gtime := rfl
@[simp] theorem State.modCtx_gphase (s : State) (f : Ctx → Ctx) : (s.modCtx f).gphase = s.gphase := rfl
@[simp] theorem State.modCtx_slew (s : State) (f : Ctx → Ctx) : (s.modCtx f).slew = s.slew := rfl
@[simp] theorem State.modCtx_slewPhase (s : State) (f : Ctx → Ctx) : (s.modCtx f).slewPhase = s.slewPhase := rfl
@[simp] theorem State.modCtx_free (s : State) (f : Ctx → Ctx) : (s.modCtx f).free = s.free := rfl
@[simp] theorem State.modCtx_agenda (s : State) (f : Ctx → Ctx) : (s.modCtx f).agenda = s.agenda := rfl
@[simp] theorem State.modCtx_turn (s : State) (f : Ctx → Ctx) : (s.modCtx f).turn = s.turn := rfl
@[simp] theorem State.modCtx_focus (s : State) (f : Ctx → Ctx) : (s.modCtx f).focus = s.focus := rfl
@[simp] theorem State.modCtx_eng (s : State) (f : Ctx → Ctx) : (s.modCtx f).eng = s.eng := rfl
@[simp] theorem State.modCtx_syl (s : State) (f : Ctx → Ctx) : (s.modCtx f).syl = s.syl := rfl
@[simp] theorem State.modCtx_idx (s : State) (f : Ctx → Ctx) : (s.modCtx f).idx = s.idx := rfl
@[simp] theorem State.modCtx_clusters (s : State) (f : Ctx → Ctx) : (s.modCtx f).clusters = s.clusters := rfl
@[simp] theorem State.modCtx_hbm (s : State) (f : Ctx → Ctx) : (s.modCtx f).hbm = s.hbm := rfl
@[simp] theorem State.modCtx_scrubs (s : State) (f : Ctx → Ctx) : (s.modCtx f).scrubs = s.scrubs := rfl
@[simp] theorem State.modCtx_poison (s : State) (f : Ctx → Ctx) : (s.modCtx f).poison = s.poison := rfl
@[simp] theorem State.modCtx_dirty (s : State) (f : Ctx → Ctx) : (s.modCtx f).dirty = s.dirty := rfl
@[simp] theorem State.modCtx_l2rng (s : State) (f : Ctx → Ctx) : (s.modCtx f).l2rng = s.l2rng := rfl
@[simp] theorem State.modCtx_l2acc (s : State) (f : Ctx → Ctx) : (s.modCtx f).l2acc = s.l2acc := rfl
@[simp] theorem State.modCtx_l2 (s : State) (f : Ctx → Ctx) : (s.modCtx f).l2 = s.l2 := rfl
@[simp] theorem State.modCtx_claims (s : State) (f : Ctx → Ctx) : (s.modCtx f).claims = s.claims := rfl
@[simp] theorem State.modCtx_barStage (s : State) (f : Ctx → Ctx) : (s.modCtx f).barStage = s.barStage := rfl
@[simp] theorem State.modCtx_hostMem (s : State) (f : Ctx → Ctx) : (s.modCtx f).hostMem = s.hostMem := rfl
@[simp] theorem State.modCtx_slices (s : State) (f : Ctx → Ctx) : (s.modCtx f).slices = s.slices := rfl
@[simp] theorem State.modCtx_slots (s : State) (f : Ctx → Ctx) : (s.modCtx f).slots = s.slots := rfl
@[simp] theorem State.modCtx_queues (s : State) (f : Ctx → Ctx) : (s.modCtx f).queues = s.queues := rfl
@[simp] theorem State.modCtx_gangs (s : State) (f : Ctx → Ctx) : (s.modCtx f).gangs = s.gangs := rfl
@[simp] theorem State.modCtx_insts (s : State) (f : Ctx → Ctx) : (s.modCtx f).insts = s.insts := rfl
@[simp] theorem State.modCtx_saved (s : State) (f : Ctx → Ctx) : (s.modCtx f).saved = s.saved := rfl
@[simp] theorem State.modCtx_nextCtx (s : State) (f : Ctx → Ctx) : (s.modCtx f).nextCtx = s.nextCtx := rfl
@[simp] theorem State.modCtx_images (s : State) (f : Ctx → Ctx) : (s.modCtx f).images = s.images := rfl
@[simp] theorem State.modCtx_prq (s : State) (f : Ctx → Ctx) : (s.modCtx f).prq = s.prq := rfl
@[simp] theorem State.modCtx_reqs (s : State) (f : Ctx → Ctx) : (s.modCtx f).reqs = s.reqs := rfl
@[simp] theorem State.modCtx_nextReq (s : State) (f : Ctx → Ctx) : (s.modCtx f).nextReq = s.nextReq := rfl
@[simp] theorem State.modCtx_walks (s : State) (f : Ctx → Ctx) : (s.modCtx f).walks = s.walks := rfl
@[simp] theorem State.modCtx_xops (s : State) (f : Ctx → Ctx) : (s.modCtx f).xops = s.xops := rfl
@[simp] theorem State.modCtx_regions (s : State) (f : Ctx → Ctx) : (s.modCtx f).regions = s.regions := rfl
@[simp] theorem State.modCtx_records (s : State) (f : Ctx → Ctx) : (s.modCtx f).records = s.records := rfl
@[simp] theorem State.modCtx_links (s : State) (f : Ctx → Ctx) : (s.modCtx f).links = s.links := rfl
@[simp] theorem State.modCtx_endpoints (s : State) (f : Ctx → Ctx) : (s.modCtx f).endpoints = s.endpoints := rfl
@[simp] theorem State.modCtx_unfitted (s : State) (f : Ctx → Ctx) : (s.modCtx f).unfitted = s.unfitted := rfl
@[simp] theorem State.modCtx_seqs (s : State) (f : Ctx → Ctx) : (s.modCtx f).seqs = s.seqs := rfl
@[simp] theorem State.modCtx_waiting (s : State) (f : Ctx → Ctx) : (s.modCtx f).waiting = s.waiting := rfl
@[simp] theorem State.modCtx_sent (s : State) (f : Ctx → Ctx) : (s.modCtx f).sent = s.sent := rfl
@[simp] theorem State.modCtx_arrived (s : State) (f : Ctx → Ctx) : (s.modCtx f).arrived = s.arrived := rfl
@[simp] theorem State.modCtx_outbound (s : State) (f : Ctx → Ctx) : (s.modCtx f).outbound = s.outbound := rfl
@[simp] theorem State.modCtx_inbound (s : State) (f : Ctx → Ctx) : (s.modCtx f).inbound = s.inbound := rfl
@[simp] theorem State.modCtx_copied (s : State) (f : Ctx → Ctx) : (s.modCtx f).copied = s.copied := rfl
@[simp] theorem State.modCtx_tier (s : State) (f : Ctx → Ctx) : (s.modCtx f).tier = s.tier := rfl
@[simp] theorem State.modCtx_dev (s : State) (f : Ctx → Ctx) : (s.modCtx f).dev = s.dev := rfl
@[simp] theorem State.modInst_pkg (s : State) (n : Nat) (f : Inst → Inst) : (s.modInst n f).pkg = s.pkg := rfl
@[simp] theorem State.modInst_cycle (s : State) (n : Nat) (f : Inst → Inst) : (s.modInst n f).cycle = s.cycle := rfl
@[simp] theorem State.modInst_gtime (s : State) (n : Nat) (f : Inst → Inst) : (s.modInst n f).gtime = s.gtime := rfl
@[simp] theorem State.modInst_gphase (s : State) (n : Nat) (f : Inst → Inst) :
    (s.modInst n f).gphase = s.gphase := rfl
@[simp] theorem State.modInst_slew (s : State) (n : Nat) (f : Inst → Inst) : (s.modInst n f).slew = s.slew := rfl
@[simp] theorem State.modInst_slewPhase (s : State) (n : Nat) (f : Inst → Inst) :
    (s.modInst n f).slewPhase = s.slewPhase := rfl
@[simp] theorem State.modInst_free (s : State) (n : Nat) (f : Inst → Inst) : (s.modInst n f).free = s.free := rfl
@[simp] theorem State.modInst_agenda (s : State) (n : Nat) (f : Inst → Inst) :
    (s.modInst n f).agenda = s.agenda := rfl
@[simp] theorem State.modInst_turn (s : State) (n : Nat) (f : Inst → Inst) : (s.modInst n f).turn = s.turn := rfl
@[simp] theorem State.modInst_focus (s : State) (n : Nat) (f : Inst → Inst) : (s.modInst n f).focus = s.focus := rfl
@[simp] theorem State.modInst_eng (s : State) (n : Nat) (f : Inst → Inst) : (s.modInst n f).eng = s.eng := rfl
@[simp] theorem State.modInst_syl (s : State) (n : Nat) (f : Inst → Inst) : (s.modInst n f).syl = s.syl := rfl
@[simp] theorem State.modInst_idx (s : State) (n : Nat) (f : Inst → Inst) : (s.modInst n f).idx = s.idx := rfl
@[simp] theorem State.modInst_cores (s : State) (n : Nat) (f : Inst → Inst) : (s.modInst n f).cores = s.cores := rfl
@[simp] theorem State.modInst_clusters (s : State) (n : Nat) (f : Inst → Inst) :
    (s.modInst n f).clusters = s.clusters := rfl
@[simp] theorem State.modInst_hbm (s : State) (n : Nat) (f : Inst → Inst) : (s.modInst n f).hbm = s.hbm := rfl
@[simp] theorem State.modInst_scrubs (s : State) (n : Nat) (f : Inst → Inst) :
    (s.modInst n f).scrubs = s.scrubs := rfl
@[simp] theorem State.modInst_poison (s : State) (n : Nat) (f : Inst → Inst) :
    (s.modInst n f).poison = s.poison := rfl
@[simp] theorem State.modInst_dirty (s : State) (n : Nat) (f : Inst → Inst) : (s.modInst n f).dirty = s.dirty := rfl
@[simp] theorem State.modInst_l2rng (s : State) (n : Nat) (f : Inst → Inst) : (s.modInst n f).l2rng = s.l2rng := rfl
@[simp] theorem State.modInst_l2acc (s : State) (n : Nat) (f : Inst → Inst) : (s.modInst n f).l2acc = s.l2acc := rfl
@[simp] theorem State.modInst_l2 (s : State) (n : Nat) (f : Inst → Inst) : (s.modInst n f).l2 = s.l2 := rfl
@[simp] theorem State.modInst_claims (s : State) (n : Nat) (f : Inst → Inst) :
    (s.modInst n f).claims = s.claims := rfl
@[simp] theorem State.modInst_barStage (s : State) (n : Nat) (f : Inst → Inst) :
    (s.modInst n f).barStage = s.barStage := rfl
@[simp] theorem State.modInst_hostMem (s : State) (n : Nat) (f : Inst → Inst) :
    (s.modInst n f).hostMem = s.hostMem := rfl
@[simp] theorem State.modInst_slices (s : State) (n : Nat) (f : Inst → Inst) :
    (s.modInst n f).slices = s.slices := rfl
@[simp] theorem State.modInst_slots (s : State) (n : Nat) (f : Inst → Inst) : (s.modInst n f).slots = s.slots := rfl
@[simp] theorem State.modInst_queues (s : State) (n : Nat) (f : Inst → Inst) :
    (s.modInst n f).queues = s.queues := rfl
@[simp] theorem State.modInst_gangs (s : State) (n : Nat) (f : Inst → Inst) : (s.modInst n f).gangs = s.gangs := rfl
@[simp] theorem State.modInst_saved (s : State) (n : Nat) (f : Inst → Inst) : (s.modInst n f).saved = s.saved := rfl
@[simp] theorem State.modInst_nextCtx (s : State) (n : Nat) (f : Inst → Inst) :
    (s.modInst n f).nextCtx = s.nextCtx := rfl
@[simp] theorem State.modInst_images (s : State) (n : Nat) (f : Inst → Inst) :
    (s.modInst n f).images = s.images := rfl
@[simp] theorem State.modInst_prq (s : State) (n : Nat) (f : Inst → Inst) : (s.modInst n f).prq = s.prq := rfl
@[simp] theorem State.modInst_reqs (s : State) (n : Nat) (f : Inst → Inst) : (s.modInst n f).reqs = s.reqs := rfl
@[simp] theorem State.modInst_nextReq (s : State) (n : Nat) (f : Inst → Inst) :
    (s.modInst n f).nextReq = s.nextReq := rfl
@[simp] theorem State.modInst_walks (s : State) (n : Nat) (f : Inst → Inst) : (s.modInst n f).walks = s.walks := rfl
@[simp] theorem State.modInst_xops (s : State) (n : Nat) (f : Inst → Inst) : (s.modInst n f).xops = s.xops := rfl
@[simp] theorem State.modInst_regions (s : State) (n : Nat) (f : Inst → Inst) :
    (s.modInst n f).regions = s.regions := rfl
@[simp] theorem State.modInst_records (s : State) (n : Nat) (f : Inst → Inst) :
    (s.modInst n f).records = s.records := rfl
@[simp] theorem State.modInst_links (s : State) (n : Nat) (f : Inst → Inst) : (s.modInst n f).links = s.links := rfl
@[simp] theorem State.modInst_endpoints (s : State) (n : Nat) (f : Inst → Inst) :
    (s.modInst n f).endpoints = s.endpoints := rfl
@[simp] theorem State.modInst_unfitted (s : State) (n : Nat) (f : Inst → Inst) :
    (s.modInst n f).unfitted = s.unfitted := rfl
@[simp] theorem State.modInst_seqs (s : State) (n : Nat) (f : Inst → Inst) : (s.modInst n f).seqs = s.seqs := rfl
@[simp] theorem State.modInst_waiting (s : State) (n : Nat) (f : Inst → Inst) :
    (s.modInst n f).waiting = s.waiting := rfl
@[simp] theorem State.modInst_sent (s : State) (n : Nat) (f : Inst → Inst) : (s.modInst n f).sent = s.sent := rfl
@[simp] theorem State.modInst_arrived (s : State) (n : Nat) (f : Inst → Inst) :
    (s.modInst n f).arrived = s.arrived := rfl
@[simp] theorem State.modInst_outbound (s : State) (n : Nat) (f : Inst → Inst) :
    (s.modInst n f).outbound = s.outbound := rfl
@[simp] theorem State.modInst_inbound (s : State) (n : Nat) (f : Inst → Inst) :
    (s.modInst n f).inbound = s.inbound := rfl
@[simp] theorem State.modInst_copied (s : State) (n : Nat) (f : Inst → Inst) :
    (s.modInst n f).copied = s.copied := rfl
@[simp] theorem State.modInst_tier (s : State) (n : Nat) (f : Inst → Inst) : (s.modInst n f).tier = s.tier := rfl
@[simp] theorem State.modInst_dev (s : State) (n : Nat) (f : Inst → Inst) : (s.modInst n f).dev = s.dev := rfl
@[simp] theorem State.land_pkg (s : State) (lat : Nat) (eff : Effect) (fl : W64) :
    (s.land lat eff fl).pkg = s.pkg := rfl
@[simp] theorem State.land_cycle (s : State) (lat : Nat) (eff : Effect) (fl : W64) :
    (s.land lat eff fl).cycle = s.cycle := rfl
@[simp] theorem State.land_gtime (s : State) (lat : Nat) (eff : Effect) (fl : W64) :
    (s.land lat eff fl).gtime = s.gtime := rfl
@[simp] theorem State.land_gphase (s : State) (lat : Nat) (eff : Effect) (fl : W64) :
    (s.land lat eff fl).gphase = s.gphase := rfl
@[simp] theorem State.land_slew (s : State) (lat : Nat) (eff : Effect) (fl : W64) :
    (s.land lat eff fl).slew = s.slew := rfl
@[simp] theorem State.land_slewPhase (s : State) (lat : Nat) (eff : Effect) (fl : W64) :
    (s.land lat eff fl).slewPhase = s.slewPhase := rfl
@[simp] theorem State.land_free (s : State) (lat : Nat) (eff : Effect) (fl : W64) :
    (s.land lat eff fl).free = s.free := rfl
@[simp] theorem State.land_agenda (s : State) (lat : Nat) (eff : Effect) (fl : W64) :
    (s.land lat eff fl).agenda = s.agenda := rfl
@[simp] theorem State.land_turn (s : State) (lat : Nat) (eff : Effect) (fl : W64) :
    (s.land lat eff fl).turn = s.turn := rfl
@[simp] theorem State.land_focus (s : State) (lat : Nat) (eff : Effect) (fl : W64) :
    (s.land lat eff fl).focus = s.focus := rfl
@[simp] theorem State.land_eng (s : State) (lat : Nat) (eff : Effect) (fl : W64) :
    (s.land lat eff fl).eng = s.eng := rfl
@[simp] theorem State.land_syl (s : State) (lat : Nat) (eff : Effect) (fl : W64) :
    (s.land lat eff fl).syl = s.syl := rfl
@[simp] theorem State.land_idx (s : State) (lat : Nat) (eff : Effect) (fl : W64) :
    (s.land lat eff fl).idx = s.idx := rfl
@[simp] theorem State.land_clusters (s : State) (lat : Nat) (eff : Effect) (fl : W64) :
    (s.land lat eff fl).clusters = s.clusters := rfl
@[simp] theorem State.land_hbm (s : State) (lat : Nat) (eff : Effect) (fl : W64) :
    (s.land lat eff fl).hbm = s.hbm := rfl
@[simp] theorem State.land_scrubs (s : State) (lat : Nat) (eff : Effect) (fl : W64) :
    (s.land lat eff fl).scrubs = s.scrubs := rfl
@[simp] theorem State.land_poison (s : State) (lat : Nat) (eff : Effect) (fl : W64) :
    (s.land lat eff fl).poison = s.poison := rfl
@[simp] theorem State.land_dirty (s : State) (lat : Nat) (eff : Effect) (fl : W64) :
    (s.land lat eff fl).dirty = s.dirty := rfl
@[simp] theorem State.land_l2rng (s : State) (lat : Nat) (eff : Effect) (fl : W64) :
    (s.land lat eff fl).l2rng = s.l2rng := rfl
@[simp] theorem State.land_l2acc (s : State) (lat : Nat) (eff : Effect) (fl : W64) :
    (s.land lat eff fl).l2acc = s.l2acc := rfl
@[simp] theorem State.land_l2 (s : State) (lat : Nat) (eff : Effect) (fl : W64) : (s.land lat eff fl).l2 = s.l2 := rfl
@[simp] theorem State.land_claims (s : State) (lat : Nat) (eff : Effect) (fl : W64) :
    (s.land lat eff fl).claims = s.claims := rfl
@[simp] theorem State.land_barStage (s : State) (lat : Nat) (eff : Effect) (fl : W64) :
    (s.land lat eff fl).barStage = s.barStage := rfl
@[simp] theorem State.land_hostMem (s : State) (lat : Nat) (eff : Effect) (fl : W64) :
    (s.land lat eff fl).hostMem = s.hostMem := rfl
@[simp] theorem State.land_slices (s : State) (lat : Nat) (eff : Effect) (fl : W64) :
    (s.land lat eff fl).slices = s.slices := rfl
@[simp] theorem State.land_slots (s : State) (lat : Nat) (eff : Effect) (fl : W64) :
    (s.land lat eff fl).slots = s.slots := rfl
@[simp] theorem State.land_queues (s : State) (lat : Nat) (eff : Effect) (fl : W64) :
    (s.land lat eff fl).queues = s.queues := rfl
@[simp] theorem State.land_gangs (s : State) (lat : Nat) (eff : Effect) (fl : W64) :
    (s.land lat eff fl).gangs = s.gangs := rfl
@[simp] theorem State.land_insts (s : State) (lat : Nat) (eff : Effect) (fl : W64) :
    (s.land lat eff fl).insts = s.insts := rfl
@[simp] theorem State.land_saved (s : State) (lat : Nat) (eff : Effect) (fl : W64) :
    (s.land lat eff fl).saved = s.saved := rfl
@[simp] theorem State.land_nextCtx (s : State) (lat : Nat) (eff : Effect) (fl : W64) :
    (s.land lat eff fl).nextCtx = s.nextCtx := rfl
@[simp] theorem State.land_images (s : State) (lat : Nat) (eff : Effect) (fl : W64) :
    (s.land lat eff fl).images = s.images := rfl
@[simp] theorem State.land_prq (s : State) (lat : Nat) (eff : Effect) (fl : W64) :
    (s.land lat eff fl).prq = s.prq := rfl
@[simp] theorem State.land_reqs (s : State) (lat : Nat) (eff : Effect) (fl : W64) :
    (s.land lat eff fl).reqs = s.reqs := rfl
@[simp] theorem State.land_nextReq (s : State) (lat : Nat) (eff : Effect) (fl : W64) :
    (s.land lat eff fl).nextReq = s.nextReq := rfl
@[simp] theorem State.land_walks (s : State) (lat : Nat) (eff : Effect) (fl : W64) :
    (s.land lat eff fl).walks = s.walks := rfl
@[simp] theorem State.land_xops (s : State) (lat : Nat) (eff : Effect) (fl : W64) :
    (s.land lat eff fl).xops = s.xops := rfl
@[simp] theorem State.land_regions (s : State) (lat : Nat) (eff : Effect) (fl : W64) :
    (s.land lat eff fl).regions = s.regions := rfl
@[simp] theorem State.land_records (s : State) (lat : Nat) (eff : Effect) (fl : W64) :
    (s.land lat eff fl).records = s.records := rfl
@[simp] theorem State.land_links (s : State) (lat : Nat) (eff : Effect) (fl : W64) :
    (s.land lat eff fl).links = s.links := rfl
@[simp] theorem State.land_endpoints (s : State) (lat : Nat) (eff : Effect) (fl : W64) :
    (s.land lat eff fl).endpoints = s.endpoints := rfl
@[simp] theorem State.land_unfitted (s : State) (lat : Nat) (eff : Effect) (fl : W64) :
    (s.land lat eff fl).unfitted = s.unfitted := rfl
@[simp] theorem State.land_seqs (s : State) (lat : Nat) (eff : Effect) (fl : W64) :
    (s.land lat eff fl).seqs = s.seqs := rfl
@[simp] theorem State.land_waiting (s : State) (lat : Nat) (eff : Effect) (fl : W64) :
    (s.land lat eff fl).waiting = s.waiting := rfl
@[simp] theorem State.land_sent (s : State) (lat : Nat) (eff : Effect) (fl : W64) :
    (s.land lat eff fl).sent = s.sent := rfl
@[simp] theorem State.land_arrived (s : State) (lat : Nat) (eff : Effect) (fl : W64) :
    (s.land lat eff fl).arrived = s.arrived := rfl
@[simp] theorem State.land_outbound (s : State) (lat : Nat) (eff : Effect) (fl : W64) :
    (s.land lat eff fl).outbound = s.outbound := rfl
@[simp] theorem State.land_inbound (s : State) (lat : Nat) (eff : Effect) (fl : W64) :
    (s.land lat eff fl).inbound = s.inbound := rfl
@[simp] theorem State.land_copied (s : State) (lat : Nat) (eff : Effect) (fl : W64) :
    (s.land lat eff fl).copied = s.copied := rfl
@[simp] theorem State.land_tier (s : State) (lat : Nat) (eff : Effect) (fl : W64) :
    (s.land lat eff fl).tier = s.tier := rfl
@[simp] theorem State.land_dev (s : State) (lat : Nat) (eff : Effect) (fl : W64) :
    (s.land lat eff fl).dev = s.dev := rfl
@[simp] theorem State.later_pkg (s : State) (c : Nat) (l : Late) : (s.later c l).pkg = s.pkg := rfl
@[simp] theorem State.later_cycle (s : State) (c : Nat) (l : Late) : (s.later c l).cycle = s.cycle := rfl
@[simp] theorem State.later_gtime (s : State) (c : Nat) (l : Late) : (s.later c l).gtime = s.gtime := rfl
@[simp] theorem State.later_gphase (s : State) (c : Nat) (l : Late) : (s.later c l).gphase = s.gphase := rfl
@[simp] theorem State.later_slew (s : State) (c : Nat) (l : Late) : (s.later c l).slew = s.slew := rfl
@[simp] theorem State.later_slewPhase (s : State) (c : Nat) (l : Late) : (s.later c l).slewPhase = s.slewPhase := rfl
@[simp] theorem State.later_free (s : State) (c : Nat) (l : Late) : (s.later c l).free = s.free := rfl
@[simp] theorem State.later_agenda (s : State) (c : Nat) (l : Late) : (s.later c l).agenda = s.agenda := rfl
@[simp] theorem State.later_turn (s : State) (c : Nat) (l : Late) : (s.later c l).turn = s.turn := rfl
@[simp] theorem State.later_focus (s : State) (c : Nat) (l : Late) : (s.later c l).focus = s.focus := rfl
@[simp] theorem State.later_eng (s : State) (c : Nat) (l : Late) : (s.later c l).eng = s.eng := rfl
@[simp] theorem State.later_syl (s : State) (c : Nat) (l : Late) : (s.later c l).syl = s.syl := rfl
@[simp] theorem State.later_idx (s : State) (c : Nat) (l : Late) : (s.later c l).idx = s.idx := rfl
@[simp] theorem State.later_clusters (s : State) (c : Nat) (l : Late) : (s.later c l).clusters = s.clusters := rfl
@[simp] theorem State.later_hbm (s : State) (c : Nat) (l : Late) : (s.later c l).hbm = s.hbm := rfl
@[simp] theorem State.later_scrubs (s : State) (c : Nat) (l : Late) : (s.later c l).scrubs = s.scrubs := rfl
@[simp] theorem State.later_poison (s : State) (c : Nat) (l : Late) : (s.later c l).poison = s.poison := rfl
@[simp] theorem State.later_dirty (s : State) (c : Nat) (l : Late) : (s.later c l).dirty = s.dirty := rfl
@[simp] theorem State.later_l2rng (s : State) (c : Nat) (l : Late) : (s.later c l).l2rng = s.l2rng := rfl
@[simp] theorem State.later_l2acc (s : State) (c : Nat) (l : Late) : (s.later c l).l2acc = s.l2acc := rfl
@[simp] theorem State.later_l2 (s : State) (c : Nat) (l : Late) : (s.later c l).l2 = s.l2 := rfl
@[simp] theorem State.later_claims (s : State) (c : Nat) (l : Late) : (s.later c l).claims = s.claims := rfl
@[simp] theorem State.later_barStage (s : State) (c : Nat) (l : Late) : (s.later c l).barStage = s.barStage := rfl
@[simp] theorem State.later_hostMem (s : State) (c : Nat) (l : Late) : (s.later c l).hostMem = s.hostMem := rfl
@[simp] theorem State.later_slices (s : State) (c : Nat) (l : Late) : (s.later c l).slices = s.slices := rfl
@[simp] theorem State.later_slots (s : State) (c : Nat) (l : Late) : (s.later c l).slots = s.slots := rfl
@[simp] theorem State.later_queues (s : State) (c : Nat) (l : Late) : (s.later c l).queues = s.queues := rfl
@[simp] theorem State.later_gangs (s : State) (c : Nat) (l : Late) : (s.later c l).gangs = s.gangs := rfl
@[simp] theorem State.later_insts (s : State) (c : Nat) (l : Late) : (s.later c l).insts = s.insts := rfl
@[simp] theorem State.later_saved (s : State) (c : Nat) (l : Late) : (s.later c l).saved = s.saved := rfl
@[simp] theorem State.later_nextCtx (s : State) (c : Nat) (l : Late) : (s.later c l).nextCtx = s.nextCtx := rfl
@[simp] theorem State.later_images (s : State) (c : Nat) (l : Late) : (s.later c l).images = s.images := rfl
@[simp] theorem State.later_prq (s : State) (c : Nat) (l : Late) : (s.later c l).prq = s.prq := rfl
@[simp] theorem State.later_reqs (s : State) (c : Nat) (l : Late) : (s.later c l).reqs = s.reqs := rfl
@[simp] theorem State.later_nextReq (s : State) (c : Nat) (l : Late) : (s.later c l).nextReq = s.nextReq := rfl
@[simp] theorem State.later_walks (s : State) (c : Nat) (l : Late) : (s.later c l).walks = s.walks := rfl
@[simp] theorem State.later_xops (s : State) (c : Nat) (l : Late) : (s.later c l).xops = s.xops := rfl
@[simp] theorem State.later_regions (s : State) (c : Nat) (l : Late) : (s.later c l).regions = s.regions := rfl
@[simp] theorem State.later_records (s : State) (c : Nat) (l : Late) : (s.later c l).records = s.records := rfl
@[simp] theorem State.later_links (s : State) (c : Nat) (l : Late) : (s.later c l).links = s.links := rfl
@[simp] theorem State.later_endpoints (s : State) (c : Nat) (l : Late) : (s.later c l).endpoints = s.endpoints := rfl
@[simp] theorem State.later_unfitted (s : State) (c : Nat) (l : Late) : (s.later c l).unfitted = s.unfitted := rfl
@[simp] theorem State.later_seqs (s : State) (c : Nat) (l : Late) : (s.later c l).seqs = s.seqs := rfl
@[simp] theorem State.later_waiting (s : State) (c : Nat) (l : Late) : (s.later c l).waiting = s.waiting := rfl
@[simp] theorem State.later_sent (s : State) (c : Nat) (l : Late) : (s.later c l).sent = s.sent := rfl
@[simp] theorem State.later_arrived (s : State) (c : Nat) (l : Late) : (s.later c l).arrived = s.arrived := rfl
@[simp] theorem State.later_outbound (s : State) (c : Nat) (l : Late) : (s.later c l).outbound = s.outbound := rfl
@[simp] theorem State.later_inbound (s : State) (c : Nat) (l : Late) : (s.later c l).inbound = s.inbound := rfl
@[simp] theorem State.later_copied (s : State) (c : Nat) (l : Late) : (s.later c l).copied = s.copied := rfl
@[simp] theorem State.later_tier (s : State) (c : Nat) (l : Late) : (s.later c l).tier = s.tier := rfl
@[simp] theorem State.later_dev (s : State) (c : Nat) (l : Late) : (s.later c l).dev = s.dev := rfl
@[simp] theorem State.enterOp_pkg (s : State) (o : PendOp) (b : Bool) : (s.enterOp o b).pkg = s.pkg := rfl
@[simp] theorem State.enterOp_cycle (s : State) (o : PendOp) (b : Bool) : (s.enterOp o b).cycle = s.cycle := rfl
@[simp] theorem State.enterOp_gtime (s : State) (o : PendOp) (b : Bool) : (s.enterOp o b).gtime = s.gtime := rfl
@[simp] theorem State.enterOp_gphase (s : State) (o : PendOp) (b : Bool) : (s.enterOp o b).gphase = s.gphase := rfl
@[simp] theorem State.enterOp_slew (s : State) (o : PendOp) (b : Bool) : (s.enterOp o b).slew = s.slew := rfl
@[simp] theorem State.enterOp_slewPhase (s : State) (o : PendOp) (b : Bool) :
    (s.enterOp o b).slewPhase = s.slewPhase := rfl
@[simp] theorem State.enterOp_free (s : State) (o : PendOp) (b : Bool) : (s.enterOp o b).free = s.free := rfl
@[simp] theorem State.enterOp_agenda (s : State) (o : PendOp) (b : Bool) : (s.enterOp o b).agenda = s.agenda := rfl
@[simp] theorem State.enterOp_turn (s : State) (o : PendOp) (b : Bool) : (s.enterOp o b).turn = s.turn := rfl
@[simp] theorem State.enterOp_focus (s : State) (o : PendOp) (b : Bool) : (s.enterOp o b).focus = s.focus := rfl
@[simp] theorem State.enterOp_eng (s : State) (o : PendOp) (b : Bool) : (s.enterOp o b).eng = s.eng := rfl
@[simp] theorem State.enterOp_syl (s : State) (o : PendOp) (b : Bool) : (s.enterOp o b).syl = s.syl := rfl
@[simp] theorem State.enterOp_idx (s : State) (o : PendOp) (b : Bool) : (s.enterOp o b).idx = s.idx := rfl
@[simp] theorem State.enterOp_clusters (s : State) (o : PendOp) (b : Bool) :
    (s.enterOp o b).clusters = s.clusters := rfl
@[simp] theorem State.enterOp_hbm (s : State) (o : PendOp) (b : Bool) : (s.enterOp o b).hbm = s.hbm := rfl
@[simp] theorem State.enterOp_scrubs (s : State) (o : PendOp) (b : Bool) : (s.enterOp o b).scrubs = s.scrubs := rfl
@[simp] theorem State.enterOp_poison (s : State) (o : PendOp) (b : Bool) : (s.enterOp o b).poison = s.poison := rfl
@[simp] theorem State.enterOp_dirty (s : State) (o : PendOp) (b : Bool) : (s.enterOp o b).dirty = s.dirty := rfl
@[simp] theorem State.enterOp_l2rng (s : State) (o : PendOp) (b : Bool) : (s.enterOp o b).l2rng = s.l2rng := rfl
@[simp] theorem State.enterOp_l2acc (s : State) (o : PendOp) (b : Bool) : (s.enterOp o b).l2acc = s.l2acc := rfl
@[simp] theorem State.enterOp_l2 (s : State) (o : PendOp) (b : Bool) : (s.enterOp o b).l2 = s.l2 := rfl
@[simp] theorem State.enterOp_claims (s : State) (o : PendOp) (b : Bool) : (s.enterOp o b).claims = s.claims := rfl
@[simp] theorem State.enterOp_barStage (s : State) (o : PendOp) (b : Bool) :
    (s.enterOp o b).barStage = s.barStage := rfl
@[simp] theorem State.enterOp_hostMem (s : State) (o : PendOp) (b : Bool) : (s.enterOp o b).hostMem = s.hostMem := rfl
@[simp] theorem State.enterOp_slices (s : State) (o : PendOp) (b : Bool) : (s.enterOp o b).slices = s.slices := rfl
@[simp] theorem State.enterOp_slots (s : State) (o : PendOp) (b : Bool) : (s.enterOp o b).slots = s.slots := rfl
@[simp] theorem State.enterOp_queues (s : State) (o : PendOp) (b : Bool) : (s.enterOp o b).queues = s.queues := rfl
@[simp] theorem State.enterOp_gangs (s : State) (o : PendOp) (b : Bool) : (s.enterOp o b).gangs = s.gangs := rfl
@[simp] theorem State.enterOp_insts (s : State) (o : PendOp) (b : Bool) : (s.enterOp o b).insts = s.insts := rfl
@[simp] theorem State.enterOp_saved (s : State) (o : PendOp) (b : Bool) : (s.enterOp o b).saved = s.saved := rfl
@[simp] theorem State.enterOp_nextCtx (s : State) (o : PendOp) (b : Bool) : (s.enterOp o b).nextCtx = s.nextCtx := rfl
@[simp] theorem State.enterOp_images (s : State) (o : PendOp) (b : Bool) : (s.enterOp o b).images = s.images := rfl
@[simp] theorem State.enterOp_prq (s : State) (o : PendOp) (b : Bool) : (s.enterOp o b).prq = s.prq := rfl
@[simp] theorem State.enterOp_reqs (s : State) (o : PendOp) (b : Bool) : (s.enterOp o b).reqs = s.reqs := rfl
@[simp] theorem State.enterOp_nextReq (s : State) (o : PendOp) (b : Bool) : (s.enterOp o b).nextReq = s.nextReq := rfl
@[simp] theorem State.enterOp_walks (s : State) (o : PendOp) (b : Bool) : (s.enterOp o b).walks = s.walks := rfl
@[simp] theorem State.enterOp_xops (s : State) (o : PendOp) (b : Bool) : (s.enterOp o b).xops = s.xops := rfl
@[simp] theorem State.enterOp_regions (s : State) (o : PendOp) (b : Bool) : (s.enterOp o b).regions = s.regions := rfl
@[simp] theorem State.enterOp_records (s : State) (o : PendOp) (b : Bool) : (s.enterOp o b).records = s.records := rfl
@[simp] theorem State.enterOp_links (s : State) (o : PendOp) (b : Bool) : (s.enterOp o b).links = s.links := rfl
@[simp] theorem State.enterOp_endpoints (s : State) (o : PendOp) (b : Bool) :
    (s.enterOp o b).endpoints = s.endpoints := rfl
@[simp] theorem State.enterOp_unfitted (s : State) (o : PendOp) (b : Bool) :
    (s.enterOp o b).unfitted = s.unfitted := rfl
@[simp] theorem State.enterOp_seqs (s : State) (o : PendOp) (b : Bool) : (s.enterOp o b).seqs = s.seqs := rfl
@[simp] theorem State.enterOp_waiting (s : State) (o : PendOp) (b : Bool) : (s.enterOp o b).waiting = s.waiting := rfl
@[simp] theorem State.enterOp_sent (s : State) (o : PendOp) (b : Bool) : (s.enterOp o b).sent = s.sent := rfl
@[simp] theorem State.enterOp_arrived (s : State) (o : PendOp) (b : Bool) : (s.enterOp o b).arrived = s.arrived := rfl
@[simp] theorem State.enterOp_outbound (s : State) (o : PendOp) (b : Bool) :
    (s.enterOp o b).outbound = s.outbound := rfl
@[simp] theorem State.enterOp_inbound (s : State) (o : PendOp) (b : Bool) : (s.enterOp o b).inbound = s.inbound := rfl
@[simp] theorem State.enterOp_copied (s : State) (o : PendOp) (b : Bool) : (s.enterOp o b).copied = s.copied := rfl
@[simp] theorem State.enterOp_tier (s : State) (o : PendOp) (b : Bool) : (s.enterOp o b).tier = s.tier := rfl
@[simp] theorem State.enterOp_dev (s : State) (o : PendOp) (b : Bool) : (s.enterOp o b).dev = s.dev := rfl
@[simp] theorem State.finish_pkg (s : State) (c : Nat) (e : Engine) (n : Nat) : (s.finish c e n).pkg = s.pkg := rfl
@[simp] theorem State.finish_cycle (s : State) (c : Nat) (e : Engine) (n : Nat) :
    (s.finish c e n).cycle = s.cycle := rfl
@[simp] theorem State.finish_gtime (s : State) (c : Nat) (e : Engine) (n : Nat) :
    (s.finish c e n).gtime = s.gtime := rfl
@[simp] theorem State.finish_gphase (s : State) (c : Nat) (e : Engine) (n : Nat) :
    (s.finish c e n).gphase = s.gphase := rfl
@[simp] theorem State.finish_slew (s : State) (c : Nat) (e : Engine) (n : Nat) : (s.finish c e n).slew = s.slew := rfl
@[simp] theorem State.finish_slewPhase (s : State) (c : Nat) (e : Engine) (n : Nat) :
    (s.finish c e n).slewPhase = s.slewPhase := rfl
@[simp] theorem State.finish_free (s : State) (c : Nat) (e : Engine) (n : Nat) : (s.finish c e n).free = s.free := rfl
@[simp] theorem State.finish_agenda (s : State) (c : Nat) (e : Engine) (n : Nat) :
    (s.finish c e n).agenda = s.agenda := rfl
@[simp] theorem State.finish_turn (s : State) (c : Nat) (e : Engine) (n : Nat) : (s.finish c e n).turn = s.turn := rfl
@[simp] theorem State.finish_focus (s : State) (c : Nat) (e : Engine) (n : Nat) :
    (s.finish c e n).focus = s.focus := rfl
@[simp] theorem State.finish_eng (s : State) (c : Nat) (e : Engine) (n : Nat) : (s.finish c e n).eng = s.eng := rfl
@[simp] theorem State.finish_syl (s : State) (c : Nat) (e : Engine) (n : Nat) : (s.finish c e n).syl = s.syl := rfl
@[simp] theorem State.finish_idx (s : State) (c : Nat) (e : Engine) (n : Nat) : (s.finish c e n).idx = s.idx := rfl
@[simp] theorem State.finish_clusters (s : State) (c : Nat) (e : Engine) (n : Nat) :
    (s.finish c e n).clusters = s.clusters := rfl
@[simp] theorem State.finish_hbm (s : State) (c : Nat) (e : Engine) (n : Nat) : (s.finish c e n).hbm = s.hbm := rfl
@[simp] theorem State.finish_scrubs (s : State) (c : Nat) (e : Engine) (n : Nat) :
    (s.finish c e n).scrubs = s.scrubs := rfl
@[simp] theorem State.finish_poison (s : State) (c : Nat) (e : Engine) (n : Nat) :
    (s.finish c e n).poison = s.poison := rfl
@[simp] theorem State.finish_dirty (s : State) (c : Nat) (e : Engine) (n : Nat) :
    (s.finish c e n).dirty = s.dirty := rfl
@[simp] theorem State.finish_l2rng (s : State) (c : Nat) (e : Engine) (n : Nat) :
    (s.finish c e n).l2rng = s.l2rng := rfl
@[simp] theorem State.finish_l2acc (s : State) (c : Nat) (e : Engine) (n : Nat) :
    (s.finish c e n).l2acc = s.l2acc := rfl
@[simp] theorem State.finish_l2 (s : State) (c : Nat) (e : Engine) (n : Nat) : (s.finish c e n).l2 = s.l2 := rfl
@[simp] theorem State.finish_claims (s : State) (c : Nat) (e : Engine) (n : Nat) :
    (s.finish c e n).claims = s.claims := rfl
@[simp] theorem State.finish_barStage (s : State) (c : Nat) (e : Engine) (n : Nat) :
    (s.finish c e n).barStage = s.barStage := rfl
@[simp] theorem State.finish_hostMem (s : State) (c : Nat) (e : Engine) (n : Nat) :
    (s.finish c e n).hostMem = s.hostMem := rfl
@[simp] theorem State.finish_slices (s : State) (c : Nat) (e : Engine) (n : Nat) :
    (s.finish c e n).slices = s.slices := rfl
@[simp] theorem State.finish_slots (s : State) (c : Nat) (e : Engine) (n : Nat) :
    (s.finish c e n).slots = s.slots := rfl
@[simp] theorem State.finish_queues (s : State) (c : Nat) (e : Engine) (n : Nat) :
    (s.finish c e n).queues = s.queues := rfl
@[simp] theorem State.finish_gangs (s : State) (c : Nat) (e : Engine) (n : Nat) :
    (s.finish c e n).gangs = s.gangs := rfl
@[simp] theorem State.finish_insts (s : State) (c : Nat) (e : Engine) (n : Nat) :
    (s.finish c e n).insts = s.insts := rfl
@[simp] theorem State.finish_saved (s : State) (c : Nat) (e : Engine) (n : Nat) :
    (s.finish c e n).saved = s.saved := rfl
@[simp] theorem State.finish_nextCtx (s : State) (c : Nat) (e : Engine) (n : Nat) :
    (s.finish c e n).nextCtx = s.nextCtx := rfl
@[simp] theorem State.finish_images (s : State) (c : Nat) (e : Engine) (n : Nat) :
    (s.finish c e n).images = s.images := rfl
@[simp] theorem State.finish_prq (s : State) (c : Nat) (e : Engine) (n : Nat) : (s.finish c e n).prq = s.prq := rfl
@[simp] theorem State.finish_reqs (s : State) (c : Nat) (e : Engine) (n : Nat) : (s.finish c e n).reqs = s.reqs := rfl
@[simp] theorem State.finish_nextReq (s : State) (c : Nat) (e : Engine) (n : Nat) :
    (s.finish c e n).nextReq = s.nextReq := rfl
@[simp] theorem State.finish_walks (s : State) (c : Nat) (e : Engine) (n : Nat) :
    (s.finish c e n).walks = s.walks := rfl
@[simp] theorem State.finish_xops (s : State) (c : Nat) (e : Engine) (n : Nat) : (s.finish c e n).xops = s.xops := rfl
@[simp] theorem State.finish_regions (s : State) (c : Nat) (e : Engine) (n : Nat) :
    (s.finish c e n).regions = s.regions := rfl
@[simp] theorem State.finish_records (s : State) (c : Nat) (e : Engine) (n : Nat) :
    (s.finish c e n).records = s.records := rfl
@[simp] theorem State.finish_links (s : State) (c : Nat) (e : Engine) (n : Nat) :
    (s.finish c e n).links = s.links := rfl
@[simp] theorem State.finish_endpoints (s : State) (c : Nat) (e : Engine) (n : Nat) :
    (s.finish c e n).endpoints = s.endpoints := rfl
@[simp] theorem State.finish_unfitted (s : State) (c : Nat) (e : Engine) (n : Nat) :
    (s.finish c e n).unfitted = s.unfitted := rfl
@[simp] theorem State.finish_seqs (s : State) (c : Nat) (e : Engine) (n : Nat) : (s.finish c e n).seqs = s.seqs := rfl
@[simp] theorem State.finish_waiting (s : State) (c : Nat) (e : Engine) (n : Nat) :
    (s.finish c e n).waiting = s.waiting := rfl
@[simp] theorem State.finish_sent (s : State) (c : Nat) (e : Engine) (n : Nat) : (s.finish c e n).sent = s.sent := rfl
@[simp] theorem State.finish_arrived (s : State) (c : Nat) (e : Engine) (n : Nat) :
    (s.finish c e n).arrived = s.arrived := rfl
@[simp] theorem State.finish_outbound (s : State) (c : Nat) (e : Engine) (n : Nat) :
    (s.finish c e n).outbound = s.outbound := rfl
@[simp] theorem State.finish_inbound (s : State) (c : Nat) (e : Engine) (n : Nat) :
    (s.finish c e n).inbound = s.inbound := rfl
@[simp] theorem State.finish_copied (s : State) (c : Nat) (e : Engine) (n : Nat) :
    (s.finish c e n).copied = s.copied := rfl
@[simp] theorem State.finish_tier (s : State) (c : Nat) (e : Engine) (n : Nat) : (s.finish c e n).tier = s.tier := rfl
@[simp] theorem State.finish_dev (s : State) (c : Nat) (e : Engine) (n : Nat) : (s.finish c e n).dev = s.dev := rfl
@[simp] theorem State.modOp_pkg (s : State) (c : Nat) (e : Engine) (n : Nat) (f : PendOp → PendOp) :
    (s.modOp c e n f).pkg = s.pkg := rfl
@[simp] theorem State.modOp_cycle (s : State) (c : Nat) (e : Engine) (n : Nat) (f : PendOp → PendOp) :
    (s.modOp c e n f).cycle = s.cycle := rfl
@[simp] theorem State.modOp_gtime (s : State) (c : Nat) (e : Engine) (n : Nat) (f : PendOp → PendOp) :
    (s.modOp c e n f).gtime = s.gtime := rfl
@[simp] theorem State.modOp_gphase (s : State) (c : Nat) (e : Engine) (n : Nat) (f : PendOp → PendOp) :
    (s.modOp c e n f).gphase = s.gphase := rfl
@[simp] theorem State.modOp_slew (s : State) (c : Nat) (e : Engine) (n : Nat) (f : PendOp → PendOp) :
    (s.modOp c e n f).slew = s.slew := rfl
@[simp] theorem State.modOp_slewPhase (s : State) (c : Nat) (e : Engine) (n : Nat) (f : PendOp → PendOp) :
    (s.modOp c e n f).slewPhase = s.slewPhase := rfl
@[simp] theorem State.modOp_free (s : State) (c : Nat) (e : Engine) (n : Nat) (f : PendOp → PendOp) :
    (s.modOp c e n f).free = s.free := rfl
@[simp] theorem State.modOp_agenda (s : State) (c : Nat) (e : Engine) (n : Nat) (f : PendOp → PendOp) :
    (s.modOp c e n f).agenda = s.agenda := rfl
@[simp] theorem State.modOp_turn (s : State) (c : Nat) (e : Engine) (n : Nat) (f : PendOp → PendOp) :
    (s.modOp c e n f).turn = s.turn := rfl
@[simp] theorem State.modOp_focus (s : State) (c : Nat) (e : Engine) (n : Nat) (f : PendOp → PendOp) :
    (s.modOp c e n f).focus = s.focus := rfl
@[simp] theorem State.modOp_eng (s : State) (c : Nat) (e : Engine) (n : Nat) (f : PendOp → PendOp) :
    (s.modOp c e n f).eng = s.eng := rfl
@[simp] theorem State.modOp_syl (s : State) (c : Nat) (e : Engine) (n : Nat) (f : PendOp → PendOp) :
    (s.modOp c e n f).syl = s.syl := rfl
@[simp] theorem State.modOp_idx (s : State) (c : Nat) (e : Engine) (n : Nat) (f : PendOp → PendOp) :
    (s.modOp c e n f).idx = s.idx := rfl
@[simp] theorem State.modOp_clusters (s : State) (c : Nat) (e : Engine) (n : Nat) (f : PendOp → PendOp) :
    (s.modOp c e n f).clusters = s.clusters := rfl
@[simp] theorem State.modOp_hbm (s : State) (c : Nat) (e : Engine) (n : Nat) (f : PendOp → PendOp) :
    (s.modOp c e n f).hbm = s.hbm := rfl
@[simp] theorem State.modOp_scrubs (s : State) (c : Nat) (e : Engine) (n : Nat) (f : PendOp → PendOp) :
    (s.modOp c e n f).scrubs = s.scrubs := rfl
@[simp] theorem State.modOp_poison (s : State) (c : Nat) (e : Engine) (n : Nat) (f : PendOp → PendOp) :
    (s.modOp c e n f).poison = s.poison := rfl
@[simp] theorem State.modOp_dirty (s : State) (c : Nat) (e : Engine) (n : Nat) (f : PendOp → PendOp) :
    (s.modOp c e n f).dirty = s.dirty := rfl
@[simp] theorem State.modOp_l2rng (s : State) (c : Nat) (e : Engine) (n : Nat) (f : PendOp → PendOp) :
    (s.modOp c e n f).l2rng = s.l2rng := rfl
@[simp] theorem State.modOp_l2acc (s : State) (c : Nat) (e : Engine) (n : Nat) (f : PendOp → PendOp) :
    (s.modOp c e n f).l2acc = s.l2acc := rfl
@[simp] theorem State.modOp_l2 (s : State) (c : Nat) (e : Engine) (n : Nat) (f : PendOp → PendOp) :
    (s.modOp c e n f).l2 = s.l2 := rfl
@[simp] theorem State.modOp_claims (s : State) (c : Nat) (e : Engine) (n : Nat) (f : PendOp → PendOp) :
    (s.modOp c e n f).claims = s.claims := rfl
@[simp] theorem State.modOp_barStage (s : State) (c : Nat) (e : Engine) (n : Nat) (f : PendOp → PendOp) :
    (s.modOp c e n f).barStage = s.barStage := rfl
@[simp] theorem State.modOp_hostMem (s : State) (c : Nat) (e : Engine) (n : Nat) (f : PendOp → PendOp) :
    (s.modOp c e n f).hostMem = s.hostMem := rfl
@[simp] theorem State.modOp_slices (s : State) (c : Nat) (e : Engine) (n : Nat) (f : PendOp → PendOp) :
    (s.modOp c e n f).slices = s.slices := rfl
@[simp] theorem State.modOp_slots (s : State) (c : Nat) (e : Engine) (n : Nat) (f : PendOp → PendOp) :
    (s.modOp c e n f).slots = s.slots := rfl
@[simp] theorem State.modOp_queues (s : State) (c : Nat) (e : Engine) (n : Nat) (f : PendOp → PendOp) :
    (s.modOp c e n f).queues = s.queues := rfl
@[simp] theorem State.modOp_gangs (s : State) (c : Nat) (e : Engine) (n : Nat) (f : PendOp → PendOp) :
    (s.modOp c e n f).gangs = s.gangs := rfl
@[simp] theorem State.modOp_insts (s : State) (c : Nat) (e : Engine) (n : Nat) (f : PendOp → PendOp) :
    (s.modOp c e n f).insts = s.insts := rfl
@[simp] theorem State.modOp_saved (s : State) (c : Nat) (e : Engine) (n : Nat) (f : PendOp → PendOp) :
    (s.modOp c e n f).saved = s.saved := rfl
@[simp] theorem State.modOp_nextCtx (s : State) (c : Nat) (e : Engine) (n : Nat) (f : PendOp → PendOp) :
    (s.modOp c e n f).nextCtx = s.nextCtx := rfl
@[simp] theorem State.modOp_images (s : State) (c : Nat) (e : Engine) (n : Nat) (f : PendOp → PendOp) :
    (s.modOp c e n f).images = s.images := rfl
@[simp] theorem State.modOp_prq (s : State) (c : Nat) (e : Engine) (n : Nat) (f : PendOp → PendOp) :
    (s.modOp c e n f).prq = s.prq := rfl
@[simp] theorem State.modOp_reqs (s : State) (c : Nat) (e : Engine) (n : Nat) (f : PendOp → PendOp) :
    (s.modOp c e n f).reqs = s.reqs := rfl
@[simp] theorem State.modOp_nextReq (s : State) (c : Nat) (e : Engine) (n : Nat) (f : PendOp → PendOp) :
    (s.modOp c e n f).nextReq = s.nextReq := rfl
@[simp] theorem State.modOp_walks (s : State) (c : Nat) (e : Engine) (n : Nat) (f : PendOp → PendOp) :
    (s.modOp c e n f).walks = s.walks := rfl
@[simp] theorem State.modOp_xops (s : State) (c : Nat) (e : Engine) (n : Nat) (f : PendOp → PendOp) :
    (s.modOp c e n f).xops = s.xops := rfl
@[simp] theorem State.modOp_regions (s : State) (c : Nat) (e : Engine) (n : Nat) (f : PendOp → PendOp) :
    (s.modOp c e n f).regions = s.regions := rfl
@[simp] theorem State.modOp_records (s : State) (c : Nat) (e : Engine) (n : Nat) (f : PendOp → PendOp) :
    (s.modOp c e n f).records = s.records := rfl
@[simp] theorem State.modOp_links (s : State) (c : Nat) (e : Engine) (n : Nat) (f : PendOp → PendOp) :
    (s.modOp c e n f).links = s.links := rfl
@[simp] theorem State.modOp_endpoints (s : State) (c : Nat) (e : Engine) (n : Nat) (f : PendOp → PendOp) :
    (s.modOp c e n f).endpoints = s.endpoints := rfl
@[simp] theorem State.modOp_unfitted (s : State) (c : Nat) (e : Engine) (n : Nat) (f : PendOp → PendOp) :
    (s.modOp c e n f).unfitted = s.unfitted := rfl
@[simp] theorem State.modOp_seqs (s : State) (c : Nat) (e : Engine) (n : Nat) (f : PendOp → PendOp) :
    (s.modOp c e n f).seqs = s.seqs := rfl
@[simp] theorem State.modOp_waiting (s : State) (c : Nat) (e : Engine) (n : Nat) (f : PendOp → PendOp) :
    (s.modOp c e n f).waiting = s.waiting := rfl
@[simp] theorem State.modOp_sent (s : State) (c : Nat) (e : Engine) (n : Nat) (f : PendOp → PendOp) :
    (s.modOp c e n f).sent = s.sent := rfl
@[simp] theorem State.modOp_arrived (s : State) (c : Nat) (e : Engine) (n : Nat) (f : PendOp → PendOp) :
    (s.modOp c e n f).arrived = s.arrived := rfl
@[simp] theorem State.modOp_outbound (s : State) (c : Nat) (e : Engine) (n : Nat) (f : PendOp → PendOp) :
    (s.modOp c e n f).outbound = s.outbound := rfl
@[simp] theorem State.modOp_inbound (s : State) (c : Nat) (e : Engine) (n : Nat) (f : PendOp → PendOp) :
    (s.modOp c e n f).inbound = s.inbound := rfl
@[simp] theorem State.modOp_copied (s : State) (c : Nat) (e : Engine) (n : Nat) (f : PendOp → PendOp) :
    (s.modOp c e n f).copied = s.copied := rfl
@[simp] theorem State.modOp_tier (s : State) (c : Nat) (e : Engine) (n : Nat) (f : PendOp → PendOp) :
    (s.modOp c e n f).tier = s.tier := rfl
@[simp] theorem State.modOp_dev (s : State) (c : Nat) (e : Engine) (n : Nat) (f : PendOp → PendOp) :
    (s.modOp c e n f).dev = s.dev := rfl
@[simp] theorem State.setMpc_pkg (s : State) (c : Nat) (e : Engine) (n : Nat) (v : W64) :
    (s.setMpc c e n v).pkg = s.pkg := rfl
@[simp] theorem State.setMpc_cycle (s : State) (c : Nat) (e : Engine) (n : Nat) (v : W64) :
    (s.setMpc c e n v).cycle = s.cycle := rfl
@[simp] theorem State.setMpc_gtime (s : State) (c : Nat) (e : Engine) (n : Nat) (v : W64) :
    (s.setMpc c e n v).gtime = s.gtime := rfl
@[simp] theorem State.setMpc_gphase (s : State) (c : Nat) (e : Engine) (n : Nat) (v : W64) :
    (s.setMpc c e n v).gphase = s.gphase := rfl
@[simp] theorem State.setMpc_slew (s : State) (c : Nat) (e : Engine) (n : Nat) (v : W64) :
    (s.setMpc c e n v).slew = s.slew := rfl
@[simp] theorem State.setMpc_slewPhase (s : State) (c : Nat) (e : Engine) (n : Nat) (v : W64) :
    (s.setMpc c e n v).slewPhase = s.slewPhase := rfl
@[simp] theorem State.setMpc_free (s : State) (c : Nat) (e : Engine) (n : Nat) (v : W64) :
    (s.setMpc c e n v).free = s.free := rfl
@[simp] theorem State.setMpc_agenda (s : State) (c : Nat) (e : Engine) (n : Nat) (v : W64) :
    (s.setMpc c e n v).agenda = s.agenda := rfl
@[simp] theorem State.setMpc_turn (s : State) (c : Nat) (e : Engine) (n : Nat) (v : W64) :
    (s.setMpc c e n v).turn = s.turn := rfl
@[simp] theorem State.setMpc_focus (s : State) (c : Nat) (e : Engine) (n : Nat) (v : W64) :
    (s.setMpc c e n v).focus = s.focus := rfl
@[simp] theorem State.setMpc_eng (s : State) (c : Nat) (e : Engine) (n : Nat) (v : W64) :
    (s.setMpc c e n v).eng = s.eng := rfl
@[simp] theorem State.setMpc_syl (s : State) (c : Nat) (e : Engine) (n : Nat) (v : W64) :
    (s.setMpc c e n v).syl = s.syl := rfl
@[simp] theorem State.setMpc_idx (s : State) (c : Nat) (e : Engine) (n : Nat) (v : W64) :
    (s.setMpc c e n v).idx = s.idx := rfl
@[simp] theorem State.setMpc_clusters (s : State) (c : Nat) (e : Engine) (n : Nat) (v : W64) :
    (s.setMpc c e n v).clusters = s.clusters := rfl
@[simp] theorem State.setMpc_hbm (s : State) (c : Nat) (e : Engine) (n : Nat) (v : W64) :
    (s.setMpc c e n v).hbm = s.hbm := rfl
@[simp] theorem State.setMpc_scrubs (s : State) (c : Nat) (e : Engine) (n : Nat) (v : W64) :
    (s.setMpc c e n v).scrubs = s.scrubs := rfl
@[simp] theorem State.setMpc_poison (s : State) (c : Nat) (e : Engine) (n : Nat) (v : W64) :
    (s.setMpc c e n v).poison = s.poison := rfl
@[simp] theorem State.setMpc_dirty (s : State) (c : Nat) (e : Engine) (n : Nat) (v : W64) :
    (s.setMpc c e n v).dirty = s.dirty := rfl
@[simp] theorem State.setMpc_l2rng (s : State) (c : Nat) (e : Engine) (n : Nat) (v : W64) :
    (s.setMpc c e n v).l2rng = s.l2rng := rfl
@[simp] theorem State.setMpc_l2acc (s : State) (c : Nat) (e : Engine) (n : Nat) (v : W64) :
    (s.setMpc c e n v).l2acc = s.l2acc := rfl
@[simp] theorem State.setMpc_l2 (s : State) (c : Nat) (e : Engine) (n : Nat) (v : W64) :
    (s.setMpc c e n v).l2 = s.l2 := rfl
@[simp] theorem State.setMpc_claims (s : State) (c : Nat) (e : Engine) (n : Nat) (v : W64) :
    (s.setMpc c e n v).claims = s.claims := rfl
@[simp] theorem State.setMpc_barStage (s : State) (c : Nat) (e : Engine) (n : Nat) (v : W64) :
    (s.setMpc c e n v).barStage = s.barStage := rfl
@[simp] theorem State.setMpc_hostMem (s : State) (c : Nat) (e : Engine) (n : Nat) (v : W64) :
    (s.setMpc c e n v).hostMem = s.hostMem := rfl
@[simp] theorem State.setMpc_slices (s : State) (c : Nat) (e : Engine) (n : Nat) (v : W64) :
    (s.setMpc c e n v).slices = s.slices := rfl
@[simp] theorem State.setMpc_slots (s : State) (c : Nat) (e : Engine) (n : Nat) (v : W64) :
    (s.setMpc c e n v).slots = s.slots := rfl
@[simp] theorem State.setMpc_queues (s : State) (c : Nat) (e : Engine) (n : Nat) (v : W64) :
    (s.setMpc c e n v).queues = s.queues := rfl
@[simp] theorem State.setMpc_gangs (s : State) (c : Nat) (e : Engine) (n : Nat) (v : W64) :
    (s.setMpc c e n v).gangs = s.gangs := rfl
@[simp] theorem State.setMpc_insts (s : State) (c : Nat) (e : Engine) (n : Nat) (v : W64) :
    (s.setMpc c e n v).insts = s.insts := rfl
@[simp] theorem State.setMpc_saved (s : State) (c : Nat) (e : Engine) (n : Nat) (v : W64) :
    (s.setMpc c e n v).saved = s.saved := rfl
@[simp] theorem State.setMpc_nextCtx (s : State) (c : Nat) (e : Engine) (n : Nat) (v : W64) :
    (s.setMpc c e n v).nextCtx = s.nextCtx := rfl
@[simp] theorem State.setMpc_images (s : State) (c : Nat) (e : Engine) (n : Nat) (v : W64) :
    (s.setMpc c e n v).images = s.images := rfl
@[simp] theorem State.setMpc_prq (s : State) (c : Nat) (e : Engine) (n : Nat) (v : W64) :
    (s.setMpc c e n v).prq = s.prq := rfl
@[simp] theorem State.setMpc_reqs (s : State) (c : Nat) (e : Engine) (n : Nat) (v : W64) :
    (s.setMpc c e n v).reqs = s.reqs := rfl
@[simp] theorem State.setMpc_nextReq (s : State) (c : Nat) (e : Engine) (n : Nat) (v : W64) :
    (s.setMpc c e n v).nextReq = s.nextReq := rfl
@[simp] theorem State.setMpc_walks (s : State) (c : Nat) (e : Engine) (n : Nat) (v : W64) :
    (s.setMpc c e n v).walks = s.walks := rfl
@[simp] theorem State.setMpc_xops (s : State) (c : Nat) (e : Engine) (n : Nat) (v : W64) :
    (s.setMpc c e n v).xops = s.xops := rfl
@[simp] theorem State.setMpc_regions (s : State) (c : Nat) (e : Engine) (n : Nat) (v : W64) :
    (s.setMpc c e n v).regions = s.regions := rfl
@[simp] theorem State.setMpc_records (s : State) (c : Nat) (e : Engine) (n : Nat) (v : W64) :
    (s.setMpc c e n v).records = s.records := rfl
@[simp] theorem State.setMpc_links (s : State) (c : Nat) (e : Engine) (n : Nat) (v : W64) :
    (s.setMpc c e n v).links = s.links := rfl
@[simp] theorem State.setMpc_endpoints (s : State) (c : Nat) (e : Engine) (n : Nat) (v : W64) :
    (s.setMpc c e n v).endpoints = s.endpoints := rfl
@[simp] theorem State.setMpc_unfitted (s : State) (c : Nat) (e : Engine) (n : Nat) (v : W64) :
    (s.setMpc c e n v).unfitted = s.unfitted := rfl
@[simp] theorem State.setMpc_seqs (s : State) (c : Nat) (e : Engine) (n : Nat) (v : W64) :
    (s.setMpc c e n v).seqs = s.seqs := rfl
@[simp] theorem State.setMpc_waiting (s : State) (c : Nat) (e : Engine) (n : Nat) (v : W64) :
    (s.setMpc c e n v).waiting = s.waiting := rfl
@[simp] theorem State.setMpc_sent (s : State) (c : Nat) (e : Engine) (n : Nat) (v : W64) :
    (s.setMpc c e n v).sent = s.sent := rfl
@[simp] theorem State.setMpc_arrived (s : State) (c : Nat) (e : Engine) (n : Nat) (v : W64) :
    (s.setMpc c e n v).arrived = s.arrived := rfl
@[simp] theorem State.setMpc_outbound (s : State) (c : Nat) (e : Engine) (n : Nat) (v : W64) :
    (s.setMpc c e n v).outbound = s.outbound := rfl
@[simp] theorem State.setMpc_inbound (s : State) (c : Nat) (e : Engine) (n : Nat) (v : W64) :
    (s.setMpc c e n v).inbound = s.inbound := rfl
@[simp] theorem State.setMpc_copied (s : State) (c : Nat) (e : Engine) (n : Nat) (v : W64) :
    (s.setMpc c e n v).copied = s.copied := rfl
@[simp] theorem State.setMpc_tier (s : State) (c : Nat) (e : Engine) (n : Nat) (v : W64) :
    (s.setMpc c e n v).tier = s.tier := rfl
@[simp] theorem State.setMpc_dev (s : State) (c : Nat) (e : Engine) (n : Nat) (v : W64) :
    (s.setMpc c e n v).dev = s.dev := rfl
@[simp] theorem State.landG_pkg (s : State) (c n : Nat) (d : GField) (q : Nat) (v : W64) (w : Nat) :
    (s.landG c n d q v w).pkg = s.pkg := rfl
@[simp] theorem State.landG_cycle (s : State) (c n : Nat) (d : GField) (q : Nat) (v : W64) (w : Nat) :
    (s.landG c n d q v w).cycle = s.cycle := rfl
@[simp] theorem State.landG_gtime (s : State) (c n : Nat) (d : GField) (q : Nat) (v : W64) (w : Nat) :
    (s.landG c n d q v w).gtime = s.gtime := rfl
@[simp] theorem State.landG_gphase (s : State) (c n : Nat) (d : GField) (q : Nat) (v : W64) (w : Nat) :
    (s.landG c n d q v w).gphase = s.gphase := rfl
@[simp] theorem State.landG_slew (s : State) (c n : Nat) (d : GField) (q : Nat) (v : W64) (w : Nat) :
    (s.landG c n d q v w).slew = s.slew := rfl
@[simp] theorem State.landG_slewPhase (s : State) (c n : Nat) (d : GField) (q : Nat) (v : W64) (w : Nat) :
    (s.landG c n d q v w).slewPhase = s.slewPhase := rfl
@[simp] theorem State.landG_free (s : State) (c n : Nat) (d : GField) (q : Nat) (v : W64) (w : Nat) :
    (s.landG c n d q v w).free = s.free := rfl
@[simp] theorem State.landG_agenda (s : State) (c n : Nat) (d : GField) (q : Nat) (v : W64) (w : Nat) :
    (s.landG c n d q v w).agenda = s.agenda := rfl
@[simp] theorem State.landG_turn (s : State) (c n : Nat) (d : GField) (q : Nat) (v : W64) (w : Nat) :
    (s.landG c n d q v w).turn = s.turn := rfl
@[simp] theorem State.landG_focus (s : State) (c n : Nat) (d : GField) (q : Nat) (v : W64) (w : Nat) :
    (s.landG c n d q v w).focus = s.focus := rfl
@[simp] theorem State.landG_eng (s : State) (c n : Nat) (d : GField) (q : Nat) (v : W64) (w : Nat) :
    (s.landG c n d q v w).eng = s.eng := rfl
@[simp] theorem State.landG_syl (s : State) (c n : Nat) (d : GField) (q : Nat) (v : W64) (w : Nat) :
    (s.landG c n d q v w).syl = s.syl := rfl
@[simp] theorem State.landG_idx (s : State) (c n : Nat) (d : GField) (q : Nat) (v : W64) (w : Nat) :
    (s.landG c n d q v w).idx = s.idx := rfl
@[simp] theorem State.landG_clusters (s : State) (c n : Nat) (d : GField) (q : Nat) (v : W64) (w : Nat) :
    (s.landG c n d q v w).clusters = s.clusters := rfl
@[simp] theorem State.landG_hbm (s : State) (c n : Nat) (d : GField) (q : Nat) (v : W64) (w : Nat) :
    (s.landG c n d q v w).hbm = s.hbm := rfl
@[simp] theorem State.landG_scrubs (s : State) (c n : Nat) (d : GField) (q : Nat) (v : W64) (w : Nat) :
    (s.landG c n d q v w).scrubs = s.scrubs := rfl
@[simp] theorem State.landG_poison (s : State) (c n : Nat) (d : GField) (q : Nat) (v : W64) (w : Nat) :
    (s.landG c n d q v w).poison = s.poison := rfl
@[simp] theorem State.landG_dirty (s : State) (c n : Nat) (d : GField) (q : Nat) (v : W64) (w : Nat) :
    (s.landG c n d q v w).dirty = s.dirty := rfl
@[simp] theorem State.landG_l2rng (s : State) (c n : Nat) (d : GField) (q : Nat) (v : W64) (w : Nat) :
    (s.landG c n d q v w).l2rng = s.l2rng := rfl
@[simp] theorem State.landG_l2acc (s : State) (c n : Nat) (d : GField) (q : Nat) (v : W64) (w : Nat) :
    (s.landG c n d q v w).l2acc = s.l2acc := rfl
@[simp] theorem State.landG_l2 (s : State) (c n : Nat) (d : GField) (q : Nat) (v : W64) (w : Nat) :
    (s.landG c n d q v w).l2 = s.l2 := rfl
@[simp] theorem State.landG_claims (s : State) (c n : Nat) (d : GField) (q : Nat) (v : W64) (w : Nat) :
    (s.landG c n d q v w).claims = s.claims := rfl
@[simp] theorem State.landG_barStage (s : State) (c n : Nat) (d : GField) (q : Nat) (v : W64) (w : Nat) :
    (s.landG c n d q v w).barStage = s.barStage := rfl
@[simp] theorem State.landG_hostMem (s : State) (c n : Nat) (d : GField) (q : Nat) (v : W64) (w : Nat) :
    (s.landG c n d q v w).hostMem = s.hostMem := rfl
@[simp] theorem State.landG_slices (s : State) (c n : Nat) (d : GField) (q : Nat) (v : W64) (w : Nat) :
    (s.landG c n d q v w).slices = s.slices := rfl
@[simp] theorem State.landG_slots (s : State) (c n : Nat) (d : GField) (q : Nat) (v : W64) (w : Nat) :
    (s.landG c n d q v w).slots = s.slots := rfl
@[simp] theorem State.landG_queues (s : State) (c n : Nat) (d : GField) (q : Nat) (v : W64) (w : Nat) :
    (s.landG c n d q v w).queues = s.queues := rfl
@[simp] theorem State.landG_gangs (s : State) (c n : Nat) (d : GField) (q : Nat) (v : W64) (w : Nat) :
    (s.landG c n d q v w).gangs = s.gangs := rfl
@[simp] theorem State.landG_insts (s : State) (c n : Nat) (d : GField) (q : Nat) (v : W64) (w : Nat) :
    (s.landG c n d q v w).insts = s.insts := rfl
@[simp] theorem State.landG_saved (s : State) (c n : Nat) (d : GField) (q : Nat) (v : W64) (w : Nat) :
    (s.landG c n d q v w).saved = s.saved := rfl
@[simp] theorem State.landG_nextCtx (s : State) (c n : Nat) (d : GField) (q : Nat) (v : W64) (w : Nat) :
    (s.landG c n d q v w).nextCtx = s.nextCtx := rfl
@[simp] theorem State.landG_images (s : State) (c n : Nat) (d : GField) (q : Nat) (v : W64) (w : Nat) :
    (s.landG c n d q v w).images = s.images := rfl
@[simp] theorem State.landG_prq (s : State) (c n : Nat) (d : GField) (q : Nat) (v : W64) (w : Nat) :
    (s.landG c n d q v w).prq = s.prq := rfl
@[simp] theorem State.landG_reqs (s : State) (c n : Nat) (d : GField) (q : Nat) (v : W64) (w : Nat) :
    (s.landG c n d q v w).reqs = s.reqs := rfl
@[simp] theorem State.landG_nextReq (s : State) (c n : Nat) (d : GField) (q : Nat) (v : W64) (w : Nat) :
    (s.landG c n d q v w).nextReq = s.nextReq := rfl
@[simp] theorem State.landG_walks (s : State) (c n : Nat) (d : GField) (q : Nat) (v : W64) (w : Nat) :
    (s.landG c n d q v w).walks = s.walks := rfl
@[simp] theorem State.landG_xops (s : State) (c n : Nat) (d : GField) (q : Nat) (v : W64) (w : Nat) :
    (s.landG c n d q v w).xops = s.xops := rfl
@[simp] theorem State.landG_regions (s : State) (c n : Nat) (d : GField) (q : Nat) (v : W64) (w : Nat) :
    (s.landG c n d q v w).regions = s.regions := rfl
@[simp] theorem State.landG_records (s : State) (c n : Nat) (d : GField) (q : Nat) (v : W64) (w : Nat) :
    (s.landG c n d q v w).records = s.records := rfl
@[simp] theorem State.landG_links (s : State) (c n : Nat) (d : GField) (q : Nat) (v : W64) (w : Nat) :
    (s.landG c n d q v w).links = s.links := rfl
@[simp] theorem State.landG_endpoints (s : State) (c n : Nat) (d : GField) (q : Nat) (v : W64) (w : Nat) :
    (s.landG c n d q v w).endpoints = s.endpoints := rfl
@[simp] theorem State.landG_unfitted (s : State) (c n : Nat) (d : GField) (q : Nat) (v : W64) (w : Nat) :
    (s.landG c n d q v w).unfitted = s.unfitted := rfl
@[simp] theorem State.landG_seqs (s : State) (c n : Nat) (d : GField) (q : Nat) (v : W64) (w : Nat) :
    (s.landG c n d q v w).seqs = s.seqs := rfl
@[simp] theorem State.landG_waiting (s : State) (c n : Nat) (d : GField) (q : Nat) (v : W64) (w : Nat) :
    (s.landG c n d q v w).waiting = s.waiting := rfl
@[simp] theorem State.landG_sent (s : State) (c n : Nat) (d : GField) (q : Nat) (v : W64) (w : Nat) :
    (s.landG c n d q v w).sent = s.sent := rfl
@[simp] theorem State.landG_arrived (s : State) (c n : Nat) (d : GField) (q : Nat) (v : W64) (w : Nat) :
    (s.landG c n d q v w).arrived = s.arrived := rfl
@[simp] theorem State.landG_outbound (s : State) (c n : Nat) (d : GField) (q : Nat) (v : W64) (w : Nat) :
    (s.landG c n d q v w).outbound = s.outbound := rfl
@[simp] theorem State.landG_inbound (s : State) (c n : Nat) (d : GField) (q : Nat) (v : W64) (w : Nat) :
    (s.landG c n d q v w).inbound = s.inbound := rfl
@[simp] theorem State.landG_copied (s : State) (c n : Nat) (d : GField) (q : Nat) (v : W64) (w : Nat) :
    (s.landG c n d q v w).copied = s.copied := rfl
@[simp] theorem State.landG_tier (s : State) (c n : Nat) (d : GField) (q : Nat) (v : W64) (w : Nat) :
    (s.landG c n d q v w).tier = s.tier := rfl
@[simp] theorem State.landG_dev (s : State) (c n : Nat) (d : GField) (q : Nat) (v : W64) (w : Nat) :
    (s.landG c n d q v w).dev = s.dev := rfl
@[simp] theorem State.landV_pkg (s : State) (c n : Nat) (d : VField) (q : Nat) (v : Row) (m : BMask) (fl : W64) (w : Nat) :
    (s.landV c n d q v m fl w).pkg = s.pkg := rfl
@[simp] theorem State.landV_cycle (s : State) (c n : Nat) (d : VField) (q : Nat) (v : Row) (m : BMask) (fl : W64) (w : Nat) :
    (s.landV c n d q v m fl w).cycle = s.cycle := rfl
@[simp] theorem State.landV_gtime (s : State) (c n : Nat) (d : VField) (q : Nat) (v : Row) (m : BMask) (fl : W64) (w : Nat) :
    (s.landV c n d q v m fl w).gtime = s.gtime := rfl
@[simp] theorem State.landV_gphase (s : State) (c n : Nat) (d : VField) (q : Nat) (v : Row) (m : BMask) (fl : W64) (w : Nat) :
    (s.landV c n d q v m fl w).gphase = s.gphase := rfl
@[simp] theorem State.landV_slew (s : State) (c n : Nat) (d : VField) (q : Nat) (v : Row) (m : BMask) (fl : W64) (w : Nat) :
    (s.landV c n d q v m fl w).slew = s.slew := rfl
@[simp] theorem State.landV_slewPhase (s : State) (c n : Nat) (d : VField) (q : Nat) (v : Row) (m : BMask) (fl : W64) (w : Nat) :
    (s.landV c n d q v m fl w).slewPhase = s.slewPhase := rfl
@[simp] theorem State.landV_free (s : State) (c n : Nat) (d : VField) (q : Nat) (v : Row) (m : BMask) (fl : W64) (w : Nat) :
    (s.landV c n d q v m fl w).free = s.free := rfl
@[simp] theorem State.landV_agenda (s : State) (c n : Nat) (d : VField) (q : Nat) (v : Row) (m : BMask) (fl : W64) (w : Nat) :
    (s.landV c n d q v m fl w).agenda = s.agenda := rfl
@[simp] theorem State.landV_turn (s : State) (c n : Nat) (d : VField) (q : Nat) (v : Row) (m : BMask) (fl : W64) (w : Nat) :
    (s.landV c n d q v m fl w).turn = s.turn := rfl
@[simp] theorem State.landV_focus (s : State) (c n : Nat) (d : VField) (q : Nat) (v : Row) (m : BMask) (fl : W64) (w : Nat) :
    (s.landV c n d q v m fl w).focus = s.focus := rfl
@[simp] theorem State.landV_eng (s : State) (c n : Nat) (d : VField) (q : Nat) (v : Row) (m : BMask) (fl : W64) (w : Nat) :
    (s.landV c n d q v m fl w).eng = s.eng := rfl
@[simp] theorem State.landV_syl (s : State) (c n : Nat) (d : VField) (q : Nat) (v : Row) (m : BMask) (fl : W64) (w : Nat) :
    (s.landV c n d q v m fl w).syl = s.syl := rfl
@[simp] theorem State.landV_idx (s : State) (c n : Nat) (d : VField) (q : Nat) (v : Row) (m : BMask) (fl : W64) (w : Nat) :
    (s.landV c n d q v m fl w).idx = s.idx := rfl
@[simp] theorem State.landV_clusters (s : State) (c n : Nat) (d : VField) (q : Nat) (v : Row) (m : BMask) (fl : W64) (w : Nat) :
    (s.landV c n d q v m fl w).clusters = s.clusters := rfl
@[simp] theorem State.landV_hbm (s : State) (c n : Nat) (d : VField) (q : Nat) (v : Row) (m : BMask) (fl : W64) (w : Nat) :
    (s.landV c n d q v m fl w).hbm = s.hbm := rfl
@[simp] theorem State.landV_scrubs (s : State) (c n : Nat) (d : VField) (q : Nat) (v : Row) (m : BMask) (fl : W64) (w : Nat) :
    (s.landV c n d q v m fl w).scrubs = s.scrubs := rfl
@[simp] theorem State.landV_poison (s : State) (c n : Nat) (d : VField) (q : Nat) (v : Row) (m : BMask) (fl : W64) (w : Nat) :
    (s.landV c n d q v m fl w).poison = s.poison := rfl
@[simp] theorem State.landV_dirty (s : State) (c n : Nat) (d : VField) (q : Nat) (v : Row) (m : BMask) (fl : W64) (w : Nat) :
    (s.landV c n d q v m fl w).dirty = s.dirty := rfl
@[simp] theorem State.landV_l2rng (s : State) (c n : Nat) (d : VField) (q : Nat) (v : Row) (m : BMask) (fl : W64) (w : Nat) :
    (s.landV c n d q v m fl w).l2rng = s.l2rng := rfl
@[simp] theorem State.landV_l2acc (s : State) (c n : Nat) (d : VField) (q : Nat) (v : Row) (m : BMask) (fl : W64) (w : Nat) :
    (s.landV c n d q v m fl w).l2acc = s.l2acc := rfl
@[simp] theorem State.landV_l2 (s : State) (c n : Nat) (d : VField) (q : Nat) (v : Row) (m : BMask) (fl : W64) (w : Nat) :
    (s.landV c n d q v m fl w).l2 = s.l2 := rfl
@[simp] theorem State.landV_claims (s : State) (c n : Nat) (d : VField) (q : Nat) (v : Row) (m : BMask) (fl : W64) (w : Nat) :
    (s.landV c n d q v m fl w).claims = s.claims := rfl
@[simp] theorem State.landV_barStage (s : State) (c n : Nat) (d : VField) (q : Nat) (v : Row) (m : BMask) (fl : W64) (w : Nat) :
    (s.landV c n d q v m fl w).barStage = s.barStage := rfl
@[simp] theorem State.landV_hostMem (s : State) (c n : Nat) (d : VField) (q : Nat) (v : Row) (m : BMask) (fl : W64) (w : Nat) :
    (s.landV c n d q v m fl w).hostMem = s.hostMem := rfl
@[simp] theorem State.landV_slices (s : State) (c n : Nat) (d : VField) (q : Nat) (v : Row) (m : BMask) (fl : W64) (w : Nat) :
    (s.landV c n d q v m fl w).slices = s.slices := rfl
@[simp] theorem State.landV_slots (s : State) (c n : Nat) (d : VField) (q : Nat) (v : Row) (m : BMask) (fl : W64) (w : Nat) :
    (s.landV c n d q v m fl w).slots = s.slots := rfl
@[simp] theorem State.landV_queues (s : State) (c n : Nat) (d : VField) (q : Nat) (v : Row) (m : BMask) (fl : W64) (w : Nat) :
    (s.landV c n d q v m fl w).queues = s.queues := rfl
@[simp] theorem State.landV_gangs (s : State) (c n : Nat) (d : VField) (q : Nat) (v : Row) (m : BMask) (fl : W64) (w : Nat) :
    (s.landV c n d q v m fl w).gangs = s.gangs := rfl
@[simp] theorem State.landV_insts (s : State) (c n : Nat) (d : VField) (q : Nat) (v : Row) (m : BMask) (fl : W64) (w : Nat) :
    (s.landV c n d q v m fl w).insts = s.insts := rfl
@[simp] theorem State.landV_saved (s : State) (c n : Nat) (d : VField) (q : Nat) (v : Row) (m : BMask) (fl : W64) (w : Nat) :
    (s.landV c n d q v m fl w).saved = s.saved := rfl
@[simp] theorem State.landV_nextCtx (s : State) (c n : Nat) (d : VField) (q : Nat) (v : Row) (m : BMask) (fl : W64) (w : Nat) :
    (s.landV c n d q v m fl w).nextCtx = s.nextCtx := rfl
@[simp] theorem State.landV_images (s : State) (c n : Nat) (d : VField) (q : Nat) (v : Row) (m : BMask) (fl : W64) (w : Nat) :
    (s.landV c n d q v m fl w).images = s.images := rfl
@[simp] theorem State.landV_prq (s : State) (c n : Nat) (d : VField) (q : Nat) (v : Row) (m : BMask) (fl : W64) (w : Nat) :
    (s.landV c n d q v m fl w).prq = s.prq := rfl
@[simp] theorem State.landV_reqs (s : State) (c n : Nat) (d : VField) (q : Nat) (v : Row) (m : BMask) (fl : W64) (w : Nat) :
    (s.landV c n d q v m fl w).reqs = s.reqs := rfl
@[simp] theorem State.landV_nextReq (s : State) (c n : Nat) (d : VField) (q : Nat) (v : Row) (m : BMask) (fl : W64) (w : Nat) :
    (s.landV c n d q v m fl w).nextReq = s.nextReq := rfl
@[simp] theorem State.landV_walks (s : State) (c n : Nat) (d : VField) (q : Nat) (v : Row) (m : BMask) (fl : W64) (w : Nat) :
    (s.landV c n d q v m fl w).walks = s.walks := rfl
@[simp] theorem State.landV_xops (s : State) (c n : Nat) (d : VField) (q : Nat) (v : Row) (m : BMask) (fl : W64) (w : Nat) :
    (s.landV c n d q v m fl w).xops = s.xops := rfl
@[simp] theorem State.landV_regions (s : State) (c n : Nat) (d : VField) (q : Nat) (v : Row) (m : BMask) (fl : W64) (w : Nat) :
    (s.landV c n d q v m fl w).regions = s.regions := rfl
@[simp] theorem State.landV_records (s : State) (c n : Nat) (d : VField) (q : Nat) (v : Row) (m : BMask) (fl : W64) (w : Nat) :
    (s.landV c n d q v m fl w).records = s.records := rfl
@[simp] theorem State.landV_links (s : State) (c n : Nat) (d : VField) (q : Nat) (v : Row) (m : BMask) (fl : W64) (w : Nat) :
    (s.landV c n d q v m fl w).links = s.links := rfl
@[simp] theorem State.landV_endpoints (s : State) (c n : Nat) (d : VField) (q : Nat) (v : Row) (m : BMask) (fl : W64) (w : Nat) :
    (s.landV c n d q v m fl w).endpoints = s.endpoints := rfl
@[simp] theorem State.landV_unfitted (s : State) (c n : Nat) (d : VField) (q : Nat) (v : Row) (m : BMask) (fl : W64) (w : Nat) :
    (s.landV c n d q v m fl w).unfitted = s.unfitted := rfl
@[simp] theorem State.landV_seqs (s : State) (c n : Nat) (d : VField) (q : Nat) (v : Row) (m : BMask) (fl : W64) (w : Nat) :
    (s.landV c n d q v m fl w).seqs = s.seqs := rfl
@[simp] theorem State.landV_waiting (s : State) (c n : Nat) (d : VField) (q : Nat) (v : Row) (m : BMask) (fl : W64) (w : Nat) :
    (s.landV c n d q v m fl w).waiting = s.waiting := rfl
@[simp] theorem State.landV_sent (s : State) (c n : Nat) (d : VField) (q : Nat) (v : Row) (m : BMask) (fl : W64) (w : Nat) :
    (s.landV c n d q v m fl w).sent = s.sent := rfl
@[simp] theorem State.landV_arrived (s : State) (c n : Nat) (d : VField) (q : Nat) (v : Row) (m : BMask) (fl : W64) (w : Nat) :
    (s.landV c n d q v m fl w).arrived = s.arrived := rfl
@[simp] theorem State.landV_outbound (s : State) (c n : Nat) (d : VField) (q : Nat) (v : Row) (m : BMask) (fl : W64) (w : Nat) :
    (s.landV c n d q v m fl w).outbound = s.outbound := rfl
@[simp] theorem State.landV_inbound (s : State) (c n : Nat) (d : VField) (q : Nat) (v : Row) (m : BMask) (fl : W64) (w : Nat) :
    (s.landV c n d q v m fl w).inbound = s.inbound := rfl
@[simp] theorem State.landV_copied (s : State) (c n : Nat) (d : VField) (q : Nat) (v : Row) (m : BMask) (fl : W64) (w : Nat) :
    (s.landV c n d q v m fl w).copied = s.copied := rfl
@[simp] theorem State.landV_tier (s : State) (c n : Nat) (d : VField) (q : Nat) (v : Row) (m : BMask) (fl : W64) (w : Nat) :
    (s.landV c n d q v m fl w).tier = s.tier := rfl
@[simp] theorem State.landV_dev (s : State) (c n : Nat) (d : VField) (q : Nat) (v : Row) (m : BMask) (fl : W64) (w : Nat) :
    (s.landV c n d q v m fl w).dev = s.dev := rfl
@[simp] theorem State.send_pkg (s : State) (c : Nat) (e : Engine) (n : Nat) (l : List Effect) (fl : W64) (w : Nat) :
    (s.send c e n l fl w).pkg = s.pkg := rfl
@[simp] theorem State.send_cycle (s : State) (c : Nat) (e : Engine) (n : Nat) (l : List Effect) (fl : W64) (w : Nat) :
    (s.send c e n l fl w).cycle = s.cycle := rfl
@[simp] theorem State.send_gtime (s : State) (c : Nat) (e : Engine) (n : Nat) (l : List Effect) (fl : W64) (w : Nat) :
    (s.send c e n l fl w).gtime = s.gtime := rfl
@[simp] theorem State.send_gphase (s : State) (c : Nat) (e : Engine) (n : Nat) (l : List Effect) (fl : W64) (w : Nat) :
    (s.send c e n l fl w).gphase = s.gphase := rfl
@[simp] theorem State.send_slew (s : State) (c : Nat) (e : Engine) (n : Nat) (l : List Effect) (fl : W64) (w : Nat) :
    (s.send c e n l fl w).slew = s.slew := rfl
@[simp] theorem State.send_slewPhase (s : State) (c : Nat) (e : Engine) (n : Nat) (l : List Effect) (fl : W64) (w : Nat) :
    (s.send c e n l fl w).slewPhase = s.slewPhase := rfl
@[simp] theorem State.send_free (s : State) (c : Nat) (e : Engine) (n : Nat) (l : List Effect) (fl : W64) (w : Nat) :
    (s.send c e n l fl w).free = s.free := rfl
@[simp] theorem State.send_agenda (s : State) (c : Nat) (e : Engine) (n : Nat) (l : List Effect) (fl : W64) (w : Nat) :
    (s.send c e n l fl w).agenda = s.agenda := rfl
@[simp] theorem State.send_turn (s : State) (c : Nat) (e : Engine) (n : Nat) (l : List Effect) (fl : W64) (w : Nat) :
    (s.send c e n l fl w).turn = s.turn := rfl
@[simp] theorem State.send_focus (s : State) (c : Nat) (e : Engine) (n : Nat) (l : List Effect) (fl : W64) (w : Nat) :
    (s.send c e n l fl w).focus = s.focus := rfl
@[simp] theorem State.send_eng (s : State) (c : Nat) (e : Engine) (n : Nat) (l : List Effect) (fl : W64) (w : Nat) :
    (s.send c e n l fl w).eng = s.eng := rfl
@[simp] theorem State.send_syl (s : State) (c : Nat) (e : Engine) (n : Nat) (l : List Effect) (fl : W64) (w : Nat) :
    (s.send c e n l fl w).syl = s.syl := rfl
@[simp] theorem State.send_idx (s : State) (c : Nat) (e : Engine) (n : Nat) (l : List Effect) (fl : W64) (w : Nat) :
    (s.send c e n l fl w).idx = s.idx := rfl
@[simp] theorem State.send_clusters (s : State) (c : Nat) (e : Engine) (n : Nat) (l : List Effect) (fl : W64) (w : Nat) :
    (s.send c e n l fl w).clusters = s.clusters := rfl
@[simp] theorem State.send_hbm (s : State) (c : Nat) (e : Engine) (n : Nat) (l : List Effect) (fl : W64) (w : Nat) :
    (s.send c e n l fl w).hbm = s.hbm := rfl
@[simp] theorem State.send_scrubs (s : State) (c : Nat) (e : Engine) (n : Nat) (l : List Effect) (fl : W64) (w : Nat) :
    (s.send c e n l fl w).scrubs = s.scrubs := rfl
@[simp] theorem State.send_poison (s : State) (c : Nat) (e : Engine) (n : Nat) (l : List Effect) (fl : W64) (w : Nat) :
    (s.send c e n l fl w).poison = s.poison := rfl
@[simp] theorem State.send_dirty (s : State) (c : Nat) (e : Engine) (n : Nat) (l : List Effect) (fl : W64) (w : Nat) :
    (s.send c e n l fl w).dirty = s.dirty := rfl
@[simp] theorem State.send_l2rng (s : State) (c : Nat) (e : Engine) (n : Nat) (l : List Effect) (fl : W64) (w : Nat) :
    (s.send c e n l fl w).l2rng = s.l2rng := rfl
@[simp] theorem State.send_l2acc (s : State) (c : Nat) (e : Engine) (n : Nat) (l : List Effect) (fl : W64) (w : Nat) :
    (s.send c e n l fl w).l2acc = s.l2acc := rfl
@[simp] theorem State.send_l2 (s : State) (c : Nat) (e : Engine) (n : Nat) (l : List Effect) (fl : W64) (w : Nat) :
    (s.send c e n l fl w).l2 = s.l2 := rfl
@[simp] theorem State.send_claims (s : State) (c : Nat) (e : Engine) (n : Nat) (l : List Effect) (fl : W64) (w : Nat) :
    (s.send c e n l fl w).claims = s.claims := rfl
@[simp] theorem State.send_barStage (s : State) (c : Nat) (e : Engine) (n : Nat) (l : List Effect) (fl : W64) (w : Nat) :
    (s.send c e n l fl w).barStage = s.barStage := rfl
@[simp] theorem State.send_hostMem (s : State) (c : Nat) (e : Engine) (n : Nat) (l : List Effect) (fl : W64) (w : Nat) :
    (s.send c e n l fl w).hostMem = s.hostMem := rfl
@[simp] theorem State.send_slices (s : State) (c : Nat) (e : Engine) (n : Nat) (l : List Effect) (fl : W64) (w : Nat) :
    (s.send c e n l fl w).slices = s.slices := rfl
@[simp] theorem State.send_slots (s : State) (c : Nat) (e : Engine) (n : Nat) (l : List Effect) (fl : W64) (w : Nat) :
    (s.send c e n l fl w).slots = s.slots := rfl
@[simp] theorem State.send_queues (s : State) (c : Nat) (e : Engine) (n : Nat) (l : List Effect) (fl : W64) (w : Nat) :
    (s.send c e n l fl w).queues = s.queues := rfl
@[simp] theorem State.send_gangs (s : State) (c : Nat) (e : Engine) (n : Nat) (l : List Effect) (fl : W64) (w : Nat) :
    (s.send c e n l fl w).gangs = s.gangs := rfl
@[simp] theorem State.send_insts (s : State) (c : Nat) (e : Engine) (n : Nat) (l : List Effect) (fl : W64) (w : Nat) :
    (s.send c e n l fl w).insts = s.insts := rfl
@[simp] theorem State.send_saved (s : State) (c : Nat) (e : Engine) (n : Nat) (l : List Effect) (fl : W64) (w : Nat) :
    (s.send c e n l fl w).saved = s.saved := rfl
@[simp] theorem State.send_nextCtx (s : State) (c : Nat) (e : Engine) (n : Nat) (l : List Effect) (fl : W64) (w : Nat) :
    (s.send c e n l fl w).nextCtx = s.nextCtx := rfl
@[simp] theorem State.send_images (s : State) (c : Nat) (e : Engine) (n : Nat) (l : List Effect) (fl : W64) (w : Nat) :
    (s.send c e n l fl w).images = s.images := rfl
@[simp] theorem State.send_prq (s : State) (c : Nat) (e : Engine) (n : Nat) (l : List Effect) (fl : W64) (w : Nat) :
    (s.send c e n l fl w).prq = s.prq := rfl
@[simp] theorem State.send_reqs (s : State) (c : Nat) (e : Engine) (n : Nat) (l : List Effect) (fl : W64) (w : Nat) :
    (s.send c e n l fl w).reqs = s.reqs := rfl
@[simp] theorem State.send_nextReq (s : State) (c : Nat) (e : Engine) (n : Nat) (l : List Effect) (fl : W64) (w : Nat) :
    (s.send c e n l fl w).nextReq = s.nextReq := rfl
@[simp] theorem State.send_walks (s : State) (c : Nat) (e : Engine) (n : Nat) (l : List Effect) (fl : W64) (w : Nat) :
    (s.send c e n l fl w).walks = s.walks := rfl
@[simp] theorem State.send_xops (s : State) (c : Nat) (e : Engine) (n : Nat) (l : List Effect) (fl : W64) (w : Nat) :
    (s.send c e n l fl w).xops = s.xops := rfl
@[simp] theorem State.send_regions (s : State) (c : Nat) (e : Engine) (n : Nat) (l : List Effect) (fl : W64) (w : Nat) :
    (s.send c e n l fl w).regions = s.regions := rfl
@[simp] theorem State.send_records (s : State) (c : Nat) (e : Engine) (n : Nat) (l : List Effect) (fl : W64) (w : Nat) :
    (s.send c e n l fl w).records = s.records := rfl
@[simp] theorem State.send_links (s : State) (c : Nat) (e : Engine) (n : Nat) (l : List Effect) (fl : W64) (w : Nat) :
    (s.send c e n l fl w).links = s.links := rfl
@[simp] theorem State.send_endpoints (s : State) (c : Nat) (e : Engine) (n : Nat) (l : List Effect) (fl : W64) (w : Nat) :
    (s.send c e n l fl w).endpoints = s.endpoints := rfl
@[simp] theorem State.send_unfitted (s : State) (c : Nat) (e : Engine) (n : Nat) (l : List Effect) (fl : W64) (w : Nat) :
    (s.send c e n l fl w).unfitted = s.unfitted := rfl
@[simp] theorem State.send_seqs (s : State) (c : Nat) (e : Engine) (n : Nat) (l : List Effect) (fl : W64) (w : Nat) :
    (s.send c e n l fl w).seqs = s.seqs := rfl
@[simp] theorem State.send_waiting (s : State) (c : Nat) (e : Engine) (n : Nat) (l : List Effect) (fl : W64) (w : Nat) :
    (s.send c e n l fl w).waiting = s.waiting := rfl
@[simp] theorem State.send_sent (s : State) (c : Nat) (e : Engine) (n : Nat) (l : List Effect) (fl : W64) (w : Nat) :
    (s.send c e n l fl w).sent = s.sent := rfl
@[simp] theorem State.send_arrived (s : State) (c : Nat) (e : Engine) (n : Nat) (l : List Effect) (fl : W64) (w : Nat) :
    (s.send c e n l fl w).arrived = s.arrived := rfl
@[simp] theorem State.send_outbound (s : State) (c : Nat) (e : Engine) (n : Nat) (l : List Effect) (fl : W64) (w : Nat) :
    (s.send c e n l fl w).outbound = s.outbound := rfl
@[simp] theorem State.send_inbound (s : State) (c : Nat) (e : Engine) (n : Nat) (l : List Effect) (fl : W64) (w : Nat) :
    (s.send c e n l fl w).inbound = s.inbound := rfl
@[simp] theorem State.send_copied (s : State) (c : Nat) (e : Engine) (n : Nat) (l : List Effect) (fl : W64) (w : Nat) :
    (s.send c e n l fl w).copied = s.copied := rfl
@[simp] theorem State.send_tier (s : State) (c : Nat) (e : Engine) (n : Nat) (l : List Effect) (fl : W64) (w : Nat) :
    (s.send c e n l fl w).tier = s.tier := rfl
@[simp] theorem State.send_dev (s : State) (c : Nat) (e : Engine) (n : Nat) (l : List Effect) (fl : W64) (w : Nat) :
    (s.send c e n l fl w).dev = s.dev := rfl
@[simp] theorem State.noteWait_pkg (s : State) (w : List WaitCause) : (s.noteWait w).pkg = s.pkg := rfl
@[simp] theorem State.noteWait_cycle (s : State) (w : List WaitCause) : (s.noteWait w).cycle = s.cycle := rfl
@[simp] theorem State.noteWait_gtime (s : State) (w : List WaitCause) : (s.noteWait w).gtime = s.gtime := rfl
@[simp] theorem State.noteWait_gphase (s : State) (w : List WaitCause) : (s.noteWait w).gphase = s.gphase := rfl
@[simp] theorem State.noteWait_slew (s : State) (w : List WaitCause) : (s.noteWait w).slew = s.slew := rfl
@[simp] theorem State.noteWait_slewPhase (s : State) (w : List WaitCause) :
    (s.noteWait w).slewPhase = s.slewPhase := rfl
@[simp] theorem State.noteWait_free (s : State) (w : List WaitCause) : (s.noteWait w).free = s.free := rfl
@[simp] theorem State.noteWait_agenda (s : State) (w : List WaitCause) : (s.noteWait w).agenda = s.agenda := rfl
@[simp] theorem State.noteWait_turn (s : State) (w : List WaitCause) : (s.noteWait w).turn = s.turn := rfl
@[simp] theorem State.noteWait_focus (s : State) (w : List WaitCause) : (s.noteWait w).focus = s.focus := rfl
@[simp] theorem State.noteWait_eng (s : State) (w : List WaitCause) : (s.noteWait w).eng = s.eng := rfl
@[simp] theorem State.noteWait_syl (s : State) (w : List WaitCause) : (s.noteWait w).syl = s.syl := rfl
@[simp] theorem State.noteWait_idx (s : State) (w : List WaitCause) : (s.noteWait w).idx = s.idx := rfl
@[simp] theorem State.noteWait_clusters (s : State) (w : List WaitCause) : (s.noteWait w).clusters = s.clusters := rfl
@[simp] theorem State.noteWait_hbm (s : State) (w : List WaitCause) : (s.noteWait w).hbm = s.hbm := rfl
@[simp] theorem State.noteWait_scrubs (s : State) (w : List WaitCause) : (s.noteWait w).scrubs = s.scrubs := rfl
@[simp] theorem State.noteWait_poison (s : State) (w : List WaitCause) : (s.noteWait w).poison = s.poison := rfl
@[simp] theorem State.noteWait_dirty (s : State) (w : List WaitCause) : (s.noteWait w).dirty = s.dirty := rfl
@[simp] theorem State.noteWait_l2rng (s : State) (w : List WaitCause) : (s.noteWait w).l2rng = s.l2rng := rfl
@[simp] theorem State.noteWait_l2acc (s : State) (w : List WaitCause) : (s.noteWait w).l2acc = s.l2acc := rfl
@[simp] theorem State.noteWait_l2 (s : State) (w : List WaitCause) : (s.noteWait w).l2 = s.l2 := rfl
@[simp] theorem State.noteWait_claims (s : State) (w : List WaitCause) : (s.noteWait w).claims = s.claims := rfl
@[simp] theorem State.noteWait_barStage (s : State) (w : List WaitCause) : (s.noteWait w).barStage = s.barStage := rfl
@[simp] theorem State.noteWait_hostMem (s : State) (w : List WaitCause) : (s.noteWait w).hostMem = s.hostMem := rfl
@[simp] theorem State.noteWait_slices (s : State) (w : List WaitCause) : (s.noteWait w).slices = s.slices := rfl
@[simp] theorem State.noteWait_slots (s : State) (w : List WaitCause) : (s.noteWait w).slots = s.slots := rfl
@[simp] theorem State.noteWait_queues (s : State) (w : List WaitCause) : (s.noteWait w).queues = s.queues := rfl
@[simp] theorem State.noteWait_gangs (s : State) (w : List WaitCause) : (s.noteWait w).gangs = s.gangs := rfl
@[simp] theorem State.noteWait_insts (s : State) (w : List WaitCause) : (s.noteWait w).insts = s.insts := rfl
@[simp] theorem State.noteWait_saved (s : State) (w : List WaitCause) : (s.noteWait w).saved = s.saved := rfl
@[simp] theorem State.noteWait_nextCtx (s : State) (w : List WaitCause) : (s.noteWait w).nextCtx = s.nextCtx := rfl
@[simp] theorem State.noteWait_images (s : State) (w : List WaitCause) : (s.noteWait w).images = s.images := rfl
@[simp] theorem State.noteWait_prq (s : State) (w : List WaitCause) : (s.noteWait w).prq = s.prq := rfl
@[simp] theorem State.noteWait_reqs (s : State) (w : List WaitCause) : (s.noteWait w).reqs = s.reqs := rfl
@[simp] theorem State.noteWait_nextReq (s : State) (w : List WaitCause) : (s.noteWait w).nextReq = s.nextReq := rfl
@[simp] theorem State.noteWait_walks (s : State) (w : List WaitCause) : (s.noteWait w).walks = s.walks := rfl
@[simp] theorem State.noteWait_xops (s : State) (w : List WaitCause) : (s.noteWait w).xops = s.xops := rfl
@[simp] theorem State.noteWait_regions (s : State) (w : List WaitCause) : (s.noteWait w).regions = s.regions := rfl
@[simp] theorem State.noteWait_records (s : State) (w : List WaitCause) : (s.noteWait w).records = s.records := rfl
@[simp] theorem State.noteWait_links (s : State) (w : List WaitCause) : (s.noteWait w).links = s.links := rfl
@[simp] theorem State.noteWait_endpoints (s : State) (w : List WaitCause) :
    (s.noteWait w).endpoints = s.endpoints := rfl
@[simp] theorem State.noteWait_unfitted (s : State) (w : List WaitCause) : (s.noteWait w).unfitted = s.unfitted := rfl
@[simp] theorem State.noteWait_seqs (s : State) (w : List WaitCause) : (s.noteWait w).seqs = s.seqs := rfl
@[simp] theorem State.noteWait_waiting (s : State) (w : List WaitCause) : (s.noteWait w).waiting = s.waiting := rfl
@[simp] theorem State.noteWait_sent (s : State) (w : List WaitCause) : (s.noteWait w).sent = s.sent := rfl
@[simp] theorem State.noteWait_arrived (s : State) (w : List WaitCause) : (s.noteWait w).arrived = s.arrived := rfl
@[simp] theorem State.noteWait_outbound (s : State) (w : List WaitCause) : (s.noteWait w).outbound = s.outbound := rfl
@[simp] theorem State.noteWait_inbound (s : State) (w : List WaitCause) : (s.noteWait w).inbound = s.inbound := rfl
@[simp] theorem State.noteWait_copied (s : State) (w : List WaitCause) : (s.noteWait w).copied = s.copied := rfl
@[simp] theorem State.noteWait_tier (s : State) (w : List WaitCause) : (s.noteWait w).tier = s.tier := rfl
@[simp] theorem State.noteWait_dev (s : State) (w : List WaitCause) : (s.noteWait w).dev = s.dev := rfl

/-! ## Fields of a core -/

@[simp] theorem Core.setCtx_g (k : Core) (e : Engine) (x : Ctx) : (k.setCtx e x).g = k.g := by cases e <;> rfl
@[simp] theorem Core.modCtx_g (k : Core) (e : Engine) (f : Ctx → Ctx) : (k.modCtx e f).g = k.g := by
  cases e <;> rfl
@[simp] theorem Core.setCtx_p (k : Core) (e : Engine) (x : Ctx) : (k.setCtx e x).p = k.p := by cases e <;> rfl
@[simp] theorem Core.modCtx_p (k : Core) (e : Engine) (f : Ctx → Ctx) : (k.modCtx e f).p = k.p := by
  cases e <;> rfl
@[simp] theorem Core.setCtx_v (k : Core) (e : Engine) (x : Ctx) : (k.setCtx e x).v = k.v := by cases e <;> rfl
@[simp] theorem Core.modCtx_v (k : Core) (e : Engine) (f : Ctx → Ctx) : (k.modCtx e f).v = k.v := by
  cases e <;> rfl
@[simp] theorem Core.setCtx_vp (k : Core) (e : Engine) (x : Ctx) : (k.setCtx e x).vp = k.vp := by cases e <;> rfl
@[simp] theorem Core.modCtx_vp (k : Core) (e : Engine) (f : Ctx → Ctx) : (k.modCtx e f).vp = k.vp := by
  cases e <;> rfl
@[simp] theorem Core.setCtx_x (k : Core) (e : Engine) (x : Ctx) : (k.setCtx e x).x = k.x := by cases e <;> rfl
@[simp] theorem Core.modCtx_x (k : Core) (e : Engine) (f : Ctx → Ctx) : (k.modCtx e f).x = k.x := by
  cases e <;> rfl
@[simp] theorem Core.setCtx_vflags (k : Core) (e : Engine) (x : Ctx) : (k.setCtx e x).vflags = k.vflags := by cases e <;> rfl
@[simp] theorem Core.modCtx_vflags (k : Core) (e : Engine) (f : Ctx → Ctx) : (k.modCtx e f).vflags = k.vflags := by
  cases e <;> rfl
@[simp] theorem Core.setCtx_vlanded (k : Core) (e : Engine) (x : Ctx) : (k.setCtx e x).vlanded = k.vlanded := by cases e <;> rfl
@[simp] theorem Core.modCtx_vlanded (k : Core) (e : Engine) (f : Ctx → Ctx) : (k.modCtx e f).vlanded = k.vlanded := by
  cases e <;> rfl
@[simp] theorem Core.setCtx_flags (k : Core) (e : Engine) (x : Ctx) : (k.setCtx e x).flags = k.flags := by cases e <;> rfl
@[simp] theorem Core.modCtx_flags (k : Core) (e : Engine) (f : Ctx → Ctx) : (k.modCtx e f).flags = k.flags := by
  cases e <;> rfl
@[simp] theorem Core.setCtx_fovf (k : Core) (e : Engine) (x : Ctx) : (k.setCtx e x).fovf = k.fovf := by cases e <;> rfl
@[simp] theorem Core.modCtx_fovf (k : Core) (e : Engine) (f : Ctx → Ctx) : (k.modCtx e f).fovf = k.fovf := by
  cases e <;> rfl
@[simp] theorem Core.setCtx_stallc (k : Core) (e : Engine) (x : Ctx) : (k.setCtx e x).stallc = k.stallc := by cases e <;> rfl
@[simp] theorem Core.modCtx_stallc (k : Core) (e : Engine) (f : Ctx → Ctx) : (k.modCtx e f).stallc = k.stallc := by
  cases e <;> rfl
@[simp] theorem Core.setCtx_queues (k : Core) (e : Engine) (x : Ctx) : (k.setCtx e x).queues = k.queues := by cases e <;> rfl
@[simp] theorem Core.modCtx_queues (k : Core) (e : Engine) (f : Ctx → Ctx) : (k.modCtx e f).queues = k.queues := by
  cases e <;> rfl
@[simp] theorem Core.setCtx_qserial (k : Core) (e : Engine) (x : Ctx) : (k.setCtx e x).qserial = k.qserial := by cases e <;> rfl
@[simp] theorem Core.modCtx_qserial (k : Core) (e : Engine) (f : Ctx → Ctx) : (k.modCtx e f).qserial = k.qserial := by
  cases e <;> rfl
@[simp] theorem Core.setCtx_loops (k : Core) (e : Engine) (x : Ctx) : (k.setCtx e x).loops = k.loops := by cases e <;> rfl
@[simp] theorem Core.modCtx_loops (k : Core) (e : Engine) (f : Ctx → Ctx) : (k.modCtx e f).loops = k.loops := by
  cases e <;> rfl
@[simp] theorem Core.setCtx_trapv (k : Core) (e : Engine) (x : Ctx) : (k.setCtx e x).trapv = k.trapv := by cases e <;> rfl
@[simp] theorem Core.modCtx_trapv (k : Core) (e : Engine) (f : Ctx → Ctx) : (k.modCtx e f).trapv = k.trapv := by
  cases e <;> rfl
@[simp] theorem Core.setCtx_hand (k : Core) (e : Engine) (x : Ctx) : (k.setCtx e x).hand = k.hand := by cases e <;> rfl
@[simp] theorem Core.modCtx_hand (k : Core) (e : Engine) (f : Ctx → Ctx) : (k.modCtx e f).hand = k.hand := by
  cases e <;> rfl
@[simp] theorem Core.setCtx_pend (k : Core) (e : Engine) (x : Ctx) : (k.setCtx e x).pend = k.pend := by cases e <;> rfl
@[simp] theorem Core.modCtx_pend (k : Core) (e : Engine) (f : Ctx → Ctx) : (k.modCtx e f).pend = k.pend := by
  cases e <;> rfl
@[simp] theorem Core.setCtx_handled (k : Core) (e : Engine) (x : Ctx) : (k.setCtx e x).handled = k.handled := by cases e <;> rfl
@[simp] theorem Core.modCtx_handled (k : Core) (e : Engine) (f : Ctx → Ctx) : (k.modCtx e f).handled = k.handled := by
  cases e <;> rfl
@[simp] theorem Core.setCtx_rows (k : Core) (e : Engine) (x : Ctx) : (k.setCtx e x).rows = k.rows := by cases e <;> rfl
@[simp] theorem Core.modCtx_rows (k : Core) (e : Engine) (f : Ctx → Ctx) : (k.modCtx e f).rows = k.rows := by
  cases e <;> rfl
@[simp] theorem Core.setCtx_banks (k : Core) (e : Engine) (x : Ctx) : (k.setCtx e x).banks = k.banks := by cases e <;> rfl
@[simp] theorem Core.modCtx_banks (k : Core) (e : Engine) (f : Ctx → Ctx) : (k.modCtx e f).banks = k.banks := by
  cases e <;> rfl
@[simp] theorem Core.setCtx_bankWaits (k : Core) (e : Engine) (x : Ctx) : (k.setCtx e x).bankWaits = k.bankWaits := by cases e <;> rfl
@[simp] theorem Core.modCtx_bankWaits (k : Core) (e : Engine) (f : Ctx → Ctx) : (k.modCtx e f).bankWaits = k.bankWaits := by
  cases e <;> rfl
@[simp] theorem Core.setCtx_l1 (k : Core) (e : Engine) (x : Ctx) : (k.setCtx e x).l1 = k.l1 := by cases e <;> rfl
@[simp] theorem Core.modCtx_l1 (k : Core) (e : Engine) (f : Ctx → Ctx) : (k.modCtx e f).l1 = k.l1 := by
  cases e <;> rfl
@[simp] theorem Core.setCtx_icache (k : Core) (e : Engine) (x : Ctx) : (k.setCtx e x).icache = k.icache := by cases e <;> rfl
@[simp] theorem Core.modCtx_icache (k : Core) (e : Engine) (f : Ctx → Ctx) : (k.modCtx e f).icache = k.icache := by
  cases e <;> rfl
@[simp] theorem Core.setCtx_icorder (k : Core) (e : Engine) (x : Ctx) : (k.setCtx e x).icorder = k.icorder := by cases e <;> rfl
@[simp] theorem Core.modCtx_icorder (k : Core) (e : Engine) (f : Ctx → Ctx) : (k.modCtx e f).icorder = k.icorder := by
  cases e <;> rfl
@[simp] theorem Core.setCtx_tlb (k : Core) (e : Engine) (x : Ctx) : (k.setCtx e x).tlb = k.tlb := by cases e <;> rfl
@[simp] theorem Core.modCtx_tlb (k : Core) (e : Engine) (f : Ctx → Ctx) : (k.modCtx e f).tlb = k.tlb := by
  cases e <;> rfl
@[simp] theorem Core.setCtx_late (k : Core) (e : Engine) (x : Ctx) : (k.setCtx e x).late = k.late := by cases e <;> rfl
@[simp] theorem Core.modCtx_late (k : Core) (e : Engine) (f : Ctx → Ctx) : (k.modCtx e f).late = k.late := by
  cases e <;> rfl
@[simp] theorem Core.setCtx_latched (k : Core) (e : Engine) (x : Ctx) : (k.setCtx e x).latched = k.latched := by cases e <;> rfl
@[simp] theorem Core.modCtx_latched (k : Core) (e : Engine) (f : Ctx → Ctx) : (k.modCtx e f).latched = k.latched := by
  cases e <;> rfl
@[simp] theorem Core.setCtx_chanSeen (k : Core) (e : Engine) (x : Ctx) : (k.setCtx e x).chanSeen = k.chanSeen := by cases e <;> rfl
@[simp] theorem Core.modCtx_chanSeen (k : Core) (e : Engine) (f : Ctx → Ctx) : (k.modCtx e f).chanSeen = k.chanSeen := by
  cases e <;> rfl
@[simp] theorem Core.setCtx_chans (k : Core) (e : Engine) (x : Ctx) : (k.setCtx e x).chans = k.chans := by cases e <;> rfl
@[simp] theorem Core.modCtx_chans (k : Core) (e : Engine) (f : Ctx → Ctx) : (k.modCtx e f).chans = k.chans := by
  cases e <;> rfl
@[simp] theorem Core.setCtx_caddy (k : Core) (e : Engine) (x : Ctx) : (k.setCtx e x).caddy = k.caddy := by cases e <;> rfl
@[simp] theorem Core.modCtx_caddy (k : Core) (e : Engine) (f : Ctx → Ctx) : (k.modCtx e f).caddy = k.caddy := by
  cases e <;> rfl
@[simp] theorem Core.setCtx_inuse (k : Core) (e : Engine) (x : Ctx) : (k.setCtx e x).inuse = k.inuse := by cases e <;> rfl
@[simp] theorem Core.modCtx_inuse (k : Core) (e : Engine) (f : Ctx → Ctx) : (k.modCtx e f).inuse = k.inuse := by
  cases e <;> rfl
@[simp] theorem Core.setCtx_moved (k : Core) (e : Engine) (x : Ctx) : (k.setCtx e x).moved = k.moved := by cases e <;> rfl
@[simp] theorem Core.modCtx_moved (k : Core) (e : Engine) (f : Ctx → Ctx) : (k.modCtx e f).moved = k.moved := by
  cases e <;> rfl
@[simp] theorem Core.setCtx_served (k : Core) (e : Engine) (x : Ctx) : (k.setCtx e x).served = k.served := by cases e <;> rfl
@[simp] theorem Core.modCtx_served (k : Core) (e : Engine) (f : Ctx → Ctx) : (k.modCtx e f).served = k.served := by
  cases e <;> rfl
@[simp] theorem Core.setCtx_groups (k : Core) (e : Engine) (x : Ctx) : (k.setCtx e x).groups = k.groups := by cases e <;> rfl
@[simp] theorem Core.modCtx_groups (k : Core) (e : Engine) (f : Ctx → Ctx) : (k.modCtx e f).groups = k.groups := by
  cases e <;> rfl
@[simp] theorem Core.setCtx_grants (k : Core) (e : Engine) (x : Ctx) : (k.setCtx e x).grants = k.grants := by cases e <;> rfl
@[simp] theorem Core.modCtx_grants (k : Core) (e : Engine) (f : Ctx → Ctx) : (k.modCtx e f).grants = k.grants := by
  cases e <;> rfl
@[simp] theorem Core.setCtx_mxs (k : Core) (e : Engine) (x : Ctx) : (k.setCtx e x).mxs = k.mxs := by cases e <;> rfl
@[simp] theorem Core.modCtx_mxs (k : Core) (e : Engine) (f : Ctx → Ctx) : (k.modCtx e f).mxs = k.mxs := by
  cases e <;> rfl
@[simp] theorem Core.setCtx_inst (k : Core) (e : Engine) (x : Ctx) : (k.setCtx e x).inst = k.inst := by cases e <;> rfl
@[simp] theorem Core.modCtx_inst (k : Core) (e : Engine) (f : Ctx → Ctx) : (k.modCtx e f).inst = k.inst := by
  cases e <;> rfl
@[simp] theorem Core.setQueue_g (k : Core) (q : BitVec 3) (x : Queue) : (k.setQueue q x).g = k.g := rfl
@[simp] theorem Core.setQueue_p (k : Core) (q : BitVec 3) (x : Queue) : (k.setQueue q x).p = k.p := rfl
@[simp] theorem Core.setQueue_scu (k : Core) (q : BitVec 3) (x : Queue) : (k.setQueue q x).scu = k.scu := rfl
@[simp] theorem Core.setQueue_ve (k : Core) (q : BitVec 3) (x : Queue) : (k.setQueue q x).ve = k.ve := rfl
@[simp] theorem Core.setQueue_ce (k : Core) (q : BitVec 3) (x : Queue) : (k.setQueue q x).ce = k.ce := rfl
@[simp] theorem Core.setQueue_mx (k : Core) (q : BitVec 3) (x : Queue) : (k.setQueue q x).mx = k.mx := rfl
@[simp] theorem Core.setQueue_v (k : Core) (q : BitVec 3) (x : Queue) : (k.setQueue q x).v = k.v := rfl
@[simp] theorem Core.setQueue_vp (k : Core) (q : BitVec 3) (x : Queue) : (k.setQueue q x).vp = k.vp := rfl
@[simp] theorem Core.setQueue_x (k : Core) (q : BitVec 3) (x : Queue) : (k.setQueue q x).x = k.x := rfl
@[simp] theorem Core.setQueue_vflags (k : Core) (q : BitVec 3) (x : Queue) : (k.setQueue q x).vflags = k.vflags := rfl
@[simp] theorem Core.setQueue_vlanded (k : Core) (q : BitVec 3) (x : Queue) : (k.setQueue q x).vlanded = k.vlanded := rfl
@[simp] theorem Core.setQueue_flags (k : Core) (q : BitVec 3) (x : Queue) : (k.setQueue q x).flags = k.flags := rfl
@[simp] theorem Core.setQueue_fovf (k : Core) (q : BitVec 3) (x : Queue) : (k.setQueue q x).fovf = k.fovf := rfl
@[simp] theorem Core.setQueue_stallc (k : Core) (q : BitVec 3) (x : Queue) : (k.setQueue q x).stallc = k.stallc := rfl
@[simp] theorem Core.setQueue_qserial (k : Core) (q : BitVec 3) (x : Queue) : (k.setQueue q x).qserial = k.qserial := rfl
@[simp] theorem Core.setQueue_loops (k : Core) (q : BitVec 3) (x : Queue) : (k.setQueue q x).loops = k.loops := rfl
@[simp] theorem Core.setQueue_trapv (k : Core) (q : BitVec 3) (x : Queue) : (k.setQueue q x).trapv = k.trapv := rfl
@[simp] theorem Core.setQueue_hand (k : Core) (q : BitVec 3) (x : Queue) : (k.setQueue q x).hand = k.hand := rfl
@[simp] theorem Core.setQueue_pend (k : Core) (q : BitVec 3) (x : Queue) : (k.setQueue q x).pend = k.pend := rfl
@[simp] theorem Core.setQueue_handled (k : Core) (q : BitVec 3) (x : Queue) : (k.setQueue q x).handled = k.handled := rfl
@[simp] theorem Core.setQueue_rows (k : Core) (q : BitVec 3) (x : Queue) : (k.setQueue q x).rows = k.rows := rfl
@[simp] theorem Core.setQueue_banks (k : Core) (q : BitVec 3) (x : Queue) : (k.setQueue q x).banks = k.banks := rfl
@[simp] theorem Core.setQueue_bankWaits (k : Core) (q : BitVec 3) (x : Queue) : (k.setQueue q x).bankWaits = k.bankWaits := rfl
@[simp] theorem Core.setQueue_l1 (k : Core) (q : BitVec 3) (x : Queue) : (k.setQueue q x).l1 = k.l1 := rfl
@[simp] theorem Core.setQueue_icache (k : Core) (q : BitVec 3) (x : Queue) : (k.setQueue q x).icache = k.icache := rfl
@[simp] theorem Core.setQueue_icorder (k : Core) (q : BitVec 3) (x : Queue) : (k.setQueue q x).icorder = k.icorder := rfl
@[simp] theorem Core.setQueue_tlb (k : Core) (q : BitVec 3) (x : Queue) : (k.setQueue q x).tlb = k.tlb := rfl
@[simp] theorem Core.setQueue_late (k : Core) (q : BitVec 3) (x : Queue) : (k.setQueue q x).late = k.late := rfl
@[simp] theorem Core.setQueue_latched (k : Core) (q : BitVec 3) (x : Queue) : (k.setQueue q x).latched = k.latched := rfl
@[simp] theorem Core.setQueue_chanSeen (k : Core) (q : BitVec 3) (x : Queue) : (k.setQueue q x).chanSeen = k.chanSeen := rfl
@[simp] theorem Core.setQueue_chans (k : Core) (q : BitVec 3) (x : Queue) : (k.setQueue q x).chans = k.chans := rfl
@[simp] theorem Core.setQueue_caddy (k : Core) (q : BitVec 3) (x : Queue) : (k.setQueue q x).caddy = k.caddy := rfl
@[simp] theorem Core.setQueue_inuse (k : Core) (q : BitVec 3) (x : Queue) : (k.setQueue q x).inuse = k.inuse := rfl
@[simp] theorem Core.setQueue_moved (k : Core) (q : BitVec 3) (x : Queue) : (k.setQueue q x).moved = k.moved := rfl
@[simp] theorem Core.setQueue_served (k : Core) (q : BitVec 3) (x : Queue) : (k.setQueue q x).served = k.served := rfl
@[simp] theorem Core.setQueue_groups (k : Core) (q : BitVec 3) (x : Queue) : (k.setQueue q x).groups = k.groups := rfl
@[simp] theorem Core.setQueue_grants (k : Core) (q : BitVec 3) (x : Queue) : (k.setQueue q x).grants = k.grants := rfl
@[simp] theorem Core.setQueue_mxs (k : Core) (q : BitVec 3) (x : Queue) : (k.setQueue q x).mxs = k.mxs := rfl
@[simp] theorem Core.setQueue_inst (k : Core) (q : BitVec 3) (x : Queue) : (k.setQueue q x).inst = k.inst := rfl
@[simp] theorem Core.popQueue_g (k : Core) (q : BitVec 3) : (k.popQueue q).g = k.g := rfl
@[simp] theorem Core.popQueue_p (k : Core) (q : BitVec 3) : (k.popQueue q).p = k.p := rfl
@[simp] theorem Core.popQueue_scu (k : Core) (q : BitVec 3) : (k.popQueue q).scu = k.scu := rfl
@[simp] theorem Core.popQueue_ve (k : Core) (q : BitVec 3) : (k.popQueue q).ve = k.ve := rfl
@[simp] theorem Core.popQueue_ce (k : Core) (q : BitVec 3) : (k.popQueue q).ce = k.ce := rfl
@[simp] theorem Core.popQueue_mx (k : Core) (q : BitVec 3) : (k.popQueue q).mx = k.mx := rfl
@[simp] theorem Core.popQueue_v (k : Core) (q : BitVec 3) : (k.popQueue q).v = k.v := rfl
@[simp] theorem Core.popQueue_vp (k : Core) (q : BitVec 3) : (k.popQueue q).vp = k.vp := rfl
@[simp] theorem Core.popQueue_x (k : Core) (q : BitVec 3) : (k.popQueue q).x = k.x := rfl
@[simp] theorem Core.popQueue_vflags (k : Core) (q : BitVec 3) : (k.popQueue q).vflags = k.vflags := rfl
@[simp] theorem Core.popQueue_vlanded (k : Core) (q : BitVec 3) : (k.popQueue q).vlanded = k.vlanded := rfl
@[simp] theorem Core.popQueue_flags (k : Core) (q : BitVec 3) : (k.popQueue q).flags = k.flags := rfl
@[simp] theorem Core.popQueue_fovf (k : Core) (q : BitVec 3) : (k.popQueue q).fovf = k.fovf := rfl
@[simp] theorem Core.popQueue_stallc (k : Core) (q : BitVec 3) : (k.popQueue q).stallc = k.stallc := rfl
@[simp] theorem Core.popQueue_qserial (k : Core) (q : BitVec 3) : (k.popQueue q).qserial = k.qserial := rfl
@[simp] theorem Core.popQueue_loops (k : Core) (q : BitVec 3) : (k.popQueue q).loops = k.loops := rfl
@[simp] theorem Core.popQueue_trapv (k : Core) (q : BitVec 3) : (k.popQueue q).trapv = k.trapv := rfl
@[simp] theorem Core.popQueue_hand (k : Core) (q : BitVec 3) : (k.popQueue q).hand = k.hand := rfl
@[simp] theorem Core.popQueue_pend (k : Core) (q : BitVec 3) : (k.popQueue q).pend = k.pend := rfl
@[simp] theorem Core.popQueue_handled (k : Core) (q : BitVec 3) : (k.popQueue q).handled = k.handled := rfl
@[simp] theorem Core.popQueue_rows (k : Core) (q : BitVec 3) : (k.popQueue q).rows = k.rows := rfl
@[simp] theorem Core.popQueue_banks (k : Core) (q : BitVec 3) : (k.popQueue q).banks = k.banks := rfl
@[simp] theorem Core.popQueue_bankWaits (k : Core) (q : BitVec 3) : (k.popQueue q).bankWaits = k.bankWaits := rfl
@[simp] theorem Core.popQueue_l1 (k : Core) (q : BitVec 3) : (k.popQueue q).l1 = k.l1 := rfl
@[simp] theorem Core.popQueue_icache (k : Core) (q : BitVec 3) : (k.popQueue q).icache = k.icache := rfl
@[simp] theorem Core.popQueue_icorder (k : Core) (q : BitVec 3) : (k.popQueue q).icorder = k.icorder := rfl
@[simp] theorem Core.popQueue_tlb (k : Core) (q : BitVec 3) : (k.popQueue q).tlb = k.tlb := rfl
@[simp] theorem Core.popQueue_late (k : Core) (q : BitVec 3) : (k.popQueue q).late = k.late := rfl
@[simp] theorem Core.popQueue_latched (k : Core) (q : BitVec 3) : (k.popQueue q).latched = k.latched := rfl
@[simp] theorem Core.popQueue_chanSeen (k : Core) (q : BitVec 3) : (k.popQueue q).chanSeen = k.chanSeen := rfl
@[simp] theorem Core.popQueue_chans (k : Core) (q : BitVec 3) : (k.popQueue q).chans = k.chans := rfl
@[simp] theorem Core.popQueue_caddy (k : Core) (q : BitVec 3) : (k.popQueue q).caddy = k.caddy := rfl
@[simp] theorem Core.popQueue_inuse (k : Core) (q : BitVec 3) : (k.popQueue q).inuse = k.inuse := rfl
@[simp] theorem Core.popQueue_moved (k : Core) (q : BitVec 3) : (k.popQueue q).moved = k.moved := rfl
@[simp] theorem Core.popQueue_served (k : Core) (q : BitVec 3) : (k.popQueue q).served = k.served := rfl
@[simp] theorem Core.popQueue_groups (k : Core) (q : BitVec 3) : (k.popQueue q).groups = k.groups := rfl
@[simp] theorem Core.popQueue_grants (k : Core) (q : BitVec 3) : (k.popQueue q).grants = k.grants := rfl
@[simp] theorem Core.popQueue_mxs (k : Core) (q : BitVec 3) : (k.popQueue q).mxs = k.mxs := rfl
@[simp] theorem Core.popQueue_inst (k : Core) (q : BitVec 3) : (k.popQueue q).inst = k.inst := rfl
@[simp] theorem Core.fill_g (k : Core) (q : BitVec 3) (i : Nat) (v : Row) : (k.fill q i v).g = k.g := rfl
@[simp] theorem Core.fill_p (k : Core) (q : BitVec 3) (i : Nat) (v : Row) : (k.fill q i v).p = k.p := rfl
@[simp] theorem Core.fill_scu (k : Core) (q : BitVec 3) (i : Nat) (v : Row) : (k.fill q i v).scu = k.scu := rfl
@[simp] theorem Core.fill_ve (k : Core) (q : BitVec 3) (i : Nat) (v : Row) : (k.fill q i v).ve = k.ve := rfl
@[simp] theorem Core.fill_ce (k : Core) (q : BitVec 3) (i : Nat) (v : Row) : (k.fill q i v).ce = k.ce := rfl
@[simp] theorem Core.fill_mx (k : Core) (q : BitVec 3) (i : Nat) (v : Row) : (k.fill q i v).mx = k.mx := rfl
@[simp] theorem Core.fill_v (k : Core) (q : BitVec 3) (i : Nat) (v : Row) : (k.fill q i v).v = k.v := rfl
@[simp] theorem Core.fill_vp (k : Core) (q : BitVec 3) (i : Nat) (v : Row) : (k.fill q i v).vp = k.vp := rfl
@[simp] theorem Core.fill_x (k : Core) (q : BitVec 3) (i : Nat) (v : Row) : (k.fill q i v).x = k.x := rfl
@[simp] theorem Core.fill_vflags (k : Core) (q : BitVec 3) (i : Nat) (v : Row) : (k.fill q i v).vflags = k.vflags := rfl
@[simp] theorem Core.fill_vlanded (k : Core) (q : BitVec 3) (i : Nat) (v : Row) : (k.fill q i v).vlanded = k.vlanded := rfl
@[simp] theorem Core.fill_flags (k : Core) (q : BitVec 3) (i : Nat) (v : Row) : (k.fill q i v).flags = k.flags := rfl
@[simp] theorem Core.fill_fovf (k : Core) (q : BitVec 3) (i : Nat) (v : Row) : (k.fill q i v).fovf = k.fovf := rfl
@[simp] theorem Core.fill_stallc (k : Core) (q : BitVec 3) (i : Nat) (v : Row) : (k.fill q i v).stallc = k.stallc := rfl
@[simp] theorem Core.fill_qserial (k : Core) (q : BitVec 3) (i : Nat) (v : Row) : (k.fill q i v).qserial = k.qserial := rfl
@[simp] theorem Core.fill_loops (k : Core) (q : BitVec 3) (i : Nat) (v : Row) : (k.fill q i v).loops = k.loops := rfl
@[simp] theorem Core.fill_trapv (k : Core) (q : BitVec 3) (i : Nat) (v : Row) : (k.fill q i v).trapv = k.trapv := rfl
@[simp] theorem Core.fill_hand (k : Core) (q : BitVec 3) (i : Nat) (v : Row) : (k.fill q i v).hand = k.hand := rfl
@[simp] theorem Core.fill_pend (k : Core) (q : BitVec 3) (i : Nat) (v : Row) : (k.fill q i v).pend = k.pend := rfl
@[simp] theorem Core.fill_handled (k : Core) (q : BitVec 3) (i : Nat) (v : Row) : (k.fill q i v).handled = k.handled := rfl
@[simp] theorem Core.fill_rows (k : Core) (q : BitVec 3) (i : Nat) (v : Row) : (k.fill q i v).rows = k.rows := rfl
@[simp] theorem Core.fill_banks (k : Core) (q : BitVec 3) (i : Nat) (v : Row) : (k.fill q i v).banks = k.banks := rfl
@[simp] theorem Core.fill_bankWaits (k : Core) (q : BitVec 3) (i : Nat) (v : Row) : (k.fill q i v).bankWaits = k.bankWaits := rfl
@[simp] theorem Core.fill_l1 (k : Core) (q : BitVec 3) (i : Nat) (v : Row) : (k.fill q i v).l1 = k.l1 := rfl
@[simp] theorem Core.fill_icache (k : Core) (q : BitVec 3) (i : Nat) (v : Row) : (k.fill q i v).icache = k.icache := rfl
@[simp] theorem Core.fill_icorder (k : Core) (q : BitVec 3) (i : Nat) (v : Row) : (k.fill q i v).icorder = k.icorder := rfl
@[simp] theorem Core.fill_tlb (k : Core) (q : BitVec 3) (i : Nat) (v : Row) : (k.fill q i v).tlb = k.tlb := rfl
@[simp] theorem Core.fill_late (k : Core) (q : BitVec 3) (i : Nat) (v : Row) : (k.fill q i v).late = k.late := rfl
@[simp] theorem Core.fill_latched (k : Core) (q : BitVec 3) (i : Nat) (v : Row) : (k.fill q i v).latched = k.latched := rfl
@[simp] theorem Core.fill_chanSeen (k : Core) (q : BitVec 3) (i : Nat) (v : Row) : (k.fill q i v).chanSeen = k.chanSeen := rfl
@[simp] theorem Core.fill_chans (k : Core) (q : BitVec 3) (i : Nat) (v : Row) : (k.fill q i v).chans = k.chans := rfl
@[simp] theorem Core.fill_caddy (k : Core) (q : BitVec 3) (i : Nat) (v : Row) : (k.fill q i v).caddy = k.caddy := rfl
@[simp] theorem Core.fill_inuse (k : Core) (q : BitVec 3) (i : Nat) (v : Row) : (k.fill q i v).inuse = k.inuse := rfl
@[simp] theorem Core.fill_moved (k : Core) (q : BitVec 3) (i : Nat) (v : Row) : (k.fill q i v).moved = k.moved := rfl
@[simp] theorem Core.fill_served (k : Core) (q : BitVec 3) (i : Nat) (v : Row) : (k.fill q i v).served = k.served := rfl
@[simp] theorem Core.fill_groups (k : Core) (q : BitVec 3) (i : Nat) (v : Row) : (k.fill q i v).groups = k.groups := rfl
@[simp] theorem Core.fill_grants (k : Core) (q : BitVec 3) (i : Nat) (v : Row) : (k.fill q i v).grants = k.grants := rfl
@[simp] theorem Core.fill_mxs (k : Core) (q : BitVec 3) (i : Nat) (v : Row) : (k.fill q i v).mxs = k.mxs := rfl
@[simp] theorem Core.fill_inst (k : Core) (q : BitVec 3) (i : Nat) (v : Row) : (k.fill q i v).inst = k.inst := rfl
@[simp] theorem Core.reserve_g (k : Core) (q : BitVec 3) : (k.reserve q).g = k.g := rfl
@[simp] theorem Core.reserve_p (k : Core) (q : BitVec 3) : (k.reserve q).p = k.p := rfl
@[simp] theorem Core.reserve_scu (k : Core) (q : BitVec 3) : (k.reserve q).scu = k.scu := rfl
@[simp] theorem Core.reserve_ve (k : Core) (q : BitVec 3) : (k.reserve q).ve = k.ve := rfl
@[simp] theorem Core.reserve_ce (k : Core) (q : BitVec 3) : (k.reserve q).ce = k.ce := rfl
@[simp] theorem Core.reserve_mx (k : Core) (q : BitVec 3) : (k.reserve q).mx = k.mx := rfl
@[simp] theorem Core.reserve_v (k : Core) (q : BitVec 3) : (k.reserve q).v = k.v := rfl
@[simp] theorem Core.reserve_vp (k : Core) (q : BitVec 3) : (k.reserve q).vp = k.vp := rfl
@[simp] theorem Core.reserve_x (k : Core) (q : BitVec 3) : (k.reserve q).x = k.x := rfl
@[simp] theorem Core.reserve_vflags (k : Core) (q : BitVec 3) : (k.reserve q).vflags = k.vflags := rfl
@[simp] theorem Core.reserve_vlanded (k : Core) (q : BitVec 3) : (k.reserve q).vlanded = k.vlanded := rfl
@[simp] theorem Core.reserve_flags (k : Core) (q : BitVec 3) : (k.reserve q).flags = k.flags := rfl
@[simp] theorem Core.reserve_fovf (k : Core) (q : BitVec 3) : (k.reserve q).fovf = k.fovf := rfl
@[simp] theorem Core.reserve_stallc (k : Core) (q : BitVec 3) : (k.reserve q).stallc = k.stallc := rfl
@[simp] theorem Core.reserve_loops (k : Core) (q : BitVec 3) : (k.reserve q).loops = k.loops := rfl
@[simp] theorem Core.reserve_trapv (k : Core) (q : BitVec 3) : (k.reserve q).trapv = k.trapv := rfl
@[simp] theorem Core.reserve_hand (k : Core) (q : BitVec 3) : (k.reserve q).hand = k.hand := rfl
@[simp] theorem Core.reserve_pend (k : Core) (q : BitVec 3) : (k.reserve q).pend = k.pend := rfl
@[simp] theorem Core.reserve_handled (k : Core) (q : BitVec 3) : (k.reserve q).handled = k.handled := rfl
@[simp] theorem Core.reserve_rows (k : Core) (q : BitVec 3) : (k.reserve q).rows = k.rows := rfl
@[simp] theorem Core.reserve_banks (k : Core) (q : BitVec 3) : (k.reserve q).banks = k.banks := rfl
@[simp] theorem Core.reserve_bankWaits (k : Core) (q : BitVec 3) : (k.reserve q).bankWaits = k.bankWaits := rfl
@[simp] theorem Core.reserve_l1 (k : Core) (q : BitVec 3) : (k.reserve q).l1 = k.l1 := rfl
@[simp] theorem Core.reserve_icache (k : Core) (q : BitVec 3) : (k.reserve q).icache = k.icache := rfl
@[simp] theorem Core.reserve_icorder (k : Core) (q : BitVec 3) : (k.reserve q).icorder = k.icorder := rfl
@[simp] theorem Core.reserve_tlb (k : Core) (q : BitVec 3) : (k.reserve q).tlb = k.tlb := rfl
@[simp] theorem Core.reserve_late (k : Core) (q : BitVec 3) : (k.reserve q).late = k.late := rfl
@[simp] theorem Core.reserve_latched (k : Core) (q : BitVec 3) : (k.reserve q).latched = k.latched := rfl
@[simp] theorem Core.reserve_chanSeen (k : Core) (q : BitVec 3) : (k.reserve q).chanSeen = k.chanSeen := rfl
@[simp] theorem Core.reserve_chans (k : Core) (q : BitVec 3) : (k.reserve q).chans = k.chans := rfl
@[simp] theorem Core.reserve_caddy (k : Core) (q : BitVec 3) : (k.reserve q).caddy = k.caddy := rfl
@[simp] theorem Core.reserve_inuse (k : Core) (q : BitVec 3) : (k.reserve q).inuse = k.inuse := rfl
@[simp] theorem Core.reserve_moved (k : Core) (q : BitVec 3) : (k.reserve q).moved = k.moved := rfl
@[simp] theorem Core.reserve_served (k : Core) (q : BitVec 3) : (k.reserve q).served = k.served := rfl
@[simp] theorem Core.reserve_groups (k : Core) (q : BitVec 3) : (k.reserve q).groups = k.groups := rfl
@[simp] theorem Core.reserve_grants (k : Core) (q : BitVec 3) : (k.reserve q).grants = k.grants := rfl
@[simp] theorem Core.reserve_mxs (k : Core) (q : BitVec 3) : (k.reserve q).mxs = k.mxs := rfl
@[simp] theorem Core.reserve_inst (k : Core) (q : BitVec 3) : (k.reserve q).inst = k.inst := rfl
@[simp] theorem Core.raise_g (k : Core) (v : W64) : (k.raise v).g = k.g := rfl
@[simp] theorem Core.raise_p (k : Core) (v : W64) : (k.raise v).p = k.p := rfl
@[simp] theorem Core.raise_scu (k : Core) (v : W64) : (k.raise v).scu = k.scu := rfl
@[simp] theorem Core.raise_ve (k : Core) (v : W64) : (k.raise v).ve = k.ve := rfl
@[simp] theorem Core.raise_ce (k : Core) (v : W64) : (k.raise v).ce = k.ce := rfl
@[simp] theorem Core.raise_mx (k : Core) (v : W64) : (k.raise v).mx = k.mx := rfl
@[simp] theorem Core.raise_v (k : Core) (v : W64) : (k.raise v).v = k.v := rfl
@[simp] theorem Core.raise_vp (k : Core) (v : W64) : (k.raise v).vp = k.vp := rfl
@[simp] theorem Core.raise_x (k : Core) (v : W64) : (k.raise v).x = k.x := rfl
@[simp] theorem Core.raise_flags (k : Core) (v : W64) : (k.raise v).flags = k.flags := rfl
@[simp] theorem Core.raise_fovf (k : Core) (v : W64) : (k.raise v).fovf = k.fovf := rfl
@[simp] theorem Core.raise_stallc (k : Core) (v : W64) : (k.raise v).stallc = k.stallc := rfl
@[simp] theorem Core.raise_queues (k : Core) (v : W64) : (k.raise v).queues = k.queues := rfl
@[simp] theorem Core.raise_qserial (k : Core) (v : W64) : (k.raise v).qserial = k.qserial := rfl
@[simp] theorem Core.raise_loops (k : Core) (v : W64) : (k.raise v).loops = k.loops := rfl
@[simp] theorem Core.raise_trapv (k : Core) (v : W64) : (k.raise v).trapv = k.trapv := rfl
@[simp] theorem Core.raise_hand (k : Core) (v : W64) : (k.raise v).hand = k.hand := rfl
@[simp] theorem Core.raise_pend (k : Core) (v : W64) : (k.raise v).pend = k.pend := rfl
@[simp] theorem Core.raise_handled (k : Core) (v : W64) : (k.raise v).handled = k.handled := rfl
@[simp] theorem Core.raise_rows (k : Core) (v : W64) : (k.raise v).rows = k.rows := rfl
@[simp] theorem Core.raise_banks (k : Core) (v : W64) : (k.raise v).banks = k.banks := rfl
@[simp] theorem Core.raise_bankWaits (k : Core) (v : W64) : (k.raise v).bankWaits = k.bankWaits := rfl
@[simp] theorem Core.raise_l1 (k : Core) (v : W64) : (k.raise v).l1 = k.l1 := rfl
@[simp] theorem Core.raise_icache (k : Core) (v : W64) : (k.raise v).icache = k.icache := rfl
@[simp] theorem Core.raise_icorder (k : Core) (v : W64) : (k.raise v).icorder = k.icorder := rfl
@[simp] theorem Core.raise_tlb (k : Core) (v : W64) : (k.raise v).tlb = k.tlb := rfl
@[simp] theorem Core.raise_late (k : Core) (v : W64) : (k.raise v).late = k.late := rfl
@[simp] theorem Core.raise_latched (k : Core) (v : W64) : (k.raise v).latched = k.latched := rfl
@[simp] theorem Core.raise_chanSeen (k : Core) (v : W64) : (k.raise v).chanSeen = k.chanSeen := rfl
@[simp] theorem Core.raise_chans (k : Core) (v : W64) : (k.raise v).chans = k.chans := rfl
@[simp] theorem Core.raise_caddy (k : Core) (v : W64) : (k.raise v).caddy = k.caddy := rfl
@[simp] theorem Core.raise_inuse (k : Core) (v : W64) : (k.raise v).inuse = k.inuse := rfl
@[simp] theorem Core.raise_moved (k : Core) (v : W64) : (k.raise v).moved = k.moved := rfl
@[simp] theorem Core.raise_served (k : Core) (v : W64) : (k.raise v).served = k.served := rfl
@[simp] theorem Core.raise_groups (k : Core) (v : W64) : (k.raise v).groups = k.groups := rfl
@[simp] theorem Core.raise_grants (k : Core) (v : W64) : (k.raise v).grants = k.grants := rfl
@[simp] theorem Core.raise_mxs (k : Core) (v : W64) : (k.raise v).mxs = k.mxs := rfl
@[simp] theorem Core.raise_inst (k : Core) (v : W64) : (k.raise v).inst = k.inst := rfl
@[simp] theorem Core.setFlag_g (k : Core) (n : BitVec 4) (v : BitVec 16) : (k.setFlag n v).g = k.g := rfl
@[simp] theorem Core.setFlag_p (k : Core) (n : BitVec 4) (v : BitVec 16) : (k.setFlag n v).p = k.p := rfl
@[simp] theorem Core.setFlag_scu (k : Core) (n : BitVec 4) (v : BitVec 16) : (k.setFlag n v).scu = k.scu := rfl
@[simp] theorem Core.setFlag_ve (k : Core) (n : BitVec 4) (v : BitVec 16) : (k.setFlag n v).ve = k.ve := rfl
@[simp] theorem Core.setFlag_ce (k : Core) (n : BitVec 4) (v : BitVec 16) : (k.setFlag n v).ce = k.ce := rfl
@[simp] theorem Core.setFlag_mx (k : Core) (n : BitVec 4) (v : BitVec 16) : (k.setFlag n v).mx = k.mx := rfl
@[simp] theorem Core.setFlag_v (k : Core) (n : BitVec 4) (v : BitVec 16) : (k.setFlag n v).v = k.v := rfl
@[simp] theorem Core.setFlag_vp (k : Core) (n : BitVec 4) (v : BitVec 16) : (k.setFlag n v).vp = k.vp := rfl
@[simp] theorem Core.setFlag_x (k : Core) (n : BitVec 4) (v : BitVec 16) : (k.setFlag n v).x = k.x := rfl
@[simp] theorem Core.setFlag_vflags (k : Core) (n : BitVec 4) (v : BitVec 16) : (k.setFlag n v).vflags = k.vflags := rfl
@[simp] theorem Core.setFlag_vlanded (k : Core) (n : BitVec 4) (v : BitVec 16) : (k.setFlag n v).vlanded = k.vlanded := rfl
@[simp] theorem Core.setFlag_fovf (k : Core) (n : BitVec 4) (v : BitVec 16) : (k.setFlag n v).fovf = k.fovf := rfl
@[simp] theorem Core.setFlag_stallc (k : Core) (n : BitVec 4) (v : BitVec 16) : (k.setFlag n v).stallc = k.stallc := rfl
@[simp] theorem Core.setFlag_queues (k : Core) (n : BitVec 4) (v : BitVec 16) : (k.setFlag n v).queues = k.queues := rfl
@[simp] theorem Core.setFlag_qserial (k : Core) (n : BitVec 4) (v : BitVec 16) : (k.setFlag n v).qserial = k.qserial := rfl
@[simp] theorem Core.setFlag_loops (k : Core) (n : BitVec 4) (v : BitVec 16) : (k.setFlag n v).loops = k.loops := rfl
@[simp] theorem Core.setFlag_trapv (k : Core) (n : BitVec 4) (v : BitVec 16) : (k.setFlag n v).trapv = k.trapv := rfl
@[simp] theorem Core.setFlag_hand (k : Core) (n : BitVec 4) (v : BitVec 16) : (k.setFlag n v).hand = k.hand := rfl
@[simp] theorem Core.setFlag_pend (k : Core) (n : BitVec 4) (v : BitVec 16) : (k.setFlag n v).pend = k.pend := rfl
@[simp] theorem Core.setFlag_handled (k : Core) (n : BitVec 4) (v : BitVec 16) : (k.setFlag n v).handled = k.handled := rfl
@[simp] theorem Core.setFlag_rows (k : Core) (n : BitVec 4) (v : BitVec 16) : (k.setFlag n v).rows = k.rows := rfl
@[simp] theorem Core.setFlag_banks (k : Core) (n : BitVec 4) (v : BitVec 16) : (k.setFlag n v).banks = k.banks := rfl
@[simp] theorem Core.setFlag_bankWaits (k : Core) (n : BitVec 4) (v : BitVec 16) : (k.setFlag n v).bankWaits = k.bankWaits := rfl
@[simp] theorem Core.setFlag_l1 (k : Core) (n : BitVec 4) (v : BitVec 16) : (k.setFlag n v).l1 = k.l1 := rfl
@[simp] theorem Core.setFlag_icache (k : Core) (n : BitVec 4) (v : BitVec 16) : (k.setFlag n v).icache = k.icache := rfl
@[simp] theorem Core.setFlag_icorder (k : Core) (n : BitVec 4) (v : BitVec 16) : (k.setFlag n v).icorder = k.icorder := rfl
@[simp] theorem Core.setFlag_tlb (k : Core) (n : BitVec 4) (v : BitVec 16) : (k.setFlag n v).tlb = k.tlb := rfl
@[simp] theorem Core.setFlag_late (k : Core) (n : BitVec 4) (v : BitVec 16) : (k.setFlag n v).late = k.late := rfl
@[simp] theorem Core.setFlag_latched (k : Core) (n : BitVec 4) (v : BitVec 16) : (k.setFlag n v).latched = k.latched := rfl
@[simp] theorem Core.setFlag_chanSeen (k : Core) (n : BitVec 4) (v : BitVec 16) : (k.setFlag n v).chanSeen = k.chanSeen := rfl
@[simp] theorem Core.setFlag_chans (k : Core) (n : BitVec 4) (v : BitVec 16) : (k.setFlag n v).chans = k.chans := rfl
@[simp] theorem Core.setFlag_caddy (k : Core) (n : BitVec 4) (v : BitVec 16) : (k.setFlag n v).caddy = k.caddy := rfl
@[simp] theorem Core.setFlag_inuse (k : Core) (n : BitVec 4) (v : BitVec 16) : (k.setFlag n v).inuse = k.inuse := rfl
@[simp] theorem Core.setFlag_moved (k : Core) (n : BitVec 4) (v : BitVec 16) : (k.setFlag n v).moved = k.moved := rfl
@[simp] theorem Core.setFlag_served (k : Core) (n : BitVec 4) (v : BitVec 16) : (k.setFlag n v).served = k.served := rfl
@[simp] theorem Core.setFlag_groups (k : Core) (n : BitVec 4) (v : BitVec 16) : (k.setFlag n v).groups = k.groups := rfl
@[simp] theorem Core.setFlag_grants (k : Core) (n : BitVec 4) (v : BitVec 16) : (k.setFlag n v).grants = k.grants := rfl
@[simp] theorem Core.setFlag_mxs (k : Core) (n : BitVec 4) (v : BitVec 16) : (k.setFlag n v).mxs = k.mxs := rfl
@[simp] theorem Core.setFlag_inst (k : Core) (n : BitVec 4) (v : BitVec 16) : (k.setFlag n v).inst = k.inst := rfl

/-! ## Fields of an engine -/

@[simp] theorem Ctx.setA_pt (x : Ctx) (n : BitVec 4) (v : W64) : (x.setA n v).pt = x.pt := rfl
@[simp] theorem Ctx.setA_run (x : Ctx) (n : BitVec 4) (v : W64) : (x.setA n v).run = x.run := rfl
@[simp] theorem Ctx.setA_mpc (x : Ctx) (n : BitVec 4) (v : W64) : (x.setA n v).mpc = x.mpc := rfl
@[simp] theorem Ctx.setA_slack (x : Ctx) (n : BitVec 4) (v : W64) : (x.setA n v).slack = x.slack := rfl
@[simp] theorem Ctx.setA_tok (x : Ctx) (n : BitVec 4) (v : W64) : (x.setA n v).tok = x.tok := rfl
@[simp] theorem Ctx.setA_next (x : Ctx) (n : BitVec 4) (v : W64) : (x.setA n v).next = x.next := rfl
@[simp] theorem Ctx.setA_serial (x : Ctx) (n : BitVec 4) (v : W64) : (x.setA n v).serial = x.serial := rfl
@[simp] theorem Ctx.setA_land (x : Ctx) (n : BitVec 4) (v : W64) : (x.setA n v).land = x.land := rfl
@[simp] theorem Ctx.setA_returns (x : Ctx) (n : BitVec 4) (v : W64) : (x.setA n v).returns = x.returns := rfl
@[simp] theorem Ctx.setA_landed (x : Ctx) (n : BitVec 4) (v : W64) : (x.setA n v).landed = x.landed := rfl
@[simp] theorem Ctx.setA_ops (x : Ctx) (n : BitVec 4) (v : W64) : (x.setA n v).ops = x.ops := rfl
@[simp] theorem Ctx.setA_bubble (x : Ctx) (n : BitVec 4) (v : W64) : (x.setA n v).bubble = x.bubble := rfl
@[simp] theorem Ctx.setA_wait (x : Ctx) (n : BitVec 4) (v : W64) : (x.setA n v).wait = x.wait := rfl
@[simp] theorem Ctx.setA_stuck (x : Ctx) (n : BitVec 4) (v : W64) : (x.setA n v).stuck = x.stuck := rfl
@[simp] theorem Ctx.setA_why (x : Ctx) (n : BitVec 4) (v : W64) : (x.setA n v).why = x.why := rfl
@[simp] theorem Ctx.setA_target (x : Ctx) (n : BitVec 4) (v : W64) : (x.setA n v).target = x.target := rfl
@[simp] theorem Ctx.setA_falls (x : Ctx) (n : BitVec 4) (v : W64) : (x.setA n v).falls = x.falls := rfl
@[simp] theorem Ctx.setA_reach (x : Ctx) (n : BitVec 4) (v : W64) : (x.setA n v).reach = x.reach := rfl
@[simp] theorem Ctx.setA_lastRec (x : Ctx) (n : BitVec 4) (v : W64) : (x.setA n v).lastRec = x.lastRec := rfl
@[simp] theorem Ctx.setA_frozen (x : Ctx) (n : BitVec 4) (v : W64) : (x.setA n v).frozen = x.frozen := rfl
@[simp] theorem Ctx.setA_lbuf (x : Ctx) (n : BitVec 4) (v : W64) : (x.setA n v).lbuf = x.lbuf := rfl
@[simp] theorem Ctx.setA_fresh (x : Ctx) (n : BitVec 4) (v : W64) : (x.setA n v).fresh = x.fresh := rfl
@[simp] theorem Ctx.setA_starting (x : Ctx) (n : BitVec 4) (v : W64) : (x.setA n v).starting = x.starting := rfl
@[simp] theorem Ctx.enter_areg (x : Ctx) (o : PendOp) (b : Bool) (now : Nat) : (x.enter o b now).areg = x.areg := by cases h : o.tok <;> simp [Ctx.enter, Ctx.charge, h]
@[simp] theorem Ctx.enter_pt (x : Ctx) (o : PendOp) (b : Bool) (now : Nat) : (x.enter o b now).pt = x.pt := by cases h : o.tok <;> simp [Ctx.enter, Ctx.charge, h]
@[simp] theorem Ctx.enter_run (x : Ctx) (o : PendOp) (b : Bool) (now : Nat) : (x.enter o b now).run = x.run := by cases h : o.tok <;> simp [Ctx.enter, Ctx.charge, h]
@[simp] theorem Ctx.enter_mpc (x : Ctx) (o : PendOp) (b : Bool) (now : Nat) : (x.enter o b now).mpc = x.mpc := by cases h : o.tok <;> simp [Ctx.enter, Ctx.charge, h]
@[simp] theorem Ctx.enter_slack (x : Ctx) (o : PendOp) (b : Bool) (now : Nat) : (x.enter o b now).slack = x.slack := by cases h : o.tok <;> simp [Ctx.enter, Ctx.charge, h]
@[simp] theorem Ctx.enter_land (x : Ctx) (o : PendOp) (b : Bool) (now : Nat) : (x.enter o b now).land = x.land := by cases h : o.tok <;> simp [Ctx.enter, Ctx.charge, h]
@[simp] theorem Ctx.enter_returns (x : Ctx) (o : PendOp) (b : Bool) (now : Nat) : (x.enter o b now).returns = x.returns := by cases h : o.tok <;> simp [Ctx.enter, Ctx.charge, h]
@[simp] theorem Ctx.enter_landed (x : Ctx) (o : PendOp) (b : Bool) (now : Nat) : (x.enter o b now).landed = x.landed := by cases h : o.tok <;> simp [Ctx.enter, Ctx.charge, h]
@[simp] theorem Ctx.enter_bubble (x : Ctx) (o : PendOp) (b : Bool) (now : Nat) : (x.enter o b now).bubble = x.bubble := by cases h : o.tok <;> simp [Ctx.enter, Ctx.charge, h]
@[simp] theorem Ctx.enter_wait (x : Ctx) (o : PendOp) (b : Bool) (now : Nat) : (x.enter o b now).wait = x.wait := by cases h : o.tok <;> simp [Ctx.enter, Ctx.charge, h]
@[simp] theorem Ctx.enter_stuck (x : Ctx) (o : PendOp) (b : Bool) (now : Nat) : (x.enter o b now).stuck = x.stuck := by cases h : o.tok <;> simp [Ctx.enter, Ctx.charge, h]
@[simp] theorem Ctx.enter_why (x : Ctx) (o : PendOp) (b : Bool) (now : Nat) : (x.enter o b now).why = x.why := by cases h : o.tok <;> simp [Ctx.enter, Ctx.charge, h]
@[simp] theorem Ctx.enter_target (x : Ctx) (o : PendOp) (b : Bool) (now : Nat) : (x.enter o b now).target = x.target := by cases h : o.tok <;> simp [Ctx.enter, Ctx.charge, h]
@[simp] theorem Ctx.enter_falls (x : Ctx) (o : PendOp) (b : Bool) (now : Nat) : (x.enter o b now).falls = x.falls := by cases h : o.tok <;> simp [Ctx.enter, Ctx.charge, h]
@[simp] theorem Ctx.enter_reach (x : Ctx) (o : PendOp) (b : Bool) (now : Nat) : (x.enter o b now).reach = x.reach := by cases h : o.tok <;> simp [Ctx.enter, Ctx.charge, h]
@[simp] theorem Ctx.enter_lastRec (x : Ctx) (o : PendOp) (b : Bool) (now : Nat) : (x.enter o b now).lastRec = x.lastRec := by cases h : o.tok <;> simp [Ctx.enter, Ctx.charge, h]
@[simp] theorem Ctx.enter_frozen (x : Ctx) (o : PendOp) (b : Bool) (now : Nat) : (x.enter o b now).frozen = x.frozen := by cases h : o.tok <;> simp [Ctx.enter, Ctx.charge, h]
@[simp] theorem Ctx.enter_lbuf (x : Ctx) (o : PendOp) (b : Bool) (now : Nat) : (x.enter o b now).lbuf = x.lbuf := by cases h : o.tok <;> simp [Ctx.enter, Ctx.charge, h]
@[simp] theorem Ctx.enter_fresh (x : Ctx) (o : PendOp) (b : Bool) (now : Nat) : (x.enter o b now).fresh = x.fresh := by cases h : o.tok <;> simp [Ctx.enter, Ctx.charge, h]
@[simp] theorem Ctx.enter_starting (x : Ctx) (o : PendOp) (b : Bool) (now : Nat) : (x.enter o b now).starting = x.starting := by cases h : o.tok <;> simp [Ctx.enter, Ctx.charge, h]
@[simp] theorem Ctx.charge_areg (x : Ctx) (t : Option (BitVec 3)) : (x.charge t).areg = x.areg := by cases t <;> rfl
@[simp] theorem Ctx.charge_pt (x : Ctx) (t : Option (BitVec 3)) : (x.charge t).pt = x.pt := by cases t <;> rfl
@[simp] theorem Ctx.charge_run (x : Ctx) (t : Option (BitVec 3)) : (x.charge t).run = x.run := by cases t <;> rfl
@[simp] theorem Ctx.charge_mpc (x : Ctx) (t : Option (BitVec 3)) : (x.charge t).mpc = x.mpc := by cases t <;> rfl
@[simp] theorem Ctx.charge_slack (x : Ctx) (t : Option (BitVec 3)) : (x.charge t).slack = x.slack := by cases t <;> rfl
@[simp] theorem Ctx.charge_next (x : Ctx) (t : Option (BitVec 3)) : (x.charge t).next = x.next := by cases t <;> rfl
@[simp] theorem Ctx.charge_serial (x : Ctx) (t : Option (BitVec 3)) : (x.charge t).serial = x.serial := by cases t <;> rfl
@[simp] theorem Ctx.charge_land (x : Ctx) (t : Option (BitVec 3)) : (x.charge t).land = x.land := by cases t <;> rfl
@[simp] theorem Ctx.charge_returns (x : Ctx) (t : Option (BitVec 3)) : (x.charge t).returns = x.returns := by cases t <;> rfl
@[simp] theorem Ctx.charge_landed (x : Ctx) (t : Option (BitVec 3)) : (x.charge t).landed = x.landed := by cases t <;> rfl
@[simp] theorem Ctx.charge_ops (x : Ctx) (t : Option (BitVec 3)) : (x.charge t).ops = x.ops := by cases t <;> rfl
@[simp] theorem Ctx.charge_bubble (x : Ctx) (t : Option (BitVec 3)) : (x.charge t).bubble = x.bubble := by cases t <;> rfl
@[simp] theorem Ctx.charge_wait (x : Ctx) (t : Option (BitVec 3)) : (x.charge t).wait = x.wait := by cases t <;> rfl
@[simp] theorem Ctx.charge_stuck (x : Ctx) (t : Option (BitVec 3)) : (x.charge t).stuck = x.stuck := by cases t <;> rfl
@[simp] theorem Ctx.charge_why (x : Ctx) (t : Option (BitVec 3)) : (x.charge t).why = x.why := by cases t <;> rfl
@[simp] theorem Ctx.charge_target (x : Ctx) (t : Option (BitVec 3)) : (x.charge t).target = x.target := by cases t <;> rfl
@[simp] theorem Ctx.charge_falls (x : Ctx) (t : Option (BitVec 3)) : (x.charge t).falls = x.falls := by cases t <;> rfl
@[simp] theorem Ctx.charge_reach (x : Ctx) (t : Option (BitVec 3)) : (x.charge t).reach = x.reach := by cases t <;> rfl
@[simp] theorem Ctx.charge_lastRec (x : Ctx) (t : Option (BitVec 3)) : (x.charge t).lastRec = x.lastRec := by cases t <;> rfl
@[simp] theorem Ctx.charge_frozen (x : Ctx) (t : Option (BitVec 3)) : (x.charge t).frozen = x.frozen := by cases t <;> rfl
@[simp] theorem Ctx.charge_lbuf (x : Ctx) (t : Option (BitVec 3)) : (x.charge t).lbuf = x.lbuf := by cases t <;> rfl
@[simp] theorem Ctx.charge_fresh (x : Ctx) (t : Option (BitVec 3)) : (x.charge t).fresh = x.fresh := by cases t <;> rfl
@[simp] theorem Ctx.charge_starting (x : Ctx) (t : Option (BitVec 3)) : (x.charge t).starting = x.starting := by cases t <;> rfl
@[simp] theorem Ctx.release_areg (x : Ctx) (t : Option (BitVec 3)) : (x.release t).areg = x.areg := by cases t <;> rfl
@[simp] theorem Ctx.release_pt (x : Ctx) (t : Option (BitVec 3)) : (x.release t).pt = x.pt := by cases t <;> rfl
@[simp] theorem Ctx.release_run (x : Ctx) (t : Option (BitVec 3)) : (x.release t).run = x.run := by cases t <;> rfl
@[simp] theorem Ctx.release_mpc (x : Ctx) (t : Option (BitVec 3)) : (x.release t).mpc = x.mpc := by cases t <;> rfl
@[simp] theorem Ctx.release_slack (x : Ctx) (t : Option (BitVec 3)) : (x.release t).slack = x.slack := by cases t <;> rfl
@[simp] theorem Ctx.release_next (x : Ctx) (t : Option (BitVec 3)) : (x.release t).next = x.next := by cases t <;> rfl
@[simp] theorem Ctx.release_serial (x : Ctx) (t : Option (BitVec 3)) : (x.release t).serial = x.serial := by cases t <;> rfl
@[simp] theorem Ctx.release_land (x : Ctx) (t : Option (BitVec 3)) : (x.release t).land = x.land := by cases t <;> rfl
@[simp] theorem Ctx.release_returns (x : Ctx) (t : Option (BitVec 3)) : (x.release t).returns = x.returns := by cases t <;> rfl
@[simp] theorem Ctx.release_landed (x : Ctx) (t : Option (BitVec 3)) : (x.release t).landed = x.landed := by cases t <;> rfl
@[simp] theorem Ctx.release_ops (x : Ctx) (t : Option (BitVec 3)) : (x.release t).ops = x.ops := by cases t <;> rfl
@[simp] theorem Ctx.release_bubble (x : Ctx) (t : Option (BitVec 3)) : (x.release t).bubble = x.bubble := by cases t <;> rfl
@[simp] theorem Ctx.release_wait (x : Ctx) (t : Option (BitVec 3)) : (x.release t).wait = x.wait := by cases t <;> rfl
@[simp] theorem Ctx.release_stuck (x : Ctx) (t : Option (BitVec 3)) : (x.release t).stuck = x.stuck := by cases t <;> rfl
@[simp] theorem Ctx.release_why (x : Ctx) (t : Option (BitVec 3)) : (x.release t).why = x.why := by cases t <;> rfl
@[simp] theorem Ctx.release_target (x : Ctx) (t : Option (BitVec 3)) : (x.release t).target = x.target := by cases t <;> rfl
@[simp] theorem Ctx.release_falls (x : Ctx) (t : Option (BitVec 3)) : (x.release t).falls = x.falls := by cases t <;> rfl
@[simp] theorem Ctx.release_reach (x : Ctx) (t : Option (BitVec 3)) : (x.release t).reach = x.reach := by cases t <;> rfl
@[simp] theorem Ctx.release_lastRec (x : Ctx) (t : Option (BitVec 3)) : (x.release t).lastRec = x.lastRec := by cases t <;> rfl
@[simp] theorem Ctx.release_frozen (x : Ctx) (t : Option (BitVec 3)) : (x.release t).frozen = x.frozen := by cases t <;> rfl
@[simp] theorem Ctx.release_lbuf (x : Ctx) (t : Option (BitVec 3)) : (x.release t).lbuf = x.lbuf := by cases t <;> rfl
@[simp] theorem Ctx.release_fresh (x : Ctx) (t : Option (BitVec 3)) : (x.release t).fresh = x.fresh := by cases t <;> rfl
@[simp] theorem Ctx.release_starting (x : Ctx) (t : Option (BitVec 3)) : (x.release t).starting = x.starting := by cases t <;> rfl
@[simp] theorem Ctx.modOp_areg (x : Ctx) (n : Nat) (f : PendOp → PendOp) : (x.modOp n f).areg = x.areg := rfl
@[simp] theorem Ctx.modOp_pt (x : Ctx) (n : Nat) (f : PendOp → PendOp) : (x.modOp n f).pt = x.pt := rfl
@[simp] theorem Ctx.modOp_run (x : Ctx) (n : Nat) (f : PendOp → PendOp) : (x.modOp n f).run = x.run := rfl
@[simp] theorem Ctx.modOp_mpc (x : Ctx) (n : Nat) (f : PendOp → PendOp) : (x.modOp n f).mpc = x.mpc := rfl
@[simp] theorem Ctx.modOp_slack (x : Ctx) (n : Nat) (f : PendOp → PendOp) : (x.modOp n f).slack = x.slack := rfl
@[simp] theorem Ctx.modOp_tok (x : Ctx) (n : Nat) (f : PendOp → PendOp) : (x.modOp n f).tok = x.tok := rfl
@[simp] theorem Ctx.modOp_next (x : Ctx) (n : Nat) (f : PendOp → PendOp) : (x.modOp n f).next = x.next := rfl
@[simp] theorem Ctx.modOp_serial (x : Ctx) (n : Nat) (f : PendOp → PendOp) : (x.modOp n f).serial = x.serial := rfl
@[simp] theorem Ctx.modOp_land (x : Ctx) (n : Nat) (f : PendOp → PendOp) : (x.modOp n f).land = x.land := rfl
@[simp] theorem Ctx.modOp_returns (x : Ctx) (n : Nat) (f : PendOp → PendOp) : (x.modOp n f).returns = x.returns := rfl
@[simp] theorem Ctx.modOp_landed (x : Ctx) (n : Nat) (f : PendOp → PendOp) : (x.modOp n f).landed = x.landed := rfl
@[simp] theorem Ctx.modOp_bubble (x : Ctx) (n : Nat) (f : PendOp → PendOp) : (x.modOp n f).bubble = x.bubble := rfl
@[simp] theorem Ctx.modOp_wait (x : Ctx) (n : Nat) (f : PendOp → PendOp) : (x.modOp n f).wait = x.wait := rfl
@[simp] theorem Ctx.modOp_stuck (x : Ctx) (n : Nat) (f : PendOp → PendOp) : (x.modOp n f).stuck = x.stuck := rfl
@[simp] theorem Ctx.modOp_why (x : Ctx) (n : Nat) (f : PendOp → PendOp) : (x.modOp n f).why = x.why := rfl
@[simp] theorem Ctx.modOp_target (x : Ctx) (n : Nat) (f : PendOp → PendOp) : (x.modOp n f).target = x.target := rfl
@[simp] theorem Ctx.modOp_falls (x : Ctx) (n : Nat) (f : PendOp → PendOp) : (x.modOp n f).falls = x.falls := rfl
@[simp] theorem Ctx.modOp_reach (x : Ctx) (n : Nat) (f : PendOp → PendOp) : (x.modOp n f).reach = x.reach := rfl
@[simp] theorem Ctx.modOp_lastRec (x : Ctx) (n : Nat) (f : PendOp → PendOp) : (x.modOp n f).lastRec = x.lastRec := rfl
@[simp] theorem Ctx.modOp_frozen (x : Ctx) (n : Nat) (f : PendOp → PendOp) : (x.modOp n f).frozen = x.frozen := rfl
@[simp] theorem Ctx.modOp_lbuf (x : Ctx) (n : Nat) (f : PendOp → PendOp) : (x.modOp n f).lbuf = x.lbuf := rfl
@[simp] theorem Ctx.modOp_fresh (x : Ctx) (n : Nat) (f : PendOp → PendOp) : (x.modOp n f).fresh = x.fresh := rfl
@[simp] theorem Ctx.modOp_starting (x : Ctx) (n : Nat) (f : PendOp → PendOp) : (x.modOp n f).starting = x.starting := rfl
@[simp] theorem Ctx.send_areg (x : Ctx) (n : Nat) (l : List Effect) (fl : W64) (due : Nat) : (x.send n l fl due).areg = x.areg := rfl
@[simp] theorem Ctx.send_pt (x : Ctx) (n : Nat) (l : List Effect) (fl : W64) (due : Nat) : (x.send n l fl due).pt = x.pt := rfl
@[simp] theorem Ctx.send_run (x : Ctx) (n : Nat) (l : List Effect) (fl : W64) (due : Nat) : (x.send n l fl due).run = x.run := rfl
@[simp] theorem Ctx.send_mpc (x : Ctx) (n : Nat) (l : List Effect) (fl : W64) (due : Nat) : (x.send n l fl due).mpc = x.mpc := rfl
@[simp] theorem Ctx.send_slack (x : Ctx) (n : Nat) (l : List Effect) (fl : W64) (due : Nat) : (x.send n l fl due).slack = x.slack := rfl
@[simp] theorem Ctx.send_tok (x : Ctx) (n : Nat) (l : List Effect) (fl : W64) (due : Nat) : (x.send n l fl due).tok = x.tok := rfl
@[simp] theorem Ctx.send_next (x : Ctx) (n : Nat) (l : List Effect) (fl : W64) (due : Nat) : (x.send n l fl due).next = x.next := rfl
@[simp] theorem Ctx.send_serial (x : Ctx) (n : Nat) (l : List Effect) (fl : W64) (due : Nat) : (x.send n l fl due).serial = x.serial := rfl
@[simp] theorem Ctx.send_land (x : Ctx) (n : Nat) (l : List Effect) (fl : W64) (due : Nat) : (x.send n l fl due).land = x.land := rfl
@[simp] theorem Ctx.send_landed (x : Ctx) (n : Nat) (l : List Effect) (fl : W64) (due : Nat) : (x.send n l fl due).landed = x.landed := rfl
@[simp] theorem Ctx.send_bubble (x : Ctx) (n : Nat) (l : List Effect) (fl : W64) (due : Nat) : (x.send n l fl due).bubble = x.bubble := rfl
@[simp] theorem Ctx.send_wait (x : Ctx) (n : Nat) (l : List Effect) (fl : W64) (due : Nat) : (x.send n l fl due).wait = x.wait := rfl
@[simp] theorem Ctx.send_stuck (x : Ctx) (n : Nat) (l : List Effect) (fl : W64) (due : Nat) : (x.send n l fl due).stuck = x.stuck := rfl
@[simp] theorem Ctx.send_why (x : Ctx) (n : Nat) (l : List Effect) (fl : W64) (due : Nat) : (x.send n l fl due).why = x.why := rfl
@[simp] theorem Ctx.send_target (x : Ctx) (n : Nat) (l : List Effect) (fl : W64) (due : Nat) : (x.send n l fl due).target = x.target := rfl
@[simp] theorem Ctx.send_falls (x : Ctx) (n : Nat) (l : List Effect) (fl : W64) (due : Nat) : (x.send n l fl due).falls = x.falls := rfl
@[simp] theorem Ctx.send_reach (x : Ctx) (n : Nat) (l : List Effect) (fl : W64) (due : Nat) : (x.send n l fl due).reach = x.reach := rfl
@[simp] theorem Ctx.send_lastRec (x : Ctx) (n : Nat) (l : List Effect) (fl : W64) (due : Nat) : (x.send n l fl due).lastRec = x.lastRec := rfl
@[simp] theorem Ctx.send_frozen (x : Ctx) (n : Nat) (l : List Effect) (fl : W64) (due : Nat) : (x.send n l fl due).frozen = x.frozen := rfl
@[simp] theorem Ctx.send_lbuf (x : Ctx) (n : Nat) (l : List Effect) (fl : W64) (due : Nat) : (x.send n l fl due).lbuf = x.lbuf := rfl
@[simp] theorem Ctx.send_fresh (x : Ctx) (n : Nat) (l : List Effect) (fl : W64) (due : Nat) : (x.send n l fl due).fresh = x.fresh := rfl
@[simp] theorem Ctx.send_starting (x : Ctx) (n : Nat) (l : List Effect) (fl : W64) (due : Nat) : (x.send n l fl due).starting = x.starting := rfl
@[simp] theorem Ctx.finish_areg (x : Ctx) (n : Nat) : (x.finish n).areg = x.areg := by
  unfold Ctx.finish
  split
  · rfl
  · simp
@[simp] theorem Ctx.finish_pt (x : Ctx) (n : Nat) : (x.finish n).pt = x.pt := by
  unfold Ctx.finish
  split
  · rfl
  · simp
@[simp] theorem Ctx.finish_run (x : Ctx) (n : Nat) : (x.finish n).run = x.run := by
  unfold Ctx.finish
  split
  · rfl
  · simp
@[simp] theorem Ctx.finish_mpc (x : Ctx) (n : Nat) : (x.finish n).mpc = x.mpc := by
  unfold Ctx.finish
  split
  · rfl
  · simp
@[simp] theorem Ctx.finish_slack (x : Ctx) (n : Nat) : (x.finish n).slack = x.slack := by
  unfold Ctx.finish
  split
  · rfl
  · simp
@[simp] theorem Ctx.finish_next (x : Ctx) (n : Nat) : (x.finish n).next = x.next := by
  unfold Ctx.finish
  split
  · rfl
  · simp
@[simp] theorem Ctx.finish_serial (x : Ctx) (n : Nat) : (x.finish n).serial = x.serial := by
  unfold Ctx.finish
  split
  · rfl
  · simp
@[simp] theorem Ctx.finish_land (x : Ctx) (n : Nat) : (x.finish n).land = x.land := by
  unfold Ctx.finish
  split
  · rfl
  · simp
@[simp] theorem Ctx.finish_returns (x : Ctx) (n : Nat) : (x.finish n).returns = x.returns := by
  unfold Ctx.finish
  split
  · rfl
  · simp
@[simp] theorem Ctx.finish_landed (x : Ctx) (n : Nat) : (x.finish n).landed = x.landed := by
  unfold Ctx.finish
  split
  · rfl
  · simp
@[simp] theorem Ctx.finish_bubble (x : Ctx) (n : Nat) : (x.finish n).bubble = x.bubble := by
  unfold Ctx.finish
  split
  · rfl
  · simp
@[simp] theorem Ctx.finish_wait (x : Ctx) (n : Nat) : (x.finish n).wait = x.wait := by
  unfold Ctx.finish
  split
  · rfl
  · simp
@[simp] theorem Ctx.finish_stuck (x : Ctx) (n : Nat) : (x.finish n).stuck = x.stuck := by
  unfold Ctx.finish
  split
  · rfl
  · simp
@[simp] theorem Ctx.finish_why (x : Ctx) (n : Nat) : (x.finish n).why = x.why := by
  unfold Ctx.finish
  split
  · rfl
  · simp
@[simp] theorem Ctx.finish_target (x : Ctx) (n : Nat) : (x.finish n).target = x.target := by
  unfold Ctx.finish
  split
  · rfl
  · simp
@[simp] theorem Ctx.finish_falls (x : Ctx) (n : Nat) : (x.finish n).falls = x.falls := by
  unfold Ctx.finish
  split
  · rfl
  · simp
@[simp] theorem Ctx.finish_reach (x : Ctx) (n : Nat) : (x.finish n).reach = x.reach := by
  unfold Ctx.finish
  split
  · rfl
  · simp
@[simp] theorem Ctx.finish_lastRec (x : Ctx) (n : Nat) : (x.finish n).lastRec = x.lastRec := by
  unfold Ctx.finish
  split
  · rfl
  · simp
@[simp] theorem Ctx.finish_frozen (x : Ctx) (n : Nat) : (x.finish n).frozen = x.frozen := by
  unfold Ctx.finish
  split
  · rfl
  · simp
@[simp] theorem Ctx.finish_lbuf (x : Ctx) (n : Nat) : (x.finish n).lbuf = x.lbuf := by
  unfold Ctx.finish
  split
  · rfl
  · simp
@[simp] theorem Ctx.finish_fresh (x : Ctx) (n : Nat) : (x.finish n).fresh = x.fresh := by
  unfold Ctx.finish
  split
  · rfl
  · simp
@[simp] theorem Ctx.finish_starting (x : Ctx) (n : Nat) : (x.finish n).starting = x.starting := by
  unfold Ctx.finish
  split
  · rfl
  · simp

end Sys2Proof.Machine
end

