-- ==== Sys2Proof/Laws/Issue.lean ====
section
/-!
SUPPORT. What the issue gate and the taking of a trap can do, once for every instruction.
-/

set_option Elab.async false

namespace Sys2Proof.Machine

theorem State.ready_iff (s : State) (n : Needs) : s.ready n = true ↔ s.cur.gate s.eng n = .go := by
  simp [State.ready]

/-- Where the gate lets an instruction go, its effect acts. -/
theorem State.issue_ready {s : State} {n : Needs} (h : s.ready n = true) (f : State → State) : s.issue n f = .next (f s) := by
  simp [State.issue, (s.ready_iff n).mp h]

theorem State.issueTo_ready {s : State} {n : Needs} (h : s.ready n = true) (f : State → Host.Outcome State Fault Refusal) :
    s.issueTo n f = f s := by
  simp [State.issueTo, (s.ready_iff n).mp h]

/-- A trap of the engine whose instruction runs changes nothing but the traps that pend and the engine's last record, or ends
the instance (R358, R360). -/
theorem State.takeTrap_refuses (s : State) (r : TrapRec) (h : r.eng = s.eng) : OnlyRefuses s (s.takeTrap s.focus r) := by
  have hx : ∀ x : Ctx, x.trapped s.eng r = { x with
      wait := (x.trapped s.eng r).wait, stuck := (x.trapped s.eng r).stuck, why := (x.trapped s.eng r).why
      target := (x.trapped s.eng r).target, reach := (x.trapped s.eng r).reach, frozen := (x.trapped s.eng r).frozen
      lastRec := (x.trapped s.eng r).lastRec } := by
    intro x
    unfold Ctx.trapped
    split
    · rfl
    · split <;> rfl
  have hc : ∀ (k : Core) (f g : Ctx → Ctx), f (k.ctx s.eng) = g (k.ctx s.eng) → k.modCtx s.eng f = k.modCtx s.eng g := by
    intro k f g hfg
    simp [Core.modCtx, hfg]
  unfold State.takeTrap
  by_cases hf : (s.core s.focus).fatal r
  · refine ⟨s.cur.pend, s.ctx.trapped s.eng r, Or.inr ⟨r, ?_⟩⟩
    simp only [hf, if_true, h]
    rw [hc _ _ (fun x => { x with
      wait := (s.ctx.trapped s.eng r).wait, stuck := (s.ctx.trapped s.eng r).stuck, why := (s.ctx.trapped s.eng r).why
      target := (s.ctx.trapped s.eng r).target, reach := (s.ctx.trapped s.eng r).reach
      frozen := (s.ctx.trapped s.eng r).frozen, lastRec := (s.ctx.trapped s.eng r).lastRec }) (hx _)]
    cases he : s.eng <;> simp [State.cur, State.ctx, Core.ctx, Core.modCtx, Core.setCtx, he]
  · refine ⟨insertTrap r s.cur.pend, s.ctx.trapped s.eng r, Or.inl ?_⟩
    simp only [hf, h]
    rw [hc _ _ (fun x => { x with
      wait := (s.ctx.trapped s.eng r).wait, stuck := (s.ctx.trapped s.eng r).stuck, why := (s.ctx.trapped s.eng r).why
      target := (s.ctx.trapped s.eng r).target, reach := (s.ctx.trapped s.eng r).reach
      frozen := (s.ctx.trapped s.eng r).frozen, lastRec := (s.ctx.trapped s.eng r).lastRec }) (hx _)]
    cases he : s.eng <;> simp [State.cur, State.ctx, Core.ctx, Core.modCtx, Core.setCtx, he]

theorem State.groupTrap_refuses (s : State) (code : BitVec 8) (a d : W64) : OnlyRefuses s (s.groupTrap code a d) :=
  s.takeTrap_refuses _ rfl

theorem State.noteWait_refuses (s : State) (cs : List WaitCause) : OnlyRefuses s (s.noteWait cs) :=
  ⟨s.cur.pend, { s.ctx with stuck := true, why := s.ctx.why ++ cs }, Or.inl (by
    cases he : s.eng <;>
      simp [State.noteWait, State.modCtx, State.modCur, State.modCore, State.cur, State.ctx, Core.ctx, Core.modCtx, Core.setCtx,
        he])⟩

/-- Where the gate does not let an instruction go, nothing but a wait or a trap is new. -/
theorem State.issue_not_ready {s : State} {n : Needs} (h : s.ready n = false) (f : State → State) :
    ∃ t, s.issue n f = .next t ∧ (t = s ∨ OnlyRefuses s t) := by
  have hg : s.cur.gate s.eng n ≠ .go := by simpa [State.ready] using h
  refine ⟨_, rfl, ?_⟩
  split
  · exact absurd ‹_› hg
  · exact Or.inl rfl
  · exact Or.inr (s.groupTrap_refuses _ _ _)
  · exact Or.inr (s.groupTrap_refuses _ _ _)
  · exact Or.inr (s.noteWait_refuses _)
  · exact Or.inr (s.noteWait_refuses _)

theorem State.issueTo_not_ready {s : State} {n : Needs} (h : s.ready n = false) (f : State → Host.Outcome State Fault Refusal) :
    ∃ t, s.issueTo n f = .next t ∧ (t = s ∨ OnlyRefuses s t) := by
  have hg : s.cur.gate s.eng n ≠ .go := by simpa [State.ready] using h
  have : s.issueTo n f = s.issue n id := by
    unfold State.issueTo
    split
    · exact absurd ‹_› hg
    · rfl
  rw [this]
  exact s.issue_not_ready h id

end Sys2Proof.Machine

namespace Sys2Proof

open Machine

/-- An instruction whose meaning is an issue under the gate. -/
theorem Issues.of {i : Instr} {needs : State → Needs} {effect : State → State}
    (h : ∀ s, exec i s = s.issue (needs s) effect) : Issues i needs effect := fun s =>
  ⟨fun r => (h s).trans (State.issue_ready r effect), fun r => by rw [h s]; exact State.issue_not_ready r effect⟩

end Sys2Proof
end

