-- ==== Sys2Proof/Laws/Memory.lean ====
section
/-!
SUPPORT. Memory keeps its canonical form: every operation that writes HBM or the host's memory keeps it, memory at reset has it,
and no other field of the state bears on it.
-/

set_option Elab.async false

namespace Sys2Proof.Machine

/-! ## The operations that write memory -/

/-- A state with the memories of a canonical one is canonical. -/
theorem memoryCanonical_of_eq {s t : State} (h : MemoryCanonical s) (hh : t.hbm = s.hbm) (hm : t.hostMem = s.hostMem) :
    MemoryCanonical t := by
  unfold MemoryCanonical
  rw [hh, hm]
  exact h

/-- Memory at reset lists nothing, and a memory that lists nothing is in the form. -/
@[simp] theorem reset_hbm : State.reset.hbm = [] := rfl
@[simp] theorem reset_hostMem : State.reset.hostMem = [] := rfl
@[simp] theorem Memory.wf_nil : Memory.wf [] = true := rfl

@[simp] theorem hbm_setHbmSector (s : State) (sec : Nat) (v : Sector) (p : Bool) :
    (s.setHbmSector sec v p).hbm =
      (List.range 32).foldl (fun m j => Tbl.set m 0 (32 * sec + j) (slice v (8 * j) 8)) s.hbm := by
  simp only [State.setHbmSector]

@[simp] theorem hostMem_setHbmSector (s : State) (sec : Nat) (v : Sector) (p : Bool) :
    (s.setHbmSector sec v p).hostMem = s.hostMem := by
  simp only [State.setHbmSector]

/-- Writing a sector to HBM (R373) keeps the form. -/
theorem memoryCanonical_setHbmSector {s : State} (sec : Nat) (v : Sector) (p : Bool) (h : MemoryCanonical s) :
    MemoryCanonical (s.setHbmSector sec v p) := by
  unfold MemoryCanonical
  rw [hbm_setHbmSector, hostMem_setHbmSector]
  refine ⟨?_, h.2⟩
  generalize List.range 32 = l
  exact Tbl.wf_foldl_set 0 l _ _ _ h.1

/-- Scrubbing a range of sectors (R368) keeps the form. -/
theorem memoryCanonical_scrubRange {s : State} (first count : Nat) (key : BitVec 7) (h : MemoryCanonical s) :
    MemoryCanonical (s.scrubRange first count key) :=
  ⟨Tbl.wf_filter 0 _ _ h.1, h.2⟩

/-- Writing the host's memory keeps the form. -/
theorem memoryCanonical_hostWrite {s : State} (a n v : Nat) (h : MemoryCanonical s) : MemoryCanonical (s.hostWrite a n v) :=
  ⟨h.1, Tbl.wf_foldl_set 0 _ _ _ _ h.2⟩

/-- Power leaves the host's memory as it was and HBM empty (R437). -/
theorem memoryCanonical_powerEffect {s : State} (x : Option BootCopy) (h : MemoryCanonical s) :
    MemoryCanonical (powerEffect x s) := ⟨rfl, h.2⟩

/-! ## What one byte reads as after a write -/

/-- A byte that a write to another sector leaves alone. -/
theorem foldl_set_other {β : Type} (l : List β) (key : β → Nat) (val : β → Byte) (m : Tbl Byte) (a : Nat)
    (h : ∀ b ∈ l, key b ≠ a) : (l.foldl (fun m b => Tbl.set m 0 (key b) (val b)) m).get 0 a = m.get 0 a := by
  induction l generalizing m with
  | nil => rfl
  | cons b l ih =>
    rw [List.foldl_cons, ih _ (fun x hx => h x (List.mem_cons_of_mem _ hx))]
    exact Tbl.get_set_other _ _ _ (Ne.symm (h b List.mem_cons_self))

/-- Writing a sector leaves every byte outside it as it was. -/
theorem setHbmSector_other (s : State) (sec : Nat) (v : Sector) (p : Bool) (a : Nat) (h : a / 32 ≠ sec) :
    Tbl.get (s.setHbmSector sec v p).hbm 0 a = Tbl.get s.hbm 0 a := by
  have out : ∀ j ∈ List.range 32, 32 * sec + j ≠ a := fun j hj => by
    have := List.mem_range.mp hj
    omega
  simp only [State.setHbmSector]
  generalize List.range 32 = l at out
  exact foldl_set_other l _ _ _ a out

/-- Writing the host's memory leaves every byte outside the written range as it was. -/
theorem hostWrite_other (s : State) (a n v x : Nat) (h : ∀ j < n, (a + j) % 2 ^ 64 ≠ x) :
    Tbl.get (s.hostWrite a n v).hostMem 0 x = Tbl.get s.hostMem 0 x :=
  foldl_set_other (List.range n) (fun j => (a + j) % 2 ^ 64) (fun j => BitVec.ofNat 8 (v / 2 ^ (8 * j))) s.hostMem x (fun j hj => h j (List.mem_range.mp hj))

/-! ## Updates of other fields -/

@[simp] theorem memoryCanonical_setCore (s : State) (c : Nat) (k : Core) :
    MemoryCanonical (s.setCore c k) ↔ MemoryCanonical s := Iff.rfl

@[simp] theorem memoryCanonical_modCore (s : State) (c : Nat) (f : Core → Core) :
    MemoryCanonical (s.modCore c f) ↔ MemoryCanonical s := Iff.rfl

@[simp] theorem memoryCanonical_modCur (s : State) (f : Core → Core) : MemoryCanonical (s.modCur f) ↔ MemoryCanonical s :=
  Iff.rfl

@[simp] theorem memoryCanonical_modCtx (s : State) (f : Ctx → Ctx) : MemoryCanonical (s.modCtx f) ↔ MemoryCanonical s :=
  Iff.rfl

@[simp] theorem memoryCanonical_setRow (s : State) (c q : Nat) (r : StashRow) :
    MemoryCanonical (s.setRow c q r) ↔ MemoryCanonical s := Iff.rfl

@[simp] theorem memoryCanonical_tell (s : State) (m : MgmtEvent) : MemoryCanonical (s.tell m) ↔ MemoryCanonical s := Iff.rfl

/-! ## Writes through the caches and the stashes -/

theorem memoryCanonical_foldl {β : Type} (l : List β) (f : State → β → State)
    (hf : ∀ s b, MemoryCanonical s → MemoryCanonical (f s b)) {s : State} (h : MemoryCanonical s) :
    MemoryCanonical (l.foldl f s) := by
  induction l generalizing s with
  | nil => exact h
  | cons b l ih => exact ih (hf s b h)

@[simp] theorem memoryCanonical_useBanks (s : State) (c q : Nat) (m : BitVec 8) (r : Nat) :
    MemoryCanonical (s.useBanks c q m r) ↔ MemoryCanonical s := Iff.rfl

theorem memoryCanonical_dirty (s : State) (d : Tbl (Option DirtySector)) :
    MemoryCanonical { s with dirty := d } ↔ MemoryCanonical s := Iff.rfl

@[simp] theorem memoryCanonical_leaveL1s (s : State) (line : Nat) (m : BitVec 8) (keep : Nat) :
    MemoryCanonical (s.leaveL1s line m keep) ↔ MemoryCanonical s := Iff.rfl

@[simp] theorem memoryCanonical_l2Place (s : State) (x : L2Line) (last : Bool) :
    MemoryCanonical (s.l2Place x last) ↔ MemoryCanonical s := Iff.rfl

theorem memoryCanonical_l2Mark {s : State} (sec : Nat) (bad : Bool) (h : MemoryCanonical s) : MemoryCanonical (s.l2Mark sec bad) := by
  unfold State.l2Mark
  simp only
  split
  all_goals exact h

/-- A dirty sector that goes to HBM (R167, R186) keeps the form. -/
theorem memoryCanonical_flushDirty {s : State} (sec : Nat) (h : MemoryCanonical s) : MemoryCanonical (s.flushDirty sec) := by
  unfold State.flushDirty
  split
  · exact h
  · rename_i d _
    exact memoryCanonical_of_eq (memoryCanonical_l2Mark sec d.poison (memoryCanonical_setHbmSector sec d.data d.poison h)) rfl rfl

/-- A line that leaves its L2 keeps the form. -/
theorem memoryCanonical_leaveL2 {s : State} (line : Nat) (h : MemoryCanonical s) : MemoryCanonical (s.leaveL2 line) := by
  unfold State.leaveL2
  refine memoryCanonical_of_eq (s := List.foldl _ s (List.range 8)) ?_ rfl rfl
  refine memoryCanonical_foldl _ _ (fun u n hu => ?_) h
  split
  · exact memoryCanonical_flushDirty _ hu
  · exact hu

theorem memoryCanonical_l2Class {s : State} (sl pa : Nat) (h : MemoryCanonical s) : MemoryCanonical (s.l2Class sl pa).2 := by
  unfold State.l2Class
  simp only
  split
  all_goals exact h

/-- A request at the home L2 (R169) keeps the form. -/
theorem memoryCanonical_l2request {s : State} (sl pa : Nat) (last : Bool) (h : MemoryCanonical s) :
    MemoryCanonical (s.l2request sl pa last) := by
  have hc := memoryCanonical_l2Class sl pa h
  unfold State.l2request
  generalize s.l2Class sl pa = p at hc
  obtain ⟨ways, u⟩ := p
  simp only at hc ⊢
  split
  · exact (memoryCanonical_l2Place _ _ _).mpr hc
  · split
    · exact (memoryCanonical_l2Place _ _ _).mpr hc
    · split
      · exact hc
      · exact (memoryCanonical_l2Place _ _ _).mpr (memoryCanonical_leaveL2 _ hc)

/-- A dirty sector that goes to its home L2 keeps the form. -/
theorem memoryCanonical_homeDirty {s : State} (sec : Nat) (h : MemoryCanonical s) : MemoryCanonical (s.homeDirty sec) := by
  unfold State.homeDirty
  split
  · exact memoryCanonical_flushDirty _ h
  · exact h

theorem memoryCanonical_cleanL1 {s : State} (c sl sec : Nat) (h : MemoryCanonical s) : MemoryCanonical (s.cleanL1 c sl sec) := by
  unfold State.cleanL1
  split
  · exact h
  · split
    · exact memoryCanonical_homeDirty _ (memoryCanonical_l2request _ _ _ h)
    · exact h

/-- A sector that comes into an L1 (R167) keeps the form. -/
theorem memoryCanonical_toL1 {s : State} (c sl sec : Nat) (bad : Bool) (h : MemoryCanonical s) :
    MemoryCanonical (s.toL1 c sl sec bad) := by
  unfold State.toL1
  simp only
  split
  · exact h
  · exact memoryCanonical_foldl _ _ (fun u n hu => memoryCanonical_cleanL1 _ _ _ hu) h

/-- A line that no L1 keeps (R163) keeps the form. -/
theorem memoryCanonical_unshare {s : State} (line : Nat) (m : BitVec 8) (h : MemoryCanonical s) :
    MemoryCanonical (s.unshare line m) := by
  unfold State.unshare
  simp only [memoryCanonical_leaveL1s]
  refine memoryCanonical_foldl _ _ (fun u n hu => ?_) h
  split
  · exact memoryCanonical_homeDirty _ hu
  · exact hu

/-- An access that goes through the caches (R167, R169) keeps the form. -/
theorem memoryCanonical_bring {s : State} (via : Via) (sl pa : Nat) (h : MemoryCanonical s) : MemoryCanonical (s.bring via sl pa) := by
  have hr := memoryCanonical_l2request sl pa false h
  unfold State.bring
  cases via with
  | l2 => exact hr
  | pass c =>
    simp only
    split
    · exact h
    · exact memoryCanonical_l2request _ _ _ h
  | l1 c =>
    simp only
    split
    · exact memoryCanonical_toL1 _ _ _ _ h
    · exact memoryCanonical_toL1 _ _ _ _ hr

/-- Writing a sector where it lives (R163, R167) keeps the form. -/
theorem memoryCanonical_writeSector {s : State} (sec : Nat) (v : Sector) (m : BitVec 32) (l1 : Nat) (h : MemoryCanonical s) :
    MemoryCanonical (s.writeSector sec v m l1) := by
  have hl := (memoryCanonical_leaveL1s s (sec / 8) (bit true (sec % 8)) l1).mpr h
  unfold State.writeSector
  split
  · exact h
  · split
    · exact (memoryCanonical_setRow _ _ _ _).mpr h
    · simp only
      generalize s.leaveL1s (sec / 8) (bit true (sec % 8)) l1 = u at hl
      split
      · exact (memoryCanonical_dirty _ _).mpr (memoryCanonical_setHbmSector _ _ _ hl)
      · exact (memoryCanonical_dirty _ _).mpr hl

theorem memoryCanonical_physWrite {s : State} (pa n v l1 : Nat) (h : MemoryCanonical s) :
    MemoryCanonical (s.physWrite pa n v l1) := memoryCanonical_writeSector _ _ _ _ h

/-- A store into one sector, with its report where it is poisoned (R376), keeps the form. -/
theorem memoryCanonical_store {s : State} (sl pa n v l1 : Nat) (h : MemoryCanonical s) :
    MemoryCanonical (s.store sl pa n v l1) := by
  unfold State.store
  split
  · exact memoryCanonical_physWrite _ _ _ _ h
  · exact memoryCanonical_physWrite _ _ _ _ h

theorem memoryCanonical_markDirty {s : State} (sl pa : Nat) (h : MemoryCanonical s) : MemoryCanonical (s.markDirty sl pa) := by
  have hr := memoryCanonical_l2request sl pa false h
  exact memoryCanonical_of_eq (memoryCanonical_physWrite pa 1 ((s.l2request sl pa).physRead pa 1 ||| 4) 0 hr) rfl rfl

/-- What a walk notes and reads (R169, R370) keeps the form. -/
theorem memoryCanonical_noteSeen {s : State} (die sl : Nat) (seen : List Seen) (h : MemoryCanonical s) :
    MemoryCanonical ((s.readTables sl seen).noteSeen die seen) :=
  memoryCanonical_of_eq (s := s.readTables sl seen) (memoryCanonical_foldl _ _ (fun _ _ hu => memoryCanonical_l2request _ _ _ hu) h) rfl rfl

/-- A translation, which may mark a leaf and fill a TLB (R366, R367), keeps the form. -/
theorem memoryCanonical_translate {s t : State} {c va : Nat} {sp : Space} {acc : Access} {mark : Bool} {x : Xlat}
    (h : MemoryCanonical s) (e : s.translate c sp va acc mark = .ok (x, t)) : MemoryCanonical t := by
  unfold State.translate at e
  simp only at e
  repeat' split at e
  all_goals simp only [Except.ok.injEq, Prod.mk.injEq, reduceCtorEq] at e
  · exact e.2 ▸ h
  · rw [← e.2, memoryCanonical_modCore]
    exact memoryCanonical_markDirty _ _ (memoryCanonical_noteSeen _ _ _ h)
  · rw [← e.2, memoryCanonical_modCore]
    exact memoryCanonical_noteSeen _ _ _ h

theorem memoryCanonical_locate {s t : State} {c va : Nat} {sp : Space} {acc : Access} {mark : Bool} {via : Via} {l : Loc}
    (h : MemoryCanonical s) (e : s.locate c sp va acc mark via = .ok (l, t)) : MemoryCanonical t := by
  unfold State.locate at e
  split at e
  · cases e
  · rename_i x u hx
    have hu := memoryCanonical_translate h hx
    simp only at e
    split at e
    · cases e
    · repeat' split at e
      all_goals cases e
      all_goals first
        | exact (memoryCanonical_useBanks _ _ _ _ _).mpr hu
        | exact memoryCanonical_bring _ _ _ hu

/-! ## Stash rows -/

/-- A whole sector that a row writes back (R162) keeps the form. -/
theorem memoryCanonical_putSector {s : State} (sl sec : Nat) (v : Sector) (p : Bool) (h : MemoryCanonical s) :
    MemoryCanonical (s.putSector sl sec v p) := by
  have hr := memoryCanonical_l2request sl (32 * sec) false ((memoryCanonical_leaveL1s s (sec / 8) (bit true (sec % 8)) 0).mpr h)
  unfold State.putSector
  simp only
  generalize (s.leaveL1s (sec / 8) (bit true (sec % 8)) 0).l2request sl (32 * sec) = u at hr
  split
  · exact (memoryCanonical_dirty _ _).mpr (memoryCanonical_setHbmSector sec v p hr)
  · exact (memoryCanonical_dirty _ _).mpr hr

theorem memoryCanonical_putBack {s : State} (c q sl line : Nat) (h : MemoryCanonical s) :
    MemoryCanonical (s.putBack c q sl line) := by
  unfold State.putBack
  simp only [memoryCanonical_setRow, memoryCanonical_useBanks]
  refine memoryCanonical_foldl _ _ (fun u n hu => ?_) h
  split
  · exact memoryCanonical_putSector _ _ _ _ hu
  · exact hu

/-- WRITE-BACK (R162) keeps the form. -/
theorem memoryCanonical_writeBack {s t : State} {c q : Nat} (h : MemoryCanonical s) (e : s.writeBack c q = .ok t) :
    MemoryCanonical t := by
  unfold State.writeBack at e
  simp only at e
  split at e
  · cases e
    exact h
  · split at e
    · cases e
    · rename_i x u hx
      have hu := memoryCanonical_translate h hx
      repeat' split at e
      all_goals cases e
      exact memoryCanonical_putBack _ _ _ _ hu

/-- CLAIM (R164) keeps the form. -/
theorem memoryCanonical_claim {s t : State} {c q : Nat} (h : MemoryCanonical s) (e : s.claim c q = .ok t) :
    MemoryCanonical t := by
  unfold State.claim at e
  simp only at e
  split at e
  · cases e
    exact h
  · split at e
    · cases e
      exact h
    · split at e
      · cases e
      · rename_i u hx
        have hu := memoryCanonical_writeBack h hx
        cases e
        rw [memoryCanonical_setRow]
        split
        all_goals exact hu

/-- FILL (R161) keeps the form. -/
theorem memoryCanonical_fillRow {s t : State} {c q : Nat} (h : MemoryCanonical s) (e : s.fillRow c q = .ok t) :
    MemoryCanonical t := by
  unfold State.fillRow at e
  simp only at e
  split at e
  · cases e
    exact h
  · split at e
    · cases e
    · rename_i x u hx
      have hu := memoryCanonical_translate h hx
      split at e
      · cases e
      · split at e
        · cases e
        · split at e
          · cases e
          · rename_i v hv
            have hw : MemoryCanonical v := by
              split at hv
              · cases hv
                exact hu
              · split at hv
                · cases hv
                · rename_i w hw
                  have h2 := memoryCanonical_writeBack hu hw
                  cases hv
                  exact h2
            have hz := memoryCanonical_unshare (x.pa / 256) 0xFF hw
            generalize v.unshare (x.pa / 256) 0xFF = z at hz e
            repeat' split at e
            all_goals cases e
            all_goals simp only [memoryCanonical_setRow]
            · exact hz
            · exact memoryCanonical_l2request _ _ _ ((memoryCanonical_useBanks _ _ _ _ _).mpr hz)

theorem memoryCanonical_touch {s t : State} {c q : Nat} (h : MemoryCanonical s) (e : s.touch c q = .ok t) :
    MemoryCanonical t := by
  unfold State.touch at e
  split at e
  · cases e
  · exact memoryCanonical_fillRow (memoryCanonical_claim h ‹_›) e

theorem memoryCanonical_touchPlain {s t : State} {c q : Nat} {acc : Access} (h : MemoryCanonical s)
    (e : s.touchPlain c q acc = .ok t) : MemoryCanonical t := by
  unfold State.touchPlain at e
  split at e
  · cases e
  · rename_i u hu
    simp only at e
    repeat' split at e
    all_goals cases e
    exact memoryCanonical_touch h hu

theorem memoryCanonical_putRow {s : State} (c q : Nat) (v : Row) (m : BMask) (h : MemoryCanonical s) :
    MemoryCanonical (s.putRow c q v m) := by
  unfold State.putRow
  simp only [memoryCanonical_setRow]
  split
  all_goals exact h

/-! ## Loads, stores and atomics -/

theorem memoryCanonical_stashRead {s t : State} {c n v : Nat} {a : W64} (h : MemoryCanonical s)
    (e : s.stashRead c a n = .ok (v, t)) : MemoryCanonical t := by
  unfold State.stashRead at e
  simp only at e
  split at e
  · cases e
  · rename_i u hu
    split at e
    · cases e
    · cases e
      exact memoryCanonical_touchPlain h hu

theorem memoryCanonical_stashWrite {s t : State} {c n v : Nat} {a : W64} (h : MemoryCanonical s)
    (e : s.stashWrite c a n v = .ok t) : MemoryCanonical t := by
  unfold State.stashWrite at e
  simp only at e
  split at e
  · cases e
  · rename_i u hu
    cases e
    exact memoryCanonical_putRow _ _ _ _ (memoryCanonical_touchPlain h hu)

theorem memoryCanonical_globalRead {s t : State} {c n v : Nat} {sp : Space} {a : W64} {via : Via} (h : MemoryCanonical s)
    (e : s.globalRead c sp a n via = .ok (v, t)) : MemoryCanonical t := by
  unfold State.globalRead at e
  split at e
  · cases e
  · split at e
    · cases e
    · rename_i l u hu
      simp only at e
      repeat' split at e
      all_goals cases e
      exact memoryCanonical_locate h hu

theorem memoryCanonical_locateWrite {s t : State} {c n : Nat} {sp : Space} {a : W64} {acc : Access} {via : Via} {l : Loc}
    (h : MemoryCanonical s) (e : s.locateWrite c sp a n acc via = .ok (l, t)) : MemoryCanonical t := by
  unfold State.locateWrite at e
  split at e
  · cases e
  · split at e
    · cases e
    · rename_i l u hu
      repeat' split at e
      all_goals cases e
      all_goals exact memoryCanonical_locate h hu

theorem memoryCanonical_globalWrite {s t : State} {c n v : Nat} {sp : Space} {a : W64} (h : MemoryCanonical s)
    (e : s.globalWrite c sp a n v = .ok t) : MemoryCanonical t := by
  unfold State.globalWrite at e
  split at e
  · cases e
  · cases e
    exact memoryCanonical_store _ _ _ _ _ (memoryCanonical_locateWrite h ‹_›)

/-- A load of either class (R157) keeps the form. -/
theorem memoryCanonical_read {s t : State} {c n v : Nat} {a : W64} {via : Via} (h : MemoryCanonical s)
    (e : s.read c a n via = .ok (v, t)) : MemoryCanonical t := by
  unfold State.read at e
  split at e
  · exact memoryCanonical_stashRead h e
  · exact memoryCanonical_globalRead h e

/-- A store of either class keeps the form. -/
theorem memoryCanonical_write {s t : State} {c n v : Nat} {a : W64} (h : MemoryCanonical s)
    (e : s.write c a n v = .ok t) : MemoryCanonical t := by
  unfold State.write at e
  split at e
  · exact memoryCanonical_stashWrite h e
  · exact memoryCanonical_globalWrite h e

/-- A read-modify-write of either class (R180) keeps the form. -/
theorem memoryCanonical_readWrite {s t : State} {c n v : Nat} {a : W64} {f : Nat → Option Nat} (h : MemoryCanonical s)
    (e : s.readWrite c a n f = .ok (v, t)) : MemoryCanonical t := by
  unfold State.readWrite at e
  split at e
  · split at e
    · cases e
    · rename_i u hu
      have h1 := memoryCanonical_touchPlain h hu
      split at e
      · cases e
      · rename_i old w hw
        have h2 := memoryCanonical_stashRead h1 hw
        split at e
        · cases e
          exact h2
        · split at e
          · cases e
          · rename_i z hz
            cases e
            exact memoryCanonical_stashWrite h2 hz
  · split at e
    · cases e
    · rename_i l u hu
      have h1 := memoryCanonical_locateWrite h hu
      have h2 := memoryCanonical_unshare (l.pa / 256) (bit true (l.pa / 32 % 8)) h1
      simp only at e
      repeat' split at e
      all_goals cases e
      · exact h1
      · exact h2
      · exact memoryCanonical_physWrite _ _ _ _ h1
      · exact memoryCanonical_physWrite _ _ _ _ h2

/-! ## Flushes -/

/-- Flushing a cached sector (R186) keeps the form. -/
theorem memoryCanonical_flushSector {s : State} (c sec : Nat) (h : MemoryCanonical s) :
    MemoryCanonical (s.flushSector c sec) := by
  unfold State.flushSector
  split
  · exact memoryCanonical_flushDirty _ h
  · exact h

/-- Flushing a sector of a holding row (R162, R186) keeps the form. -/
theorem memoryCanonical_flushHeld {s t : State} {c c' q n : Nat} (h : MemoryCanonical s)
    (e : s.flushHeld c c' q n = .ok t) : MemoryCanonical t := by
  unfold State.flushHeld at e
  simp only at e
  split at e
  · cases e
    exact memoryCanonical_flushSector _ _ h
  · split at e
    · cases e
    · rename_i x u hu
      split at e
      · cases e
      · cases e
        simp only [memoryCanonical_useBanks, memoryCanonical_setRow]
        exact memoryCanonical_flushDirty _ (memoryCanonical_putSector _ _ _ _ (memoryCanonical_translate h hu))

end Sys2Proof.Machine
end

