-- ==== Sys2Proof/Laws/Result.lean ====
section
/-!
SUPPORT. What reading operands, sending a result and entering an operation can do: queues apart, nothing but the landing buffer
or the operations of the engine whose instruction runs is new.
-/

set_option Elab.async false

namespace Sys2Proof.Machine

/-- Two cores that differ in their queues alone (R96). -/
def Core.Queues (k k' : Core) : Prop := ∃ (q : Tbl Queue) (n : Nat), k' = { k with queues := q, qserial := n }

theorem Core.Queues.refl (k : Core) : k.Queues k := ⟨k.queues, k.qserial, rfl⟩

theorem Core.Queues.trans {a b c : Core} (h : a.Queues b) (h' : b.Queues c) : a.Queues c := by
  obtain ⟨q, n, rfl⟩ := h
  obtain ⟨q', n', rfl⟩ := h'
  exact ⟨q', n', rfl⟩

/-- Reading a source changes nothing but the queue it pops (R96). -/
theorem Core.readQ_queues (k : Core) (pop : Bool) (q : BitVec 3) : k.Queues (k.readQ pop q).2 := by
  cases pop
  · exact Core.Queues.refl k
  · exact ⟨_, k.qserial, rfl⟩

theorem Core.readG_queues (k : Core) (f : GField) : k.Queues (k.readG f).2 := by
  cases f with
  | r n => exact Core.Queues.refl k
  | pop q => exact k.readQ_queues true q
  | peek q => exact k.readQ_queues false q

theorem Core.readV_queues (k : Core) (f : VField) : k.Queues (k.readV f).2 := by
  cases f with
  | r n => exact Core.Queues.refl k
  | pop q => exact k.readQ_queues true q
  | peek q => exact k.readQ_queues false q

theorem Core.reserve_queues (k : Core) (q : BitVec 3) : k.Queues (k.reserve q) := ⟨_, _, rfl⟩

@[simp] theorem Core.Queues.g {k k' : Core} (h : k.Queues k') : k'.g = k.g := by
  obtain ⟨q, n, rfl⟩ := h; rfl

/-- A state whose running core has other queues and nothing else new. -/
def State.QueuesOnly (s t : State) : Prop := ∃ k : Core, s.cur.Queues k ∧ t = s.setCore s.focus k

theorem State.QueuesOnly.refl (s : State) (h : s.setCore s.focus s.cur = s) : s.QueuesOnly s :=
  ⟨s.cur, Core.Queues.refl _, h.symm⟩

@[simp] theorem State.setCore_setCore (s : State) (c : Nat) (k k' : Core) : (s.setCore c k).setCore c k' = s.setCore c k' := by
  simp [State.setCore]

/-- What lands and what enters, on top of changed queues. -/
theorem OnlyLands.of_queues {s t : State} {k : Core} {l : Landing} (hk : s.cur.Queues k)
    (ht : t = (s.setCore s.focus k).modCtx (fun x => { x with land := x.land ++ [l] })) : OnlyLands s t [l] := by
  obtain ⟨q, n, rfl⟩ := hk
  refine ⟨q, n, ?_⟩
  subst ht
  simp [State.modCtx, State.modCur, State.modCore, State.cur]

/-- What a change of an engine gives depends on that engine alone. -/
theorem State.modCtx_congr (s : State) {f g : Ctx → Ctx} (h : f s.ctx = g s.ctx) : s.modCtx f = s.modCtx g := by
  have : f (s.cur.ctx s.eng) = g (s.cur.ctx s.eng) := h
  simp only [State.modCtx, State.modCur, State.modCore, Core.modCtx]
  simp only [State.cur] at this
  rw [this]

/-- Entering a result of fixed latency: the entry's place in issue order is the engine's (R84, R85). -/
theorem State.land_eq (s : State) (lat : Nat) (eff : Effect) (f : W64) :
    s.land lat eff f = s.modCtx (fun x => { x with land := x.land ++ [{ eff := eff, flags := f, rem := lat, stamp := s.ctx.serial }] }) :=
  s.modCtx_congr rfl

/-- A result sent to a g-field, after reading operands, only lands (R84, R96). -/
theorem State.toG_lands (s : State) (k : Core) (hk : s.cur.Queues k) (d : GField) (lat : Nat) (v : W64) :
    ∃ l, OnlyLands s ((s.setCore s.focus k).toG d lat v) l := by
  cases d with
  | r n => exact ⟨_, OnlyLands.of_queues hk rfl⟩
  | pop q =>
    let l : Landing :=
      { eff := .push q k.qserial (v.setWidth 2048), flags := 0, rem := lat, stamp := ((k.reserve q).ctx s.eng).serial }
    refine ⟨[l], OnlyLands.of_queues (hk.trans (k.reserve_queues q)) ?_⟩
    simp [l, State.toG, State.modCur, State.modCore, State.land_eq, State.cur, State.ctx]
  | peek q =>
    obtain ⟨q, n, rfl⟩ := hk
    refine ⟨[], q, n, ?_⟩
    cases he : s.eng <;> simp [State.toG, Core.modCtx, Core.setCtx, Core.ctx]

/-- The same for a vector result. -/
theorem State.toV_lands (s : State) (k : Core) (hk : s.cur.Queues k) (d : VField) (lat : Nat) (v : Row) (m : BMask) (f : W64) :
    ∃ l, OnlyLands s ((s.setCore s.focus k).toV d lat v m f) l := by
  cases d with
  | r n => exact ⟨_, OnlyLands.of_queues hk rfl⟩
  | pop q =>
    let l : Landing :=
      { eff := .push q k.qserial ((k.queue q).entry (mergeBytes 0 v m)), flags := f, rem := lat
        stamp := ((k.reserve q).ctx s.eng).serial }
    refine ⟨[l], OnlyLands.of_queues (hk.trans (k.reserve_queues q)) ?_⟩
    simp [l, State.toV, State.modCur, State.modCore, State.land_eq, State.cur, State.ctx]
  | peek q =>
    obtain ⟨q, n, rfl⟩ := hk
    refine ⟨[], q, n, ?_⟩
    cases he : s.eng <;> simp [State.toV, Core.modCtx, Core.setCtx, Core.ctx]

/-- The result of two sources only lands. -/
theorem State.result2_lands (s : State) (d a b : GField) (lat : Nat) (f : W64 → W64 → W64) :
    ∃ l, OnlyLands s (s.result2 d a b lat f) l :=
  s.toG_lands _ ((s.cur.readG_queues a).trans (Core.readG_queues _ b)) d lat _

/-- The result of one source only lands. -/
theorem State.result1_lands (s : State) (d a : GField) (lat : Nat) (f : W64 → W64) :
    ∃ l, OnlyLands s (s.result1 d a lat f) l :=
  s.toG_lands _ (s.cur.readG_queues a) d lat _

/-- A vector result of two sources only lands. -/
theorem vec2Effect_lands (d a c : VField) (g : BitVec 3) (b lat : Nat) (f : Row → Row → Nat → BitVec (8 * b) × W64) (s : State) :
    ∃ l, OnlyLands s (vec2Effect d a c g b lat f s) l :=
  s.toV_lands _ ((s.cur.readV_queues a).trans (Core.readV_queues _ c)) d lat _ _ _

/-- A vector result of one source only lands. -/
theorem vec1Effect_lands (d a : VField) (g : BitVec 3) (b lat : Nat) (f : Row → Nat → BitVec (8 * b) × W64) (s : State) :
    ∃ l, OnlyLands s (vec1Effect d a g b lat f s) l :=
  s.toV_lands _ (s.cur.readV_queues a) d lat _ _ _

/-- Entering an operation on top of changed queues (R87, R202). -/
theorem OnlyEnters.of_queues {s t : State} {k : Core} {o : PendOp} {takes : Bool} (hk : s.cur.Queues k)
    (ht : t = (s.setCore s.focus k).enterOp o takes) : OnlyEnters s t o takes := by
  obtain ⟨q, n, rfl⟩ := hk
  refine ⟨q, n, ?_⟩
  subst ht
  simp [State.enterOp, State.modCtx, State.modCur, State.modCore, State.cur]

/-- Only entering leaves memory as it was. -/
theorem OnlyEnters.hbm {s t : State} {o : PendOp} {takes : Bool} (h : OnlyEnters s t o takes) : t.hbm = s.hbm := by
  obtain ⟨q, n, rfl⟩ := h; rfl

/-- Only landing leaves memory as it was. -/
theorem OnlyLands.hbm {s t : State} {l : List Landing} (h : OnlyLands s t l) : t.hbm = s.hbm := by
  obtain ⟨q, n, rfl⟩ := h; rfl

end Sys2Proof.Machine
end

