-- ==== Sys2Proof/Machine/SaveFormat.lean ====
section
/-!
DEFINITION. The save format (R394, R397 to R400): the bytes of a saved context in the shadow storage of a cluster and in its
context area, as views of what State holds of it, and the accumulators of a frozen array. A byte is `none` where the spec names
what stands there and gives no layout for it (log 20).
-/

namespace Sys2Proof.Machine

/-! ## The frozen array (R228, R394) -/

/-- Beats that PE (i, j) has applied `t` cycles after a product began: clamp(t − i − j, 0, 32) (R228). -/
def beatsBy (t i j : Nat) : Nat := min (t - (i + j)) 32

/-- The accumulator that a product changes, CLR, and its k-steps per beat (R228, R241, R265). -/
def Instr.productOf (i : Instr) : Option (Bool × Bool × Nat) :=
  match i with
  | .mmul t d _ _ clr _ => some (d, clr, classK t.cls / 32)
  | .mmulp d _ _ _ clr _ _ => some (d, clr, 1)
  | .mmulpt d _ _ _ clr _ _ => some (d, clr, 1)
  | _ => none

/-- The accumulator that MZERO clears. -/
def Instr.zeroOf (i : Instr) : Option Bool :=
  match i with
  | .mzero d _ => some d
  | _ => none

/-- Accumulator d of PE (i, j) once a command in flight has gone on for `t` cycles; none where it has nothing left to do
there. -/
def Flight.part (f : Flight) (t : Nat) (d : Bool) (i j : Nat) : Option Acc :=
  let old := f.before.get Acc.init (accKey d i j)
  match Instr.productOf f.cmd.instr with
  | some (m, clr, n) =>
    let u := beatsBy t i j
    if m ≠ d ∨ u = 32 then none
    else
      let v := f.cmd.terms f.a f.b
      let x := if clr ∧ u ≠ 0 then Acc.init else old
      some ((((v.1.getD i []).zip (v.2.getD j [])).take (n * u)).foldl (fun x p => x.add p.1 p.2) x)
  | none =>
    match Instr.zeroOf f.cmd.instr with
    | none => none
    | some m => if m ≠ d ∨ i + j < t then none else some old

/-- Accumulator d of PE (i, j) of a core whose array is frozen in cycle `now`: the oldest command with something left to do
there stands in its middle, and the later ones have not reached the PE (R228, R394). -/
def Core.frozenAcc (k : Core) (now : Nat) (d : Bool) (i j : Nat) : Acc :=
  (k.mxs.flights.findSome? (fun f => f.part (now - f.start) d i j)).getD (k.accAt d i j)

/-! ## Bytes -/

/-- The bytes of a part of storage, by offset. -/
abbrev Bytes := Nat → Option Byte

/-- A part that is named and has no given layout. -/
def unplaced : Bytes := fun _ => none

/-- A little-endian value. -/
def leBytes (v : Nat) : Bytes := fun o => some (BitVec.ofNat 8 (v / 2 ^ (8 * o)))

/-- Parts of storage: first byte, length, contents. Everything else is zero (R397). -/
def layout (ps : List (Nat × Nat × Bytes)) : Bytes := fun o =>
  match ps.find? (fun p => decide (p.1 ≤ o) && decide (o < p.1 + p.2.1)) with
  | none => some 0
  | some p => p.2.2 (o - p.1)

/-- Entries of one size in order, zero after the last. -/
def entries {α : Type} (size : Nat) (l : List α) (f : α → Bytes) : Bytes := fun o =>
  match l[o / size]? with
  | none => some 0
  | some x => f x (o % size)

/-- The syllable of an instruction (R29), with its stop bit (R30); byte 3 is not given where that is not known. -/
def syllable (stop : Option Bool) (i : Instr) : Bytes := fun o =>
  if o = 3 ∧ stop.isNone then none else leBytes (encodeWords (stop.getD false) i).1.toNat o

/-- The stop bit of a command of a core: that of its operation; a command that stands alone has one (R33). -/
def Core.stopOf (k : Core) (m : Cmd) : Option Bool :=
  match m.instr with
  | .mlease _ | .mfree => some true
  | _ => (k.mx.op? m.num).map (fun o => o.stop)

/-- A point among a cluster's four cores: the saved image of the core at a position, if the context has one there. -/
def Saved.coreAt (v : Saved) (cl p : Nat) : Option Core :=
  if v.cores.any (fun (e : Nat × Core) => decide (e.1 = Machine.coreAt cl p)) then some (v.cores.get Core.init (Machine.coreAt cl p)) else none

/-- The commands in flight of a cluster's saved cores, by position and then by age, with their positions. -/
def Saved.flights (v : Saved) (cl : Nat) : List (Nat × Flight) :=
  ((List.range 4).map (fun p =>
    match v.coreAt cl p with
    | none => []
    | some k => k.mxs.flights.map (fun f => (p, f)))).flatten

/-- The frozen products of a cluster: the last beat falls 221 cycles after the first (R228). -/
def Saved.products (v : Saved) (cl : Nat) : List (Nat × Flight) :=
  (v.flights cl).filter (fun (e : Nat × Flight) => (Instr.productOf e.2.cmd.instr).isSome && decide (v.cycle - e.2.start < 222))

/-- The frozen waves of MZERO of a cluster (R242). -/
def Saved.waves (v : Saved) (cl : Nat) : List (Nat × Flight) :=
  (v.flights cl).filter (fun (e : Nat × Flight) => (Instr.zeroOf e.2.cmd.instr).isSome && decide (v.cycle - e.2.start < 191))

/-- The frozen readout or MEPS of a cluster: its position, operation and flight. One cluster runs one at a time (R229). -/
def Saved.drain (v : Saved) (cl : Nat) : Option (Nat × PendOp × Flight) :=
  (v.flights cl).findSome? (fun (e : Nat × Flight) =>
    if !e.2.cmd.instr.drains then none
    else
      match v.coreAt cl e.1 with
      | none => none
      | some k => (k.mx.op? e.2.cmd.num).map (fun o => (e.1, o, e.2)))

/-! ## Shadow storage (R397 to R399) -/

/-- K0 in bits 23:0 and J0 in bits 47:24. -/
def coords (k0 j0 : BitVec 24) : Nat := k0.toNat + 2 ^ 24 * j0.toNat

/-- The cluster header (R398). -/
def clusterHeader (n cl : Nat) (i : Inst) (freeze : Bool) (v : Saved) : Bytes :=
  let present := (List.range 4).foldl (fun m p => if (v.coreAt cl p).isSome then m + 2 ^ p else m) 0
  layout
    [ (0x000, 2, leBytes 0x0100)
    , (0x002, 2, leBytes n)
    , (0x004, 1, leBytes i.slice.toNat)
    , (0x005, 1, leBytes (cl % 256))
    , (0x006, 1, leBytes (cl / 256 + 2 * (if freeze then 2 else 1) + 8 * present))
    , (0x007, 1, leBytes (v.products cl).length)
    , (0x008, 2, leBytes (v.waves cl).length)
    , (0x010, 8, leBytes i.stopTime.toNat)
    , (0x018, 8, leBytes i.migr.toNat)
    , (0x100, 1536, entries 8 (v.waves cl) (fun (e : Nat × Flight) =>
        leBytes (e.1 + (if Instr.zeroOf e.2.cmd.instr = some true then 4 else 0) + 256 * (v.cycle - e.2.start)))) ]

/-- The state word of an engine (R399): run state and slack. -/
def Core.stateWord (k : Core) (e : Engine) : Nat :=
  let x := k.ctx e
  let run : Nat :=
    if k.parked e then 2
    else
      match x.run with
      | .halted => 0
      | .halting => 1
      | .running => 1
      | .fetchParked _ _ _ => 3
  run + 16 * x.slack.toNat

/-- A landing descriptor (R399): the code of its destination is not given; a scalar stands in its value. -/
def landingBytes (k : Core) (l : Landing) : Bytes :=
  let value : Bytes :=
    match l.eff with
    | .g _ v => leBytes v.toNat
    | .p _ v => leBytes v.toNat
    | .a _ v => leBytes v.toNat
    | .push q _ v => if (k.queue q).row then unplaced else leBytes v.toNat
    | .gbits _ _ _ | .abits _ _ _ | .v _ _ _ | .vbits _ _ _ | .vp _ _ _ | .xclr _ _ | .xacc _ _ _ | .xsca _ _ _ _ _ | .xset _ _ => unplaced
  layout [(0, 2, unplaced), (2, 2, leBytes l.rem), (4, 1, leBytes l.flags.toNat), (8, 8, value)]

/-- The vector or mask a landing value holds (R399). -/
def landingValue (k : Core) (l : Landing) : Bytes :=
  match l.eff with
  | .v _ v _ | .vbits _ v _ | .xacc _ v _ => leBytes v.toNat
  | .vp _ v _ => leBytes v.toNat
  | .push q _ v => if (k.queue q).row then leBytes v.toNat else leBytes 0
  | .g _ _ | .p _ _ | .a _ _ => leBytes 0
  | .gbits _ _ _ | .abits _ _ _ | .xclr _ _ | .xsca _ _ _ _ _ | .xset _ _ => unplaced

/-- A loop level (R399). -/
def loopBytes (l : Loop) : Bytes :=
  layout [(0, 8, leBytes l.start.toNat), (8, 8, leBytes l.stop.toNat), (16, 4, leBytes l.rem.toNat), (20, 4, leBytes l.active.toNat)]

/-- An engine block (R399). -/
def engineBlock (k : Core) (e : Engine) : Bytes :=
  let x := k.ctx e
  let words := [x.pt.toNat, x.mpc.toNat, k.stateWord e, x.tokst.toNat, x.timeline, x.next, x.land.length]
  layout
    [ (0x000, 56, entries 8 words leBytes)
    , (0x080, 128, entries 8 ((List.range 16).map (fun n => (x.areg.get 0 n).toNat)) leBytes)
    , (0x100, 128, entries 16 x.land (landingBytes k))
    , (0x180, 96, entries 24 (if e = .scu then (List.range 4).map (fun n => k.loops.get Loop.init n) else []) loopBytes)
    , (0x200, 512, entries 16 (x.ops.filter (fun o => o.ld)) (fun _ => unplaced))
    , (0x400, 512, entries 16 (x.ops.filter (fun o => o.st)) (fun _ => unplaced))
    , (0x600, 512,
        match e with
        | .scu | .ce => layout []
        | .ve => layout [(0, 224, entries 32 ((List.range 7).map (fun n => (k.vp.get 0 (n + 1)).toNat)) leBytes), (224, 8, leBytes k.vflags.toNat)]
        | .mx => layout [(0, 24, entries 8 [k.mxs.seeds.toNat, k.mxs.seedm.toNat, k.mxs.unfd.toNat] leBytes), (24, 488, unplaced)]) ]

/-- A pending trap record: what its entry into the handler adds to it stands nowhere yet (R361). -/
def trapBytes (r : TrapRec) : Bytes := fun o =>
  if o = 5 ∨ 32 ≤ o ∧ o < 40 then none
  else entries 8 ((List.range 8).map (fun n => (r.word (BitVec.ofNat 3 n) 0 false 0).toNat)) leBytes o

/-- A queue's entries, head first: one that is reserved and has not landed has no given bytes. -/
def queueBytes (q : Queue) : Bytes :=
  entries 256 q.slots (fun x =>
    match x.val with
    | none => unplaced
    | some v => leBytes v.toNat)

/-- Consecutive MLEASE and MFREE entries are saved as the last of them (R399). -/
def savedCmds : List Cmd → List Cmd
  | [] => []
  | m :: r =>
    let free (x : Cmd) : Bool := match x.instr with
      | .mlease _ | .mfree => true
      | _ => false
    if free m && r.head?.any free then savedCmds r else m :: savedCmds r

/-- An entry of the command sequence (R399). -/
def cmdBytes (k : Core) (m : Cmd) : Bytes :=
  layout [(0, 4, syllable (k.stopOf m) m.instr), (4, 4, leBytes m.member.toNat), (8, 8, leBytes m.seed.toNat)]

/-- The region of a 16-byte granule of a tile slot: of all its elements, or none given where they differ. -/
def Tile.granuleRegion (t : Tile) (g : Nat) : Bytes :=
  let r := t.regions.get 0 (64 * g)
  if (List.range 64).all (fun j => decide (t.regions.get 0 (64 * g + j) = r)) then leBytes r.toNat else unplaced

/-- Region maps of a FIFO of four slots of `n` granules. -/
def regionMap (n : Nat) (fifo : List Tile) : Bytes :=
  entries (2 * n) fifo (fun t o => t.granuleRegion (o / 2) (o % 2))

/-- The image of a core (R399). -/
def coreImage (k : Core) : Bytes :=
  let meps : List Cmd := k.mxs.cmds.filter (fun m =>
    match m.instr with
    | .meps _ _ _ _ _ => true
    | _ => false)
  layout
    [ (0x00000, 32, entries 2 ((List.range 16).map (fun n => (k.flags.get 0 n).toNat)) leBytes)
    , (0x00020, 80, entries 8 (k.fovf.toNat :: k.stallc.toNat ::
        (List.range 8).map (fun n => (k.qcfg (BitVec.ofNat 3 n)).toNat)) leBytes)
    , (0x00070, 912, unplaced)
    , (0x00400, 0x2000, fun o => engineBlock k ([Engine.scu, .ve, .ce, .mx].getD (o / 0x800) .scu) (o % 0x800))
    , (0x02400, 0x800, entries 256 k.ve.land (landingValue k))
    , (0x02C00, 376, entries 8 ((List.range 47).map (fun n => (k.g.get 0 (n + 1)).toNat)) leBytes)
    , (0x02D78, 1, leBytes k.p.toNat)
    , (0x02E00, 1344, entries 64 k.pend trapBytes)
    , (0x03400, 1024, entries 16 (k.scu.ops.filter (fun o => decide (o.status = .departed))) (fun _ => unplaced))
    , (0x03C00, 0x2000, entries 256 ((List.range 32).map (fun n => (k.v.get 0 n).toNat)) leBytes)
    , (0x05C00, 0x4000, fun o => leBytes (k.xlane (BitVec.ofNat 2 (o / 0x1000)) (o % 0x1000 / 64)).image.toNat (o % 64))
    , (0x09C00, 0x4000, fun o => queueBytes (k.queue (BitVec.ofNat 3 (o / 0x800))) (o % 0x800))
    , (0x0DC00, 0x800, fun o => if k.chan (BitVec.ofNat 3 (o / 256)) = Channel.init then some 0 else none)
    , (0x0E400, 64, leBytes k.inuse.toNat)
    , (0x0E440, 256, fun o => if k.groups.get Group.init (o / 64) = Group.init then some 0 else none)
    , (0x0E540, 1040, layout [(0, 16, leBytes k.grants.length), (16, 1024, entries 16 k.grants (fun w => leBytes w.toNat))])
    , (0x0E950, 2560, entries 80 k.caddy (fun _ => unplaced))
    , (0x0F400, 0x4000, entries 16 (savedCmds k.mxs.cmds) (cmdBytes k))
    , (0x13400, 0x4000, entries 0x1000 k.mxs.fifoA (fun t => leBytes t.bytes.toNat))
    , (0x17400, 0x8000, entries 0x2000 k.mxs.fifoB (fun t => leBytes t.bytes.toNat))
    , (0x1F400, 0x0800, regionMap 256 k.mxs.fifoA)
    , (0x1FC00, 0x1000, regionMap 512 k.mxs.fifoB)
    , (0x20C00, 0x0400, entries 8 (meps.map (fun m => coords m.k0 m.j0)) leBytes) ]

/-- N, PI, NI and ASAT of an accumulator (R397). -/
def Acc.sticky (x : Acc) : Nat := x.n.toNat + 2 * x.pi.toNat + 4 * x.ni.toNat + 8 * x.asat.toNat

/-- The accumulator image of a core (R397). -/
def accImage (k : Core) (now : Nat) : Bytes :=
  let acc (pe : Nat) (d : Bool) : Acc := k.frozenAcc now d (pe / 128) (pe % 128)
  layout
    [ (0x00000, 0x30000, fun o => leBytes (acc (o / 24) (decide (12 ≤ o % 24))).a.toNat (o % 12))
    , (0x30000, 8192, fun o => leBytes ((acc o false).sticky + 16 * (acc o true).sticky) 0) ]

/-- An entry of the array record (R397). -/
def productBytes (now : Nat) (k : Option Core) (e : Nat × Flight) : Bytes :=
  let f := e.2
  layout
    [ (0x00, 4, syllable (k.bind (fun k => k.stopOf f.cmd)) f.cmd.instr)
    , (0x04, 1, leBytes e.1)
    , (0x05, 1, leBytes (f.a.cls + 4 * f.b.cls))
    , (0x06, 2, leBytes (now - f.start))
    , (0x08, 8, leBytes f.cmd.seed.toNat)
    , (0x10, 4, leBytes f.cmd.member.toNat)
    , (0x18, 8, leBytes (coords f.b.k0 f.b.j0))
    , (0x40, tileBytesA f.a.cls, leBytes f.a.bytes.toNat)
    , (0x40 + tileBytesA f.a.cls, tileBytesB f.b.cls, leBytes f.b.bytes.toNat) ]

/-- What the drain record holds of PE (i, j): captured, and not yet written or pushed (R394, R397). -/
def captureBytes (o : PendOp) (t i j : Nat) : Bytes :=
  let word (row w at_ : Nat) : Bytes :=
    if i + j < t ∧ o.mpc.toNat ≤ row then leBytes (((o.rows.getD row 0) >>> (w * at_)).toNat % 2 ^ w) else leBytes 0
  match o.instr with
  | .mrd _ _ _ => word (2 * i + j / 64) 32 (j % 64)
  | .mrdx _ _ _ => word (8 * i + j / 16) 128 (j % 16)
  | _ => leBytes 0

/-- The drain record (R397). -/
def drainBytes (now : Nat) : Option (Nat × PendOp × Flight) → Bytes
  | none => layout []
  | some (p, o, f) =>
    let t := now - f.start
    layout
      [ (0x00, 4, syllable (some o.stop) o.instr)
      , (0x04, 1, leBytes p)
      , (0x05, 1, leBytes 1)
      , (0x06, 2, leBytes (min t 65535))
      , (0x08, 8, leBytes o.mpc.toNat)
      , (0x10, 8, leBytes f.cmd.seed.toNat)
      , (0x18, 4, leBytes f.cmd.member.toNat)
      , (0x20, 8, leBytes (coords f.cmd.k0 f.cmd.j0))
      , (0x1000, 0x20000, fun b => captureBytes o t (b / 2048) (b / 16 % 128) (b % 16)) ]

/-- The fixed part of a saved context in one cluster (R397). -/
def contextBytes (n cl : Nat) (i : Inst) (freeze : Bool) (v : Saved) : Bytes :=
  let core (f : Core → Bytes) (p : Nat) : Bytes :=
    match v.coreAt cl p with
    | none => layout []
    | some k => f k
  layout
    [ (0x000000, 0x1000, clusterHeader n cl i freeze v)
    , (0x001000, 4 * 0x21000, fun o => core coreImage (o / 0x21000) (o % 0x21000))
    , (0x085000, 4 * 0x32000, fun o => core (fun k => accImage k v.cycle) (o / 0x32000) (o % 0x32000))
    , (0x14D000, 0x12000, entries 0x2840 (v.products cl) (fun e => productBytes v.cycle (v.coreAt cl e.1) e))
    , (0x15F000, 0x21000, drainBytes v.cycle (v.drain cl)) ]

/-- The shadow storage of a cluster: the context it holds (R388, R397); none while it holds no saved context. -/
def State.shadowBytes (s : State) (cl : Nat) : Option Bytes :=
  let n := (s.cluster cl).shadow
  let i := s.insts.get Inst.init n
  if n = 0 then none
  else
    match i.status with
    | .saved freeze => some (contextBytes n cl i freeze (s.saved.get Saved.init n))
    | .running | .stopping _ _ | .parkedOut _ | .moved _ _ | .ending _ | .ended => none

/-! ## The context area (R400) -/

/-- The rows of a core that another context has claimed from a context, by row index. -/
def Saved.claimed (v : Saved) (c : Nat) : Tbl StashRow :=
  v.rows.foldl (fun (t : Tbl StashRow) r => if r.1 = c then t.set StashRow.init r.2.1 r.2.2 else t) []

/-- A row of a core has been saved (R400). -/
def Saved.present (v : Saved) (c q : Nat) : Bool := v.rows.any (fun r => decide (r.1 = c) && decide (r.2.1 = q))

/-- The core slot and scratch save region of one core of a context (R400). A descriptor's token, kind and number have no given
layout. -/
def areaBytes (v : Saved) (c : Nat) : Bytes :=
  let k := v.cores.get Core.init c
  let jobs := ((List.range 8).map (fun ch => (k.chan (BitVec.ofNat 3 ch)).jobs)).flatten
  let row (q : Nat) : StashRow := (v.claimed c).get StashRow.init q
  layout
    [ (0x00000, 0x5000, entries 80 jobs (fun (j : Job) o => if o < 64 then leBytes j.desc.toNat o else none))
    , (0x05000, 0x8000, fun o =>
        let q := o / 4
        leBytes (if v.present c q then (row q).region.toNat + 2 ^ 16 * (row q).poison.toNat + 2 ^ 31 else 0) (o % 4))
    , (0x10000, 0x200000, fun o => if v.present c (o / 256) then leBytes (row (o / 256)).data.toNat (o % 256) else some 0) ]

end Sys2Proof.Machine
end

