-- ==== Sys2Proof/Laws/SaveFormat.lean ====
section
/-!
SUPPORT. Laws of the frozen array and of the save format's layouts.
-/

set_option Elab.async false

namespace Sys2Proof.Machine

/-- A PE applies no more than the 32 beats of a product (R228). -/
theorem beatsBy_le (t i j : Nat) : beatsBy t i j ≤ 32 := Nat.min_le_right _ _

/-- A PE applies no beat before the product reaches it (R228). -/
theorem beatsBy_early {t i j : Nat} (h : t ≤ i + j) : beatsBy t i j = 0 := by simp only [beatsBy]; omega

/-- A PE has applied every beat 32 cycles after the product reached it (R228). -/
theorem beatsBy_late {t i j : Nat} (h : i + j + 32 ≤ t) : beatsBy t i j = 32 := by simp only [beatsBy]; omega

/-- Where no command in flight has anything left to do, a frozen accumulator is the accumulator. -/
theorem Core.frozenAcc_settled (k : Core) (now : Nat) (d : Bool) (i j : Nat)
    (h : ∀ f ∈ k.mxs.flights, f.part (now - f.start) d i j = none) : k.frozenAcc now d i j = k.accAt d i j := by
  have : k.mxs.flights.findSome? (fun f => f.part (now - f.start) d i j) = none := List.findSome?_eq_none_iff.2 h
  simp [Core.frozenAcc, this]

/-- The value of a product's accumulator at a PE that it has not reached is the one before it. -/
theorem Flight.part_early (f : Flight) {t : Nat} {m clr : Bool} {n i j : Nat}
    (hp : Instr.productOf f.cmd.instr = some (m, clr, n)) (h : t ≤ i + j) :
    f.part t m i j = some (f.before.get Acc.init (accKey m i j)) := by
  simp [Flight.part, hp, beatsBy_early h]

/-- A product has nothing left to do at a PE that has applied all its beats. -/
theorem Flight.part_late (f : Flight) {t : Nat} {m clr : Bool} {n i j : Nat}
    (hp : Instr.productOf f.cmd.instr = some (m, clr, n)) (h : i + j + 32 ≤ t) : f.part t m i j = none := by
  simp [Flight.part, hp, beatsBy_late h]

/-- A byte that no part of a layout covers is zero (R397). -/
theorem layout_unused (ps : List (Nat × Nat × Bytes)) (o : Nat)
    (h : ∀ p ∈ ps, ¬(p.1 ≤ o ∧ o < p.1 + p.2.1)) : layout ps o = some 0 := by
  have : ps.find? (fun p => decide (p.1 ≤ o) && decide (o < p.1 + p.2.1)) = none := by
    rw [List.find?_eq_none]; intro p hp; simpa using h p hp
  simp only [layout, this]

/-- Bytes past the last entry of a list are zero (R397). -/
theorem entries_past {α : Type} (size : Nat) (l : List α) (f : α → Bytes) (o : Nat) (h : l.length ≤ o / size) :
    entries size l f o = some 0 := by
  simp [entries, List.getElem?_eq_none h]

end Sys2Proof.Machine
end

