-- ==== Sys2Proof/Tests/Slice0.lean ====
section
/-!
SUPPORT. Small tests: terms that WellFormed refuses, words that the spec writes out with their decoding, single steps, and for
each statement a state and operands that meet its hypotheses. Expected values come from the spec's encodings and examples.
-/

set_option Elab.async false

namespace Sys2Proof.Tests

open Machine

/-! ## WellFormed refuses -/

def opnd (mode : AMode) (f : BitVec 6) : MemOpnd := { base := 1, mode := mode, field := f }

/-- Register numbers above 47, and codes of queues where a register is wanted (R40, R41, R182). -/
theorem test_wf_refuses_registers :
    wellFormed .scu (.add (.r 48) (.r 1) (.r 2) .always) = false ∧
    wellFormed .scu (.add (.r 1) (.r 63) (.r 2) .always) = false ∧
    wellFormed .scu (.add (.peek 1) (.r 1) (.r 2) .always) = false ∧
    wellFormed .scu (.movk (.pop 1) 0 0) = false ∧
    wellFormed .scu (.bins (.peek 1) (.r 1) (.r 2) .always) = false ∧
    wellFormed .scu (.acas2 (.r 3) 0 (.r 2) 0) = false ∧
    wellFormed .scu (.acas2 (.r 2) 0 (.pop 2) 0) = false ∧
    wellFormed .ve (.vadd .f32 (.peek 1) (.r 1) (.r 2) 0) = false ∧
    wellFormed .ve (.vfma .f32 (.pop 1) (.r 1) (.r 2) 0) = false ∧
    wellFormed .ve (.vkey .h2 (.r 1) (.r 1) (.r 2) 0) = false := by decide

/-- Operands of the common majors on the wrong engine, and guards where there is none (R34, R36, R377). -/
theorem test_wf_refuses_common_operands :
    wellFormed .ve (.mfs (.g (.r 1)) .gtime .always) = false ∧
    wellFormed .scu (.mfs (.a 1) .gtime .always) = false ∧
    wellFormed .scu (.mfs (.g (.r 1)) .seeds .always) = false ∧
    wellFormed .scu (.mts .gtime (.g (.r 1)) .always) = false ∧
    wellFormed .ce (.mfs (.a 1) .gtime { p := 1, neg := false }) = false ∧
    wellFormed .mx (.mark { p := 1, neg := false }) = false ∧
    wellFormed .ve (.trap 0 { p := 1, neg := false }) = false ∧
    wellFormed .ve (.fset 1 (.r 2) 1) = false ∧
    wellFormed .scu (.fset 1 (.peek 2) 1) = true ∧
    wellFormed .scu (.barr (.g (.pop 1)) 0 0 0) = false ∧
    wellFormed .ce (.tlsig (.a 1) 0) = false ∧
    wellFormed .scu (.fence .rel .slice (.ofCode 8) 0) = false := by decide

/-- Immediate fields out of range, memory modes that are not admitted, engines that do not hold the instruction (R36, R38, R114,
R130, R143, R154, R224). -/
theorem test_wf_refuses_fields :
    wellFormed .scu (.loopImmediate 0 0 1 3) = false ∧
    wellFormed .scu (.loopRegister 0 (.r 1) 1 0) = false ∧
    wellFormed .scu (.fork .scu 0 1 .always) = false ∧
    wellFormed .scu (.eret (.r 1) false false) = false ∧
    wellFormed .ve (.vld (.r 1) (opnd .idx 16) 0) = false ∧
    wellFormed .ve (.xld 0 (opnd .swz 0) 0) = false ∧
    wellFormed .ve (.vbcast 3 4 (.r 1) (.r 2) 0) = false ∧
    wellFormed .ve (.vextr true 32 (.r 1) (.r 2) 0) = false ∧
    wellFormed .ve (.vcvtLow .f16 .f32 (.r 1) (.r 2) 2) = false ∧
    wellFormed .ve (.vcvtHigh .f32 .i32 (.r 1) (.r 2) 0) = false ∧
    wellFormed .ve (.vqnt .i8 (.r 1) (.r 2) (.r 3) 4) = false ∧
    wellFormed .ce (.ccan true 1 0) = false ∧
    wellFormed .ce (.cpy 0 (opnd .swz 0) 0) = false ∧
    wellFormed .mx (.mlease 0) = false ∧
    wellFormed .mx (.mlease 257) = false ∧
    wellFormed .mx (.add (.r 1) (.r 1) (.r 2) .always) = false ∧
    wellFormed .scu (.divideComplete 0) = false := by decide

/-! ## Words of the spec -/

/-- SCU words (R88, R101, R104, R107, R114, R143, R178, R217, R363, R380, R381). -/
theorem test_decode_scu :
    decode .scu 0x08518740 0 = .ok (.add (.r 5) (.r 6) (.r 7) { p := 2, neg := false }) ∧
    decode .scu 0x84000001 0 = .ok .halt ∧
    decode .scu 0x98100000 0 = .ok (.movi (.r 1) 0) ∧
    decode .scu 0x8C104030 0 = .ok (.addi (.r 1) (.r 1) 3) ∧
    decode .scu 0x84000803 0 = .ok (.slack 128) ∧
    decode .scu 0xDC101000 0 = .ok (.mfs (.g (.r 1)) .slackv .always) ∧
    decode .scu 0xDE802400 0 = .ok (.mfs (.g (.r 40)) .faultinfo .always) ∧
    decode .scu 0xE0200011 0 = .ok (.fwait 2 (.r 0) 1) ∧
    decode .scu 0xD8000005 0 = .ok (.rfence 0) ∧
    decode .scu 0xD88300C8 0 = .ok (.rld .n64 (.r 8) 3 1) ∧
    decode .scu 0xEC001500 0 = .ok (.trap 0x15 .always) ∧
    decode .scu 0xECA00202 0 = .ok (.faultrd (.g (.r 10)) 2 .always) ∧
    decode .scu 0xEC000204 0 = .ok (.eret (.r 0) true false) ∧
    decode .scu 0xEC310525 0 = .ok (.icinv .slice (.r 4) (.r 5) 1) ∧
    decode .scu 0xE8640241 0 = .ok (.barr (.g (.r 6)) 4 2 2) := by decide +kernel

/-- VE words (R123, R130, R139, R145, R147, R172 to R177). -/
theorem test_decode_ve :
    decode .ve 0x98A80001 0 = .ok (.vor .b32 (.r 10) (.pop 0) (.r 0) 0) ∧
    decode .ve 0xB0400002 0 = .ok (.viota .b32 0 (.r 4) 0) ∧
    decode .ve 0x98512604 0 = .ok (.vshl .b32 (.r 5) (.r 4) (.pop 6) 0) ∧
    decode .ve 0xC8214524 0 = .ok (.vgath 2 1 false 5 1 1) ∧
    decode .ve 0xC0220041 0 = .ok (.vst (.r 2) { base := 2, mode := .off, field := 0 } 2) ∧
    decode .ve 0xAC30BE01 0 = .ok (.vrot 248 (.r 3) (.r 2) 0) ∧
    decode .ve 0xC6014220 0 = .ok (.vldq 0 { base := 1, mode := .idx, field := 2 } 0 1) := by decide +kernel

/-- CE and MX words (R234, R252, R260, R277, R293 to R297, R347). -/
theorem test_decode_ce_mx :
    decode .ce 0x88001020 0 = .ok (.cpy 0 { base := 0, mode := .off, field := 0x10 } 1) ∧
    decode .ce 0x98328080 0 = .ok (.cwprd 3 true 2 4) ∧
    decode .ce 0x94120560 0 = .ok (.pput 1 2 5 3) ∧
    decode .ce 0xA8120000 0 = .ok (.cgrp 1 { base := 2, mode := .off, field := 0 } 0) ∧
    decode .ce 0xAC210060 0 = .ok (.car 2 { base := 1, mode := .off, field := 0 } 3) ∧
    decode .mx 0x88000060 0 = .ok (.mlease 6) ∧
    decode .mx 0x88000001 0 = .ok .mfree ∧
    decode .mx 0x98000065 0 = .ok (.mmul .i8 false false false false 3) ∧
    decode .mx 0x28000030 0 = .ok (.rep 3) ∧
    decode .mx 0xA0050080 0 = .ok (.mrd false { base := 5, mode := .off, field := 0 } 4) := by decide +kernel

/-! ## States for the witnesses -/

/-- A state in which core 0 runs instance 1. -/
def oneCore (k : Core) : State :=
  { State.reset with cores := [(0, { k with inst := 1 })], insts := [(1, Inst.init)], cycle := 1000 }

/-- An engine that runs, with a return point in a15. -/
def runs : Ctx := { Ctx.init with run := .running, pt := 1, areg := [(15, 1)] }

/-- An operation numbered 1 that holds token 1. -/
def op (i : Instr) : PendOp := { PendOp.of i (some 1) with num := 1 }

def withOps (x : Ctx) (o : PendOp) : Ctx := { x with ops := [o], serial := 1, tok := [(1, 1)] }

def scuOp (o : PendOp) : State := oneCore { Core.init with scu := withOps runs o }
def veOp (o : PendOp) : State := (oneCore { Core.init with ve := withOps runs o }).at_ 0 .ve
def mxOp (o : PendOp) : State := oneCore { Core.init with mx := withOps runs o }

/-- Engine `e` of core 0 is about to issue, its line in the instruction cache. -/
def on (e : Engine) : State :=
  ((oneCore { Core.init with scu := runs, ve := runs, ce := runs, mx := runs }).cache 0 0 (oneLine .scu 0x98100000 0)).at_ 0 e

def mem0 : MemOpnd := { base := 0, mode := .off, field := 0 }

/-! ## Encoding, steps and reset -/

theorem test_witness_round_trips :
    wellFormed .scu (.add (.r 1) (.pop 2) (.peek 3) .always) = true ∧
    wellFormed .ve (.vgath 2 1 true 5 1 1) = true ∧ wellFormed .ce (.cpy 0 mem0 1) = true ∧
    wellFormed .mx (.mlease 256) = true := by decide

/-- Number 0x3FF is in no row of the map, and GTIME is read-only (R93). -/
theorem test_witness_unlisted_register :
    (∀ r : SReg, r.code = 0x3FF → r.readable .scu = false) ∧
    (∀ r : SReg, r.code = SReg.gtime.code → r.writable .scu = false) := by
  constructor <;> intro r <;> cases r <;> first | decide | (rename_i n; revert n; decide)

theorem test_witness_schedule : ({ State.reset with agenda := [.divideComplete 0] } : State).agenda = .divideComplete 0 :: [] := rfl

/-- The premises of StepIssuesDecodedInstruction, at the state that holds MOVI g1, 0. -/
theorem test_witness_step_issues :
    let s := State.reset.withFetchWord 32 0x98100000
    let t : IssueSlot := { core := 0, eng := .scu, again := false, late := false }
    let x := ({ s with turn := [] } : State).at_ 0 .scu
    let a := x.modCtx (fun x => { x with frozen := false })
    let y := a.modCtx (fun x => { x with starting := false })
    let l := oneLine .scu 0x98100000 0
    s.agenda = [] ∧ s.turn = [t] ∧ s.earlySteps = none ∧ x.mayIssue 0 .scu = true ∧ (x.core 0).hcallPending = false ∧ x.ctx.bubble = 0 ∧
    x.yieldsFlag 0 .scu = false ∧ x.cached 0 x.ctx.pt = some l ∧ Line.engine l = .scu ∧ Line.brokenAt l (ptSyl x.ctx.pt).toNat = false ∧
    Line.startFault l (ptSyl x.ctx.pt).toNat = none ∧
    Line.members l .scu (ptSyl x.ctx.pt).toNat = [(1, 0x98100000, .ok (.movi (.r 1) 0))] ∧
    a.fieldBad (.movi (.r 1) 0) = false ∧ groupFault .scu [(Instr.movi (.r 1) 0).uses .scu] = none ∧
    y.groupClosed [.movi (.r 1) 0] = none := by decide +kernel

theorem test_witness_step_ends_cycle :
    State.reset.agenda = [] ∧ State.reset.turn = [] ∧ State.reset.nextAuto = none ∧ State.reset.slew = 0 := by decide +kernel

theorem test_witness_memory_kept :
    MemoryCanonical State.reset ∧ ∃ t, step State.reset = .next t := by
  refine ⟨⟨by decide, by decide⟩, State.reset.tick, ?_⟩
  rfl

/-! ## The gate -/

/-- Register instructions go on a running engine, and wait or trap where a source is a queue that is not connected. -/
theorem test_witness_register_instructions :
    (on .scu).ready ((on .scu).cur.needs2 (.r 1) (.r 2) (.r 3) .always 1) = true ∧
    (on .scu).ready ((on .scu).cur.needs2 (.r 1) (.r 2) (.r 3) .always 3) = true ∧
    (on .scu).ready ((on .scu).cur.needs2 (.r 1) (.pop 0) (.r 3) .always 1) = false ∧
    (on .scu).ready { srcs := [(GField.r 2).qref, (GField.r 3).qref], dst := (GField.r 1).push, lat := 1, file := (GField.r 1).file } = true ∧
    (on .scu).ready { srcs := [(GField.pop 2).qref, (GField.r 3).qref], dst := (GField.r 1).push, lat := 1, file := (GField.r 1).file } = false ∧
    (on .scu).ready (needs1 (.r 1) (.r 0)) = true ∧ (on .scu).ready (needs1 (.pop 1) (.r 0)) = false ∧
    (on .scu).ready (needsTok (.r 1) (.r 2) (.r 3) 1) = true ∧ (on .scu).ready (needsTok (.r 1) (.pop 2) (.r 3) 1) = false := by
  decide +kernel

theorem test_witness_vector_instructions :
    (on .ve).ready (needsV (.r 1) [none, none] 2) = true ∧ (on .ve).ready (needsV (.r 1) [none] 4) = true ∧
    (on .ve).ready (needsV (.pop 1) [none] 3) = false ∧ (on .ve).ready (needsUnit (.r 1) [none] 1) = true ∧
    (on .ve).ready (needsUnit (.pop 1) [none] 1) = false ∧ (on .ve).ready (needsVp []) = true ∧
    (on .ve).ready (needsVp [(VField.pop 1).qref]) = false ∧ (on .ve).ready (needsX [] 4) = true ∧
    (on .ve).ready (needsX [(VField.pop 1).qref] 2) = false ∧ (on .ve).ready (needsVld (.r 1) 1) = true ∧
    (on .ve).ready (needsVst (.r 1) 1) = true ∧ (on .ve).ready (needsVst (.pop 1) 1) = false ∧ mem0.mode ≠ .swz := by
  decide +kernel

/-- Memory, ordering, control, copy and matrix instructions at the gate: each goes here, and one that names a queue which is not
connected does not. -/
theorem test_witness_other_instructions :
    (on .scu).ready (needsLd (.r 1) mem0 1) = true ∧ (on .scu).ready (needsLd (.pop 1) mem0 1) = false ∧
    (on .scu).ready (needsSt (.r 1) mem0 1) = true ∧ (on .scu).ready (needsSt (.pop 1) mem0 1) = false ∧
    (on .scu).ready (needsAtomic (.r 1) (.r 2) 1) = true ∧ (on .scu).ready (needsMgmt (.r 1) 1) = true ∧
    (on .scu).ready (needsBoth 1) = true ∧ (on .scu).ready ((on .scu).needsMfs (.g (.r 1)) .always) = true ∧
    (on .scu).ready ((on .scu).needsMts (.g (.r 1)) .always) = true ∧ (on .scu).ready ((on .scu).needsFwait 1 (.r 0) 0) = true ∧
    (on .scu).ready ((on .scu).needsFwait 1 (.r 0) 1) = false ∧ (on .scu).ready ((on .scu).needsWaitk 2) = true ∧
    (scuOp (op (.rld .n64 (.r 1) 2 1))).ready ((scuOp (op (.rld .n64 (.r 1) 2 1))).needsWaitk 2) = false ∧
    (on .scu).ready ((on .scu).needsFaultrd (.g (.r 1)) .always) = true ∧
    (on .ce).ready { tok := some 1 } = true ∧ (on .mx).ready { tok := some 1, ld := true } = true ∧
    (on .mx).ready { bad := true } = false := by decide +kernel

/-! ## Control -/

/-- Both branches of a transfer, a CALL's line and return point, a loop's chain (R111 to R114). -/
theorem test_witness_transfers :
    let s := on .scu
    s.ready { act := s.cur.guardP .always } = true ∧ s.ready { act := s.cur.guardP { p := 0, neg := true } } = false ∧
    s.cur.guardP { p := 0, neg := true } = false ∧ s.ready {} = true ∧
    s.ready { act := s.cur.guardP .always, lat := 1, file := .gpa } = true ∧
    s.ready { srcs := [(GField.r 1).qref], act := s.cur.guardP .always } = true ∧
    s.reaches (s.labelPt 0 1) = true ∧ s.reaches (s.cur.scu.ar 15) = true ∧
    s.cached s.focus s.ctx.pt = some (oneLine .scu 0x98100000 0) ∧
    Line.follow (oneLine .scu 0x98100000 0) s.ctx.pt = some 1 ∧
    (match s.chain s.ctx.pt 0 with | .ok _ => true | .error _ => false) = true := by decide +kernel

/-- A register transfer to the point that g1 holds, and a loop whose count g1 gives. -/
theorem test_witness_register_transfer :
    let s := ((oneCore { Core.init with scu := runs, g := [(1, 1)] }).cache 0 0 (oneLine .scu 0x98100000 0)).at_ 0 .scu
    s.reaches (s.cur.readG (.r 1)).1 = true ∧ (s.cur.readG (.r 1)).1.toNat % 2 ^ 32 ≠ 0 ∧
    s.ready { srcs := [(GField.r 1).qref] } = true := by decide +kernel

theorem test_witness_fork_and_join :
    let s := oneCore { Core.init with scu := runs }
    let t := on .scu
    s.ready (s.needsFork .ve .always) = true ∧ s.cur.guardP .always = true ∧
    s.ready (s.needsJoin true true true .always) = true ∧
    (t.cur.ctx .ve).run ≠ .halted ∧ t.cur.guardP .always = true ∧ t.cur.ve.run ≠ .halted := by decide +kernel

theorem test_witness_remote_issue :
    let s := on .scu
    let a := oneCore { Core.init with scu := { runs with areg := [(1, 4), (15, 1)] } }
    s.ready (s.needsRemote (some (.r 1)) none 1 true false) = true ∧ (s.cur.scu.ar 1).toNat % 8 = 0 ∧
    s.ready (s.needsRemote none (some (.r 2)) 1 false true) = true ∧
    s.ready (s.needsRemote (some (.r 1)) (some (.r 2)) 1 true true) = true ∧ (s.cur.scu.ar 1).toNat % 16 = 0 ∧
    a.ready (a.needsRemote (some (.r 1)) none 1 true false) = true ∧ (a.cur.scu.ar 1).toNat % 8 ≠ 0 := by decide +kernel

/-- Address 8 is aligned for RATM and the ROPKs but FMINLOC and the pair form of RCAS (R319, R326); 4 for the n32 form alone. -/
theorem test_remote_alignment :
    let at_ (a : W64) : State := oneCore { Core.init with scu := { runs with areg := [(1, a), (15, 1)] } }
    let traps (i : Instr) (a : W64) : Bool :=
      match exec i (at_ a) with
      | .next t => decide ((t.core 0).scu.lastRec.map (fun r => (r.1.code, r.1.addr)) = some (0x10, a))
      | _ => false
    traps (.fminloc (.r 1) 1 (.r 2) 0) 8 = true ∧ traps (.fminloc (.r 1) 1 (.r 2) 0) 16 = false ∧
    traps (.rcas .pair (.r 2) 1 (.r 4) 0) 8 = true ∧ traps (.fadd (.r 1) 1 (.r 2) 0) 8 = false ∧
    traps (.rcas .n32 (.r 1) 1 (.r 2) 0) 4 = false ∧ traps (.ratm .add (.r 1) 1 (.r 2) 0) 4 = true ∧
    traps (.rst .n16 (.r 1) 1 0) 1 = true ∧ traps (.deq (.r 1) 1 (.r 2) 0) 4 = true := by decide +kernel

theorem test_witness_division :
    ((scuOp (op (.div (.r 1) (.r 2) (.r 3) 1))).divideDue 0).isSome = true ∧
    ((veOp (op (.vdiv .f32 (.r 1) (.r 2) (.r 3) 1))).unitDue 0).isSome = true := by decide +kernel

/-! ## Traps -/

def rec0 : TrapRec :=
  { code := 0x10, eng := .scu, chan := none, kind := 0, pt := 1, addr := 0, detail := 0, time := 0, mpc := 0, cyc := 0, num := 0,
    entry := false }

def hand : Handler := { pt := 1, land := [], loops := [], run := .running, rec_ := rec0 }

/-- TRAP where a handler point stands, where none does, and in a handler. -/
theorem test_witness_trap :
    let s := oneCore { Core.init with scu := runs, trapv := 1 }
    let n := oneCore { Core.init with scu := runs }
    let h := oneCore { Core.init with scu := runs, trapv := 1, hand := some hand }
    s.ready { act := s.cur.guardOn s.eng .always } = true ∧ s.cur.trapv ≠ 0 ∧ isPoint s.cur.trapv = true ∧ s.cur.hand = none ∧
    n.ready { act := n.cur.guardOn n.eng .always } = true ∧ n.cur.trapv = 0 ∧
    h.ready { act := h.cur.guardOn h.eng .always } = true ∧ h.eng = .scu ∧ h.cur.hand.isSome = true := by decide +kernel

theorem test_witness_handler :
    let s := oneCore { Core.init with scu := runs, trapv := 1, pend := [rec0] }
    let h := oneCore { Core.init with scu := runs, trapv := 1, hand := some hand }
    s.canEnterHandler 0 = true ∧ (s.core 0).pend = rec0 :: [] ∧ (s.core 0).parked .scu = true ∧
    h.eng = .scu ∧ h.cur.hand = some hand ∧ hand.rec_.eng = .scu ∧ hand.rec_.kind = 0 ∧ hand.rec_.chan = none ∧
    hand.rec_.code ≠ 0x38 ∧ h.ready (h.needsEret (.r 0) false) = true ∧ s.cur.hand = none := by decide +kernel

/-! ## The sequencer -/

def w0 : Wait := { causes := [.pop 0], since := 0, last := 0, len := 100000000, qlen := 2 ^ 34, stalled := false, held := false, slack := 0 }

/-- ADD g1, q0, g2. -/
def popLine : Line := oneLine .scu (encodeWords true (.add (.r 1) (.pop 0) (.r 2) .always)).1 0

theorem test_witness_sequencer :
    (oneCore { Core.init with scu := { runs with land := [{ eff := .g 1 5, flags := 0, rem := 1, stamp := 0 }] } }).landsNow 0 .scu = true ∧
    (((oneCore { Core.init with scu := { runs with run := .halting } }).core 0).ctx .scu).drained = true ∧
    (((oneCore { Core.init with scu := { runs with wait := some { w0 with causes := [.token] } } }).core 0).ctx .scu).stallsNow = true ∧
    (((oneCore { Core.init with scu := { runs with wait := some w0 }, queues := [(0, { Queue.init with en := true })] }).cache 0 0
      popLine).timedOut 0 .scu).isSome = true ∧
    ({ oneCore Core.init with insts := [(1, { Inst.init with static_ := true })], gtime := 5 } : State).sampleDue 1 = true := by
  decide +kernel

def tlb0 : TlbEntry :=
  { slice := 0, s1root := 0, va := 0, logsize := 21, pa := 0, r := true, w := true, x := true, r2 := true, w2 := true, key := 0,
    region := 0, dirty := true, path := [] }

theorem test_witness_fetch :
    let s := oneCore { Core.init with scu := runs, tlb := [tlb0] }
    s.fetchAnswer 0 .scu = none ∧ s.wantedLine 0 .scu = some 0 ∧ s.failedFetch 0 .scu 0 = none ∧
    (match s.readLine 0 0 with | .ok _ => true | .error _ => false) = true := by decide +kernel

theorem test_witness_ordering :
    ((scuOp (op (.fence .rel .slice (.ofCode 1) 1))).orderTurn 0 .scu 1).isSome = true ∧
    ((scuOp { op (.tlsig (.g (.r 1)) 1) with tnum := 1 }).orderTurn 0 .scu 1).isSome = true ∧
    ((scuOp (op (.tlwait (.g (.r 1)) (.g (.r 2)) 1))).orderTurn 0 .scu 1).isSome = true ∧
    (scuOp (op (.tlwait (.g (.r 1)) (.g (.r 2)) 1))).tlTarget 0 0 = some (0, .scu) := by decide +kernel

def bar0 : StashRow := { StashRow.init with owner := 1, data := 4 }

theorem test_witness_barrier :
    let o := { op (.bwait (.g (.r 1)) 2 0 1) with addr := 1 <<< 63, status := .departed }
    let s := oneCore { Core.init with scu := withOps runs o, rows := [(0, bar0)] }
    ((s.core 0).ctx .scu).op? 1 = some o ∧ s.barOpen 0 .scu o.instr = true ∧ o.mask = 0 ∧ (s.core 0).parked .scu = false ∧ isStash o.addr = true ∧
    s.barHome 0 0 = some 0 ∧ (match s.readBar 0 o.addr .read with | .ok (b, _) => decide (b.status = 1) | .error _ => false) = true := by
  decide +kernel

theorem test_witness_icinv_and_hcall :
    let i := op (.icinv .core (.r 1) (.r 2) 1)
    let h := scuOp { op (.hcall (.r 1) (.r 2) 0 1) with addr := 1 <<< 63 }
    (scuOp i).icinvDue i = some .core ∧ slice i.addr 48 16 = 0#16 ∧ (h.hcallOp 0).isSome = true ∧ isStash (1 <<< 63) = true ∧
    (match h.stashPacket 0 (1 <<< 63) with | .ok _ => true | .error _ => false) = true ∧
    hcallAnswer 0 2 = true ∧ slice (2 : W64) 0 8 ≠ 0#8 := by decide +kernel

/-! ## Accesses -/

theorem test_witness_stores :
    let o := { op (.st .n64 (.r 1) mem0 1) with addr := 1 <<< 63, st := true }
    let v := { op (.vst (.r 1) mem0 1) with addr := 1 <<< 63, st := true, mask := 1 }
    (scuOp o).mayPerform 0 .scu o = true ∧ (veOp v).mayPerform 0 .ve v = true ∧ v.mask ≠ 0 ∧ isStash o.addr = true ∧
    (match (scuOp o).touchPlain 0 (stashRow o.addr) .write with | .ok _ => true | .error _ => false) = true ∧
    (match (veOp v).touchPlain 0 (stashRow v.addr) .write with | .ok _ => true | .error _ => false) = true := by decide +kernel

/-- A load from the stash, and one from a global address that is not aligned. -/
theorem test_witness_loads :
    let o := { op (.ld .n64 (.r 1) mem0 1) with addr := 1 <<< 63, ld := true }
    let m := { op (.ld .n64 (.r 1) mem0 1) with addr := 4, ld := true }
    (scuOp o).mayPerform 0 .scu o = true ∧ (match (scuOp o).read 0 o.addr 8 with | .ok _ => true | .error _ => false) = true ∧
    (scuOp m).mayPerform 0 .scu m = true ∧ isStash m.addr = false ∧ slice m.addr 48 15 = 0#15 ∧ m.addr.toNat % 8 ≠ 0 := by
  decide +kernel

/-- Atomics, VLDQ, VLDT, lanes of a gather and a scatter, and management of rows and sectors, each where it may perform. -/
theorem test_witness_more_accesses :
    let a : W64 := 1 <<< 63
    let scu (i : Instr) (v : Row) : PendOp := { op i with addr := a, val := v, ld := true, st := true }
    let ve (i : Instr) (m : W64) : PendOp := { op i with addr := a, mask := 1, mpc := m }
    (∀ i ∈ [Instr.acas true (.r 1) 2 (.r 3) 1, .acas2 (.r 2) 2 (.r 4) 1, .stbind (.r 1) 2 1, .stunbd (.r 1) 1, .stflsh (.r 1) 1,
        .stdrop (.r 1) 1, .sttch (.r 1) 1, .cflsh (.r 1) 2 1, .cinv (.r 1) 2 1, .cdisc (.r 1) 2 1],
      (scuOp (scu i 0)).mayPerform 0 .scu (scu i 0) = true) ∧
    (∀ i ∈ [Instr.vldq 0 mem0 0 1, .vldt (.r 1) mem0 0 1, .vgath 2 1 false 5 1 1, .vscat (.r 2) 1 false 5 1 1],
      (veOp (ve i 1)).mayPerform 0 .ve (ve i 1) = true) ∧
    (match (scuOp (scu (.acas2 (.r 2) 2 (.r 4) 1) 0)).readWrite 0 a 16 (fun _ => none) with | .ok _ => true | .error _ => false) = true ∧
    (match (veOp (ve (.vldt (.r 1) mem0 0 1) 0)).vldtFrom 0 (ve (.vldt (.r 1) mem0 0 1) 0) false (List.range 8) 0 with
      | .ok _ => true | .error _ => false) = true ∧
    isStash (laneAddr (ve (.vgath 2 1 false 5 1 1) 1) false (lowestLane 1)) = true ∧ (1 : W64).getLsbD (lowestLane 1) = true ∧
    (match (veOp (ve (.vscat (.r 2) 1 false 5 1 1) 1)).write 0 a 4 5 with | .ok u => u.banksFree | .error _ => false) = true := by
  decide +kernel

/-- A range of one row, which is bound, made scratch, flushed, dropped and touched; a range of none; a binding that is denied. -/
theorem test_witness_management :
    let s := scuOp { op (.stbind (.r 1) 2 1) with addr := 0, val := 0x10000 }
    let ok (x : Except MemErr State) : Bool := match x with | .ok _ => true | .error _ => false
    ok (s.bindRow 0 0 (bindLine 0 0) false false) = true ∧ ok (s.unbindRow 0 0) = true ∧ ok (s.flushRow 0 0) = true ∧
    ok (s.dropRow 0 0) = true ∧ ok (s.touchRow 0 0) = true ∧ s.bindDenied 0 0 0 1 = false ∧ s.bindDenied 0 (1 <<< 63) 0 1 = true ∧
    min (slice (0x10000 : Row) 16 14 : BitVec 14).toNat 8192 = 1 ∧ slice (0 : W64) 48 16 = 0#16 ∧ slice ((1 : W64) <<< 48) 48 16 ≠ 0#16 ∧
    (let t : State := { scuOp (op (.cflsh (.r 1) 2 1)) with cores := [(0, { Core.init with inst := 1, tlb := [tlb0] })] }
     ok (t.cleanSector 0 0) = true ∧ ok (t.invSector 0 0) = true ∧ ok (t.discardSector 0 0 0 32) = true) := by decide +kernel

/-- The image of an exact register whose rows can be read, one of which is tagged, and one outside the stash (R154). -/
theorem test_witness_images :
    let s := on .ve
    let t := (oneCore { Core.init with ve := runs, rows := [(2, { StashRow.init with owner := 1, region := 5 })] }).at_ 0 .ve
    s.ready { tok := some 1, ld := true } = true ∧ s.ready { tok := some 1, st := true } = true ∧
    (∀ n, n < 16 → s.rowTrap (imageAt (1 <<< 63) n) .read = none ∧ s.rowTrap (imageAt (1 <<< 63) n) .write = none) ∧
    (∀ k, k < 2 → t.rowTrap (imageAt (1 <<< 63) k) .read = none) ∧
    ((t.rowTrap (imageAt (1 <<< 63) 2) .read).map (fun x => (x.toOption).map (fun f => f.1))) = some (some 0x13) ∧
    isStash (0 : W64) = false := by decide +kernel

/-! ## The copy engine and collectives -/

/-- A slice of granule 0 for function 1. -/
def tiled : Slice := { Slice.init with granules := 1, vf := 1, stag := 1, pkgmap := [(0, 1 <<< 63)] }

/-- A copy of 64 bytes from row 0 of the stash to row 16. -/
def dsc : Desc :=
  (1#512 <<< 63) ||| (1#512 <<< 127) ||| (0x1000#512 <<< 64) ||| (64#512 <<< 192) ||| (1#512 <<< 224) ||| (1#512 <<< 240)

def copyJob : Job := Job.fresh 1 .copy dsc

def chOp (i : Instr) (j : Job) (prog : Nat) : State :=
  oneCore { Core.init with ce := withOps runs (op i), chans := [(0, { Channel.init with jobs := [j], prog := prog })] }

/-- A descriptor at issue: row 0 of the stash holds it; and PPUT's addresses. -/
theorem test_witness_descriptor_issue :
    let s := (oneCore { Core.init with
      ce := { runs with areg := [(0, 1 <<< 63)] }, rows := [(0, { StashRow.init with owner := 1, data := dsc.setWidth 2048 })] }).at_ 0 .ce
    isStash (s.ctx.ea mem0 64) = true ∧
    (match s.stashPacket 0 (s.ctx.ea mem0 64) with | .ok (d, _) => decide (d = dsc) && !Desc.bad d | .error _ => false) = true ∧
    s.ready { tok := some 1 } = true ∧ (s.cur.chan 0).jobs.length < 32 ∧ slice (s.ctx.ar 1) 29 3 = 0#3 ∧ isStash (s.ctx.ar 0) = true := by decide +kernel

theorem test_witness_copy_events :
    let s := chOp (.cpy 0 mem0 1) copyJob 0
    let t := chOp (.cpy 0 mem0 1) copyJob 64
    let u := oneCore { Core.init with
      ce := withOps runs (op (.cpyt 0 mem0 1)), caddy := [{ chan := 0, time := 0, job := copyJob }] }
    s.movingJob 0 0 = some copyJob ∧ copyJob.kind = .copy ∧ copyJob.cancelled = false ∧ copyJob.landedAll 0 = false ∧
    s.emptyFlag 0 copyJob = none ∧
    s.homeDenied 0 copyJob = false ∧ s.grantDenied 0 copyJob = false ∧ ((s.core 0).chan 0).jobs.head? = some copyJob ∧
    (match s.landRun 0 0 copyJob none with | .ok _ => true | .error _ => false) = true ∧
    t.movingJob 0 0 = some copyJob ∧ copyJob.landedAll ((t.core 0).chan 0).prog = true ∧ t.homeDenied 0 copyJob = false ∧
    (u.dueTimed 0).isSome = true := by decide +kernel

/-- Timed copies at the times 1 and 3 stand in order. -/
theorem test_witness_caddy :
    [({ chan := 0, time := 1, job := copyJob } : Timed), { chan := 0, time := 3, job := copyJob }].Pairwise
      (fun a b : Timed => a.time.toNat ≤ b.time.toNat) := by decide +kernel

def grp0 : Group :=
  { bound := true, gid := 1, n := 1, rank := 0, mtab := 0, table := [0], seq := 0 }

/-- One element of i32, from row 0 of the stash to row 16. -/
def cdesc : Desc := (1#512 <<< 63) ||| (1#512 <<< 127) ||| (0x1000#512 <<< 64) ||| (1#512 <<< 128) ||| (5#512 <<< 160)

def cjob (k : CollKind) (land ans : List Nat) : Job :=
  { Job.fresh 1 (.coll k) cdesc with grp := grp0, src := some (List.replicate 8 { b := 0, region := 0 }), answered := ans, landed := land }

def hd (k : CollKind) : Contribution := (cjob k [] []).header k 0 0 1
def con (k : CollKind) : Contribution := { hd k with dest := 0, bytes := List.replicate 8 0, regions := List.replicate 8 0 }

def xop0 (k : CollKind) : XOp :=
  { XOp.blank 1 0 1 0 with own := some (hd k), contribs := [con k] }

def sColl (k : CollKind) (i : Instr) (land ans : List Nat) : State :=
  { oneCore { Core.init with
      ce := withOps runs (op i), groups := [(0, grp0)], chans := [(0, { Channel.init with jobs := [cjob k land ans] })] } with
    xops := [xop0 k], slices := [(0, tiled)] }

theorem test_witness_collective_issue :
    (on .ce).ready { tok := some 1, cond := if (on .ce).cur.slotBusy 0 then some .order else none } = true ∧
    cdesc.collBad .cag grp0 = false ∧ cdesc.collBad .car grp0 = false ∧
    (on .ce).blockTagged (cdesc.blockAt .car) = false := by decide +kernel

theorem test_witness_collective_events :
    let s := sColl .cag (.cag 0 mem0 1) [] [0]
    let d := sColl .cag (.cag 0 mem0 1) [0] [0]
    let far : Contribution := { con .car with pkg := 1, dest := 8 }
    far.dest.toNat / 256 = (0 : BitVec 3).toNat ∧ far.code = 0 ∧ far.pkg ≠ s.pkg ∧ s.ctxAt 8 1 1 0 = none ∧ s.ctxAt 5 1 1 0 = some 0 ∧
    s.ctxAt 0 1 1 0 = some 1 ∧ (s.xop 1 0 1 0).any (fun x => x.contribs.contains { far with dest := 0 }) = false ∧
    ((sColl .car (.car 0 mem0 1) [] []).xops.find? (fun x =>
      decide (x.core / 256 = 0 ∧ x.gid = 1 ∧ x.seq = 0) && x.reducible 0)).isSome = true ∧
    s.collJob 0 0 = some (cjob .cag [] [0], hd .cag) ∧ 0 < (s.core 0).left 0 ∧ s.heldRefusal 0 (cjob .cag [] [0]) (hd .cag) = none ∧
    s.nextAnswer 0 (cjob .cag [] [0]) (hd .cag) = none ∧
    s.nextItem 0 (cjob .cag [] [0]) (hd .cag) = some (xop0 .cag, 0) ∧
    (match s.landItem 0 0 (cjob .cag [] [0]) (hd .cag) (xop0 .cag) 0 with | .ok u => u.banksFree | .error _ => false) = true ∧
    d.collJob 0 0 = some (cjob .cag [0] [0], hd .cag) ∧ d.collDone 0 (cjob .cag [0] [0]) (hd .cag) = true ∧
    (match d.writeBlock 0 (cjob .cag [0] [0]) .cag (d.ownPlan 0 (cjob .cag [0] [0]) (hd .cag)) ((cjob .cag [0] [0]).stat ||| d.ownStat 0 (hd .cag)) with
      | .ok _ => true | .error _ => false) = true := by decide +kernel

/-! ## The matrix engine -/

def cl0 : Cluster := { Cluster.init with holder := some 0, rem := 1, since := 0 }

def mxCmd (i : Instr) (cs : Tbl Cluster) : State :=
  { oneCore { Core.init with mx := withOps runs (op i), mxs := { MxState.init with cmds := [Cmd.of i 1], standing := 4 } } with
    clusters := cs }

theorem test_witness_lease :
    (mxCmd (.mzero false 1) []).nextHolder 0 = some 0 ∧ ((mxCmd (.mzero false 1) []).cluster 0).holder = none ∧
    (mxCmd (.mzero false 1) []).asks (coreAt 0 0) = true ∧
    (mxCmd (.mzero false 1) [(0, { cl0 with holder := some 1, idle := 300 })]).idleOut 0 = true ∧ cl0.rem ≤ 1 ∧
    (mxCmd (.mzero false 1) [(0, { cl0 with rem := 2 })]).beginsNow 0 = true ∧
    ((mxCmd (.mzero false 1) [(0, cl0)]).core 0).mxs.cmds.head? = some (Cmd.of (.mzero false 1) 1) := by decide +kernel

def rowsOp (i : Instr) (st : OpStatus) (rows : List Row) : PendOp := { op i with status := st, rows := rows }

theorem test_witness_matrix_events :
    let t : PendOp := { op (.mlda 1 0 mem0 1) with ld := true, addr := 1 <<< 63, status := .busy 5 }
    let z := rowsOp (.mzero false 1) (.busy 5) []
    let m := op (.mstat 1 false 1)
    let q := oneCore { Core.init with
      mx := withOps runs (rowsOp (.mrdx false 0 1) (.busy 5) [0])
      queues := [(0, { Queue.init with row := true, en := true, prod := .mx, cons := .ve })] }
    (mxOp t).tileReady 0 t = false ∧ (mxOp t).tileLands 0 t = true ∧
    ((mxCmd (.meps 1 true false mem0 1) [(0, cl0)]).forms 0).isSome = true ∧
    (mxCmd (.mlease 4) []).beginsNow 0 = true ∧ (mxCmd .mfree [(0, cl0)]).beginsNow 0 = true ∧
    (mxCmd (.mzero false 1) [(0, cl0)]).beginsNow 0 = true ∧ (Instr.mzero false 1).isArray = true ∧
    (q.mrdxDue 0).isSome = true ∧ ((mxOp z).core 0).mstatDue z = false ∧ (mxOp z).commandDone 0 z = true ∧
    ((mxCmd m.instr []).core 0).mstatDue m = true := by decide +kernel

/-! ## The fabric -/

def sRem (o : PendOp) : State := { scuOp o with slices := [(0, tiled)] }

theorem test_witness_links :
    let s : State := { State.reset with
      links := [(8, { Link.init with trained := true, keyed := true, cw := { Way.init with protected_ := true } })], gtime := 20000000 }
    s.linkUp 1 0 = true ∧ (s.link 1 0).keyed = true ∧ s.mayLeave 1 0 true = true ∧ s.dev.svc ≠ 3 ∧
    slice (0xFF : BitVec 16) 8 8 = 0#8 ∧ 1 ≤ (slice (0x100 : BitVec 16) 8 8).toNat ∧
    (Way.init.hold [2, 2, 1, 2, 2, 2] 0).protected_ = true ∧ (Way.init.hold [2, 2, 2, 2, 2, 2] 0).protected_ = false := by decide +kernel

/-- A message of two slots that has left is refused at its second: it is named by its endpoint, channel and sequence number (R305). -/
theorem test_witness_refused :
    let m : Msg := { Msg.make State.reset 1 3 4 1 0x100000 (.reply (nackReply 0) 0) 2 with seq := 7 }
    ({ State.reset with sent := [m] } : State).refused 4 1 8 = some (m, 1) := by decide +kernel

/-- The reply to `o` is held: its code is 0. -/
theorem test_witness_remote_events :
    let o : PendOp := { op (.rld .n64 (.r 1) 2 1) with status := .departed, pkg := some 0 }
    let s := sRem o
    let r := replyRows { code := 0, value := 0, status := 0, pkt := 0 }
    let held (i : Instr) : PendOp := { op i with status := .departed, rows := r }
    (s.inFlight 0 1).isSome = true ∧ s.staysHere o = true ∧ o.mask = 0 ∧ s.stillHere 0 (.op .scu 1) = false ∧
    s.headHeld (s.ownTarget 0) (o.reqIn (.read .n64)) = false ∧
    (match s.serve (s.ownTarget 0) (o.reqIn (.read .n64)) none with
      | .reply q t => (t.holdReply 0 1 q).banksFree | .away _ => false | .gone _ => false) = true ∧
    (∀ i ∈ [Instr.rld .n64 (.r 1) 2 1, .rst .n64 (.r 1) 2 1, .ratm .add (.r 1) 2 (.r 2) 1],
      ((sRem (held i)).core 0).parked .scu = false ∧ ((sRem (held i)).instOf 0).status = .running ∧
      (match (sRem (held i)).replyFor 0 (held i) (.read .n64) none with
        | some (.reply q _) => decide (q.code = 0) | _ => false) = true) := by decide +kernel

/-- A context that moved, with an operation that waits for its reply; one that was restored here ten milliseconds ago. -/
theorem test_witness_late_replies :
    let o : PendOp := { op (.rld .n64 (.r 1) 2 1) with status := .departed }
    let s : State := { State.reset with
      insts := [(1, { Inst.init with status := .moved 0 5 })]
      saved := [(1, { Saved.init with cores := [(0, { Core.init with scu := withOps runs o })] })] }
    let l : State := { scuOp o with insts := [(1, { Inst.init with migr := 1 })], gtime := 10000000 }
    s.forwards 0 1 = some (1, 5, 0, .scu) ∧ o.first = 0 ∧ l.lateHere 0 = true ∧ (l.inFlight 0 1).isSome = true := by decide +kernel

/-! ## The front end -/

def launch0 : Launch := { seq := 0, regs := [(5, 0x100)], s1root := 0, s2root := 0, vector := 0, gang := none, commit := 0, stage := .committed }

/-- One queue of function 1, bound to slot 0, with a launch at its head. -/
def fe (l : Launch) : State :=
  { State.reset with
    queues := [(64, { CmdQueue.init with bound := true, en := true, launches := [l], guest := 4 <<< 64, tail := 1 })]
    slices := [(0, tiled)], slots := [(0, 1)], dev := { State.reset.dev with dies := 1, qver := [(1, 0x0100)] } }

theorem test_witness_front_end :
    let b (l : Launch) (st : LaunchStage) : Launch := { l with stage := st }
    let busy : State := { fe (b launch0 (.checked 0 false)) with
      cores := [(0, { Core.init with inst := 1 })], gtime := 10000, insts := [(1, { Inst.init with regs := [(25, 0)], vf := 2 })]
      queues := [(64, { CmdQueue.init with bound := true, launches := [{ launch0 with stage := .checked 0 false, regs := [(5, 0x100), (25, 3)] }], prioceil := 5 })]
      slots := [(0, 1 ||| (5 <<< 55))] }
    isVf 1 = true ∧ ((fe launch0).cq 1 0).bound = true ∧ (fe launch0).agreed 1 ≠ 0 ∧
    ((fe launch0).packet 1 0).isSome = true ∧ ((fe launch0).dispatches 1 0).isSome = true ∧
    ((fe (b launch0 (.checked 0 false))).startable 1 0).isSome = true ∧ (busy.blocked 1 0).isSome = true ∧
    (State.reset.cq 1 0).en = false := by decide +kernel

/-- A gang of one part whose cores are free, and one whose second part has not come. -/
theorem test_witness_gangs :
    let l : Launch := { launch0 with gang := some (7, 0), stage := .checked 0 false }
    let s : State := { fe l with gangs := [(7, { Gang.init with parts := 0, arrived := [(1, 0, 0)] })] }
    let t : State := { fe l with gangs := [(7, { Gang.init with parts := 1, arrived := [(1, 0, 0)] })], gtime := 10000000 }
    s.gangReady 7 = true ∧ t.gangLate 7 = true := by decide +kernel

theorem test_witness_instances :
    let s (i : Inst) (t : W64) : State := { State.reset with insts := [(1, i)], gtime := t }
    (s { Inst.init with status := .ending 0 } 0).endDue 1 = some 0 ∧ (s Inst.init 0).isLive 1 = true ∧
    (s { Inst.init with regs := [(26, 1)] } 5).deadlineDue 1 = true := by decide +kernel

/-- Packets of the three kinds at the head of a ring: LAUNCH, UPDATE and GANG, the second with a sequence number of its own. -/
theorem test_witness_packets :
    let s (m : Tbl Byte) : State := { fe launch0 with hostMem := m }
    (((s []).packet 1 0).map (fun p => p.kind)) = some 0 ∧ (((s [(4, 1)]).packet 1 0).map (fun p => p.kind)) = some 1 ∧
    (((s [(4, 2)]).packet 1 0).map (fun p => p.kind)) = some 2 ∧
    (((s [(8, 1)]).packet 1 0).map (fun p => p.seq)) = some 1 ∧ ((fe launch0).cq 1 0).seqc = 0 ∧
    (((s []).packet 1 0).map (fun (p : Packet) => p.dma)) = some false ∧
    ((({ s [] with dev := { (s []).dev with dmaErr := [(2 ^ 52, true)] } } : State).packet 1 0).map (fun (p : Packet) => p.dma)) = some true := by
  decide +kernel

/-! ## Paging, the slice manager, the device -/

def req0 : PageReq :=
  { vf := 1, seq := 0, rec_ := 0, written := false, reply := none, die := 0, slice := 0, s1root := 0, page := 0, path := [] }

theorem test_witness_paging :
    let s (w : Bool) (i : List Inval) : State :=
      { State.reset with reqs := [(1, { req0 with written := w })], prq := [(1, { PrqBlock.init with ctl := 0x104, invals := i })] }
    ((s false []).nextRecord 1).isSome = true ∧
    ringRoom ((s false []).prqOf 1).ctl ((s false []).prqOf 1).tail ((s false []).prqOf 1).head = true ∧
    ((s true []).outstanding 1 0).isSome = true ∧ slice (0 : W64) 32 32 = 0#32 ∧
    ((s true []).outstanding 1 (1 <<< 32)).isSome = true ∧ slice ((1 : W64) <<< 32) 32 32 = 1#32 ∧
    (s true []).outstanding 1 1 = none ∧ slice (1 : W64) 32 32 = 0#32 ∧
    (s true []).outstanding 1 ((1 <<< 32) + 1) = none ∧ slice (((1 : W64) <<< 32) + 1) 32 32 = 1#32 ∧
    ((s true [{ stage2 := false, whole := false, addr := 0, len := 0 }]).prqOf 1).invals ≠ [] ∧
    locExists (.hbm 0) = true ∧ locExists (.stash 2047 8191 7) = true := by decide +kernel

def spec0 : SliceSpec :=
  { granules := 1, vf := 1, stag := 1, keys := [1], regions := [1], trapv := 0, s2root := 0,
    weights := List.replicate 24 1 }

def msg0 : MeterMsg :=
  { version := 0x0100, slice := 0, region := 1, devid := Config.deviceId + 1, licid := 0, gen := 0, count := 5, rseq := 0, bound := 0, prev := 0
    digest := 0, verified := true, allow := [] }

theorem test_witness_preemption :
    let s (st : InstState) : State :=
      { State.reset with insts := [(1, { Inst.init with status := st })], slices := [(0, tiled)] }
    (s .running).isRunning 1 = true ∧ (s (.stopping false none)).canFreeze 1 = true ∧
    (s (.stopping true none)).halted 1 = some true ∧ (s (.stopping true none)).shadowFree 1 = true ∧
    (s (.saved true)).restorable 1 0 0 = true ∧ (s (.saved true)).dev.running = false ∧
    ((s .running).slices.get Slice.init (0 : BitVec 5).toNat).granules ≠ 0 ∧ (1 : BitVec 21) ≠ (s .running).pkg ∧
    1 ≤ (slice (0x100 : BitVec 16) 8 8).toNat ∧ slice (0xFF : BitVec 16) 8 8 = 0#8 ∧
    State.reset.sliceFits 1 spec0 = true ∧ State.reset.managed = true ∧ State.reset.sessionLink 1 = false ∧
    (let l : State := { s .running with links := [(8, { Link.init with trained := true, keyed := true })] }
     l.sessionLink (0x10 : BitVec 21) = true ∧ l.sessionLink l.pkg = true ∧ l.managed = true) := by decide +kernel

/-- AUTO's deadline passes while the array still works for a core; a saved context stands in its cluster's shadow. -/
theorem test_witness_auto_and_shadow :
    let s : State := { mxOp (rowsOp (.mzero false 1) (.busy 5) []) with
      clusters := [(0, { cl0 with shadow := 2 })]
      insts := [(1, { Inst.init with status := .stopping false (some 5) }), (2, { Inst.init with status := .saved true })], gtime := 9 }
    s.autoDue 1 = true ∧ (s.insts.get Inst.init (s.cluster 0).shadow).status = .saved true ∧ (s.cluster 0).shadow ≠ 0 := by
  decide +kernel

theorem test_witness_meter :
    let s : State := { State.reset with
      slices := [(1, { Slice.init with regions := [1] })], regions := [(1, { Region.init with opened := true })], gtime := 10000000 }
    s.recordDue 1 = true ∧ meterOpens msg0 = true ∧ s.carries msg0 = true ∧
    (s.regions.get Region.init (1 : BitVec 12).toNat).opened = true := by decide +kernel

/-- A record of another module: its device identity is not this one's, whatever that is. -/
theorem test_witness_migrate_in :
    ({ State.reset with regions := [(1, { Region.init with awaited := [0] })] } : State).meterArrives msg0 = true := by
  simp [State.meterArrives, msg0, Tbl.get]

def tamper0 : TamperRec := { gtime := 0, vf := 1, queue := 0, mask := 1, pval := 0, gval := 0, count := 1 }

theorem test_witness_device :
    let s (d : Device) : State := { State.reset with dev := d }
    let d := { State.reset.dev with responder := true }
    (s d).dev.svc = 0 ∧ (s d).dev.responder = true ∧ (s d).dev.handover = false ∧ (s { d with svc := 1 }).dev.svc = 1 ∧
    2025 ≤ (s { d with svc := 2, clock := 2025 }).dev.clock.toNat ∧ (s { d with svc := 2, clock := 3375 }).dev.clock.toNat ≤ 3375 ∧
    (s { d with handover := true }).dev.handover = true ∧ d.ckptDue = false ∧ (1 : W64).getLsbD 0 = true ∧
    (s { d with running := true }).dev.running = true ∧ (s { d with running := true }).allParked = true ∧
    (s { d with events := [tamper0] }).dev.events = tamper0 :: [] ∧
    ringRoom (s { d with evctl := 0x104 }).dev.evctl 0 0 = true ∧ (DevReg.function (.prqbase 1)).all isVf = true := by decide +kernel

/-! ## Further clauses -/

/-- A halting engine with nothing in flight is the next step that the hardware takes by itself. -/
theorem test_witness_step_by_itself :
    let s := oneCore { Core.init with scu := { runs with run := .halting } }
    s.agenda = [] ∧ s.turn = [] ∧ s.nextAuto.isSome = true := by decide +kernel

/-- A transfer whose target line another engine holds, one at a target that is no point, and a CALL at the end of its chain. -/
theorem test_witness_transfer_faults :
    let s := on .scu
    let z := ((oneCore { Core.init with scu := runs }).cache 0 0 ((oneLine .scu 0x98100000 0) ||| (1 <<< 31))).at_ 0 .scu
    ((on .ve).pointFault 0 .ve 1).map (fun f => f.map (fun x => x.1)) = some (some 5) ∧
    (s.pointFault 0 .scu 0x11).map (fun f => f.map (fun x => x.1)) = some (some 4) ∧
    s.cached s.focus s.ctx.pt = some (oneLine .scu 0x98100000 0) ∧ z.eng = .scu ∧
    (on .scu).ready { act := (on .scu).cur.guardP .always } = true := by decide +kernel

/-- Where an ERET resumes: as it stands, a notice, a new point that meets no fault and one that does. -/
theorem test_witness_eret :
    let s (r : TrapRec) := ((oneCore { Core.init with
      scu := runs, trapv := 1, g := [(1, 1), (2, 0x11)], hand := some { hand with rec_ := r } }).cache 0 0 (oneLine .scu 0x98100000 0)).at_ 0 .scu
    (s rec0).ready ((s rec0).needsEret (.r 1) true) = true ∧ (s rec0).resumeOf rec0 false none = some .stay ∧
    ((s rec0).resumeOf { rec0 with entry := true } true none) = some .halted ∧
    ((s rec0).resumeOf rec0 true none).isSome = true ∧
    ({ rec0 with kind := 3 } : TrapRec).kind = 3 ∧
    (popped (s { rec0 with kind := 3 }) (.r 1)).resumeOf { rec0 with kind := 3 } false none = some .stay ∧ rec0.kind ≠ 3 ∧
    (s rec0).pointFault 0 .scu ((s rec0).cur.readG (.r 1)).1 = some none ∧
    ((s rec0).pointFault 0 .scu ((s rec0).cur.readG (.r 2)).1).any (fun f => f.isSome) = true := by decide +kernel

/-- A handler point that is 0 when the trap is taken up. -/
theorem test_witness_lost_handler :
    let s := oneCore { Core.init with scu := runs, trapv := 0, pend := [rec0] }
    s.canEnterHandler 0 = true ∧ (s.core 0).pend = rec0 :: [] ∧ (s.core 0).trapv = 0 := by decide +kernel

/-- A step whose claim meets a taken bank; a full channel; heads of virtual channels that have waited and that have not. -/
theorem test_witness_service :
    let t : State := { oneCore { Core.init with banks := [(3, 1001)] } with claims := [(0, 3, 0)] }
    let m (vc : BitVec 3) (since : Nat) : Msg := { Msg.make State.reset 1 0 0 vc 1 (.reply (nackReply 0) 0) 1 with since := since }
    t.banksFree = false ∧ byAge [(2, 0, 0, Claimant.chan 1), (1, 4, 0, .chan 2), (1, 0, 5, .chan 3)] = [(1, 0, 5, .chan 3), (1, 4, 0, .chan 2), (2, 0, 0, .chan 1)] ∧
    pickVc 5 [m 0 5, m 1 5] = some 1 ∧ pickVc 5000 [m 0 0, m 1 5000] = some 0 ∧ pickVc 5000 [m 0 0, m 5 5000] = some 5 := by
  decide +kernel

/-- Five loads whose values arrive in one cycle beside no other result: four land, and the fifth waits (R85). -/
theorem test_write_slots :
    let r (n : Nat) : Return := { num := n, last := true, effs := [.g 1 5], flags := 0, due := 0 }
    let p := pickReturns .scu 9 [] [r 1, r 2, r 3, r 4, r 5]
    p.1.length = 4 ∧ p.2.map (fun x => x.num) = [5] ∧ slotsTaken .scu .gpa ((p.1.map Return.writes).flatten) = 4 := by decide +kernel

/-- R208's example: two arrivals, 1,024 bytes in two halves, the first of them early; and its overrun. -/
theorem test_barrier_phases :
    let b0 := (Bar.init 2).bar
    let b1 := ((b0.credit 512).map (fun x => x.1)).getD b0
    let b2 := (b1.arrive 1024).bar
    let b3 := (b2.arrive 0).bar
    b0 = { Bar.zero with expect := 2, pend := 2, status := 1 } ∧ b1 = { b0 with count := -512 } ∧
    b2 = { b0 with count := 512, pend := 1 } ∧ b3 = { b0 with count := 512, pend := 0 } ∧
    b3.credit 512 = some ({ b0 with gen := 1, phase := true }, false) ∧
    b3.credit 768 = some ({ b3 with count := -256, status := 2 }, true) := by decide +kernel

/-- Objects at the boundary values of the clauses on arrivals and credits. -/
theorem test_witness_barrier_clauses :
    let b : Bar := { Bar.zero with expect := 2, pend := 1, status := 1 }
    (Bar.zero.status ≠ 1) ∧ b.status = 1 ∧ b.pend = 1 ∧ (b.arrive 0).bar.gen = 1 ∧ (b.arrive 0).bar.pend = 2 ∧
    (b.arrive (-1)).bar.status = 2 ∧ (b.arrive 1).bar = { b with count := 1, pend := 0 } ∧
    ({ b with count := 2 ^ 31 - 1 } : Bar).arrive 1 = { bar := { b with count := 2 ^ 31 - 1, status := 2 }, abort := true, trap := some 1, result := 0 } ∧
    ({ b with pend := 0, count := 1 } : Bar).arrive 0 = { bar := { b with pend := 0, count := 1, status := 2 }, abort := true, trap := some 1, result := 0 } ∧
    (b.credit (2 ^ 31)).isSome = true ∧ b.credit (2 ^ 31 + 1) = some ({ b with status := 2 }, true) := by decide +kernel

/-- A barrier operation performs on an object of its own stash whose bank is free. -/
theorem test_witness_barrier_operations :
    let s (i : Instr) := oneCore { Core.init with scu := withOps runs { op i with addr := 1 <<< 63 }, rows := [(0, bar0)] }
    ∀ i ∈ [Instr.binit (.g (.r 1)) 2 0 1, .barr (.g (.r 1)) 2 0 1, .binv (.g (.r 1)) 2 0 1, .btry (.g (.r 1)) 2 0 1, .bwait (.g (.r 1)) 2 0 1],
      let t := s i
      t.mayPerform 0 .scu { op i with addr := 1 <<< 63 } = true ∧ t.barHome 0 0 = some 0 ∧
      (match t.readBar 0 (1 <<< 63) .rw with | .ok (b, u) => decide (b.status = 1) && u.banksFree | .error _ => false) = true := by
  decide +kernel

/-- A row store with no byte enabled, a swizzled one, and a row load, each where the banks are free. -/
theorem test_witness_row_accesses :
    let n := { op (.vstm (.r 1) mem0 1 1) with addr := 1 <<< 63, st := true }
    let z := { op (.vst (.r 1) { mem0 with mode := .swz } 1) with addr := (1 <<< 63) + 0x400, st := true, mask := 1 }
    let l := { op (.vld (.r 1) mem0 1) with addr := 1 <<< 63, ld := true }
    (veOp n).mayPerform 0 .ve n = true ∧ n.mask = 0 ∧ (veOp n).claims = [] ∧ (veOp z).mayPerform 0 .ve z = true ∧ z.mask ≠ 0 ∧
    (match (veOp z).touchPlain 0 (stashRow z.addr) .write with | .ok u => u.banksFree | .error _ => false) = true ∧
    (veOp l).mayPerform 0 .ve l = true ∧
    (match (veOp l).readRow 0 l.addr 0xFF with | .ok (_, u) => u.banksFree | .error _ => false) = true := by decide +kernel

/-- Slots that come to a keyed link: a set-up slot, one whose tag is not admitted, one for this package; and an unknown request. -/
theorem test_witness_slots :
    let s : State := { State.reset with
      links := [(8, { Link.init with trained := true, keyed := true, tags := [0x100000] })], slices := [(0, { tiled with stag := 0x100000 })] }
    let x : Slot := { (State.reset.nextSlot (Msg.make State.reset 0 0 0 0 0x100000 (.reply (nackReply 0) 0) 1)) with kind := 1 }
    s.linkUp 1 0 = true ∧ (s.link 1 0).keyed = true ∧ x.vc.toNat < 6 ∧ x.kind ≠ 0xF ∧ x.dpkg = s.pkg ∧
    s.turnsAway 1 0 x = false ∧ s.turnsAway 1 0 { x with stag := 0x100001 } = true ∧
    (let u : State := { s with links := [(8, { Link.init with trained := true })] }
     u.linkUp 1 0 = true ∧ (u.link 1 0).keyed = false ∧ ({ x with kind := 0xF, vc := 4 } : Slot).dpkg = u.pkg) := by decide +kernel

/-- A slice that arrives for one of its tag and size; a BAR 0 offset where no register stands, and one of a queue's registers. -/
theorem test_witness_arrival_and_bar0 :
    let m : Migrant :=
      { slice := 3, to_ := 0, stag := 1, insts := [], reqs := [], next := 0, xops := [], granules := [0], cells := [], scrubs := [], poison := [] }
    let s : State := { State.reset with slices := [(0, tiled)], inbound := [m] }
    s.arriving 0 = some m ∧ (s.slices.get Slice.init 0).granules ≠ 0 ∧ barReg 0 0x100 = none ∧ barReg 1 4 = none ∧
    barReg 1 0xFF8 = some (.queue 1 63 7) ∧ barReg 0 0x10F80 = some (.prq 32 0) ∧ 2 ≤ (slice ((2 : W64) <<< 32) 32 32).toNat := by
  decide +kernel

/-! ## Values -/

/-- Operands in the ranges that the clauses on values speak of: MAJOR-2 codes, shift counts, elements, exact sums. -/
theorem test_witness_values :
    3 ≤ (3 : BitVec 6).toNat ∧ 64 ≤ (64 : BitVec 10).toNat ∧ 64 ≤ (1023 : BitVec 10).toNat ∧ (1 : W64) ≠ 0 ∧
    (0 : BMask).getLsbD 0 = false ∧ (1 : BMask).getLsbD 0 = true ∧
    -(2 ^ 447) ≤ (XLane.init.int + 5) ∧ (XLane.init.int + 5) < 2 ^ 447 ∧ ((2 : Int) ^ 447) ≤ XLane.init.int + 2 ^ 447 ∧
    XLane.init.int + -(2 ^ 447 + 1) < -(2 ^ 447) := by decide +kernel

/-- R106's corners: a quotient of −1 and the dividend for a divisor of 0, and the most negative number divided by −1. -/
theorem test_division_corners :
    divW 7 0 = BitVec.allOnes 64 ∧ remW 7 0 = 7 ∧ divW (1 <<< 63) (-1) = 1 <<< 63 ∧ remW (1 <<< 63) (-1) = 0 ∧
    divW (-7) 2 = -3 ∧ remW (-7) 2 = -1 := by decide +kernel

/-- A Morton key of two words interleaves their bits, the first word's at the even places (R155). -/
theorem test_morton : keyOf .m2 5 0 0 = 17 ∧ keyOf .m2 0 5 0 = 34 ∧ keyOf .m3 1 1 1 = 7 := by decide +kernel

/-- 1 + 1 is 2 in f16, and 1 / 10 rounds to 0x3DCCCCCD in f32 (R67). -/
theorem test_rounding :
    (roundTo .f16 .rne ((FTy.f16.spec.decode 0x3C00).add .rne (FTy.f16.spec.decode 0x3C00))).1 = 0x4000 ∧
    (roundTo .f32 .rne ((FTy.f32.spec.decode 0x3F800000).div (FTy.f32.spec.decode 0x41200000))).1 = 0x3DCCCCCD := by
  decide +kernel

/-- A flag saturates at 65,535 (R99). -/
theorem test_flag_saturates :
    ((Core.init.addFlag 3 65535).addFlag 3 2).flag 3 = 65535 ∧ ((Core.init.addFlag 3 65535).addFlag 3 2).fovf = 8 := by
  decide +kernel

/-- MOVI g1, −1, placed by withFetchWord: one step issues it, and −1 is on its way to g1. -/
theorem test_step_movi :
    (match step (State.reset.withFetchWord 32 0x981FFFF0) with
      | .next t => decide ((t.core 0).scu.land = [{ eff := .g 1 (BitVec.allOnes 64), flags := 0, rem := 1, stamp := 0 }])
      | .fault _ => false
      | .refused _ => false) = true := by decide +kernel
/-! ## The save format (R394, R397, R398) -/

/-- A product of ones by ones in INT8 that began in cycle 0, with both tiles in the edge buffers. -/
def flight0 : Flight :=
  { cmd := Cmd.of (.mmul .i8 false false false true 1) 1, start := 0, before := []
    a := { Tile.init with bytes := BitVec.ofNat 65536 ((2 ^ 16384 - 1) / 255) }
    b := { Tile.init with bytes := BitVec.ofNat 65536 ((2 ^ 32768 - 1) / 255) } }

/-- The example of R394: 100 cycles after its beginning PE (0, 0) has applied 32 beats, PE (40, 30) 30, PE (63, 127) none. -/
theorem test_frozen_beats : beatsBy 100 0 0 = 32 ∧ beatsBy 100 40 30 = 30 ∧ beatsBy 100 63 127 = 0 := by decide

/-- The accumulators of that example, in units of 2^-32. -/
theorem test_frozen_accumulator :
    let k : Core := { Core.init with mxs := { MxState.init with flights := [flight0] } }
    (k.frozenAcc 100 false 40 30).a = BitVec.ofNat 96 (30 * 2 ^ 32) ∧ (k.frozenAcc 100 false 63 127).a = 0 := by decide +kernel

/-- Header fields of R398: version 1.0, the context, the mode FREEZE with core 0 present, and one frozen product. -/
theorem test_header :
    let k : Core := { Core.init with inst := 7, mxs := { MxState.init with flights := [flight0] } }
    let s : State := { State.reset with
      insts := [(7, { Inst.init with status := .saved true })], clusters := [(0, { Cluster.init with shadow := 7 })]
      saved := [(7, { Saved.init with cores := [(0, k)], cycle := 100 })] }
    [0, 1, 2, 6, 7, 0x14D006].map (fun o => (s.shadowBytes 0).bind (fun f => f o)) =
      [some 0, some 1, some 7, some 12, some 1, some 100] := by decide +kernel

/-! ## Routes (R303) -/

/-- Bits 20:13 are corrected first; half-way round goes clockwise, one more position the other way; a package to itself takes no
ring. -/
theorem test_routes :
    nextRing 0 (0x10 : BitVec 21) = some (1, true) ∧ nextRing 0 (0x11 : BitVec 21) = some (1, false) ∧
    nextRing 0x00021 (0x02001 : BitVec 21) = some (3, true) ∧ nextRing 0x00021 (0x00001 : BitVec 21) = some (2, false) ∧
    nextRing 5 (5 : BitVec 21) = none := by decide

end Sys2Proof.Tests
end

section
/-!
PROOFS. The step's three sources (an event of the schedule, what the hardware does by itself, the end of a cycle), and what
the end of a cycle leaves of the package's time and memory.
-/

namespace Sys2Proof.Machine

/-! ## Time and memory -/

/-- What the model knows of time (R20; log 6) and what memory holds, host memory included: of the work at the end of a cycle
only GTIME's own advance changes any of it. -/
def State.timeAndMemory (s : State) : Nat × W64 × Nat × Int × Nat × List Host.Cell × List Host.Cell :=
  (s.cycle, s.gtime, s.gphase, s.slew, s.clockMhz, s.hbm, s.hostMem)

theorem timeAndMemory_eq_iff {s t : State} : t.timeAndMemory = s.timeAndMemory ↔
    t.cycle = s.cycle ∧ t.gtime = s.gtime ∧ t.gphase = s.gphase ∧ t.slew = s.slew ∧ t.clockMhz = s.clockMhz ∧
      t.hbm = s.hbm ∧ t.hostMem = s.hostMem := by
  simp [State.timeAndMemory]

theorem foldl_timeAndMemory {β : Type} (l : List β) (f : State → β → State)
    (hf : ∀ s b, (f s b).timeAndMemory = s.timeAndMemory) (s : State) :
    (l.foldl f s).timeAndMemory = s.timeAndMemory := by
  induction l generalizing s with
  | nil => rfl
  | cons b l ih => exact (ih (f s b)).trans (hf s b)

theorem State.holdReply_timeAndMemory (s : State) (c num : Nat) (r : ReplyData) :
    (s.holdReply c num r).timeAndMemory = s.timeAndMemory := rfl

theorem State.modChan_timeAndMemory (s : State) (c : Nat) (ch : BitVec 3) (f : Channel → Channel) :
    (s.modChan c ch f).timeAndMemory = s.timeAndMemory := rfl

/-! ## Traps and leases at the end of a cycle -/

theorem State.takeTrap_timeAndMemory (s : State) (c : Nat) (r : TrapRec) :
    (s.takeTrap c r).timeAndMemory = s.timeAndMemory := by
  unfold State.takeTrap
  dsimp only
  split <;> rfl

theorem State.cutOffs_timeAndMemory (s : State) (c : Nat) : (s.cutOffs c).timeAndMemory = s.timeAndMemory := by
  refine foldl_timeAndMemory _ _ (fun s e => ?_) s
  split
  · rfl
  · exact State.takeTrap_timeAndMemory _ _ _

theorem State.countIdle_timeAndMemory (s : State) (cl : Nat) : (s.countIdle cl).timeAndMemory = s.timeAndMemory := by
  unfold State.countIdle
  dsimp only
  split <;> rfl

theorem State.endTenure_timeAndMemory (s : State) (cl free : Nat) :
    (s.endTenure cl free).timeAndMemory = s.timeAndMemory := by
  unfold State.endTenure
  dsimp only
  split <;> rfl

theorem State.passLeases_timeAndMemory (s : State) : s.passLeases.timeAndMemory = s.timeAndMemory := by
  refine foldl_timeAndMemory _ _ (fun s cl => ?_) s
  have idle : (if s.idleOut cl then s.endTenure cl s.cycle else s).timeAndMemory = s.timeAndMemory := by
    split
    · exact s.endTenure_timeAndMemory cl s.cycle
    · rfl
  dsimp only
  split
  · exact idle
  · exact idle

/-! ## Samples of stall wires -/

theorem State.sampleWire_timeAndMemory (s : State) (ctx : Nat) : (s.sampleWire ctx).timeAndMemory = s.timeAndMemory := by
  unfold State.sampleWire
  dsimp only
  split <;> rfl

theorem State.sampleAll_timeAndMemory (s : State) : s.sampleAll.timeAndMemory = s.timeAndMemory := by
  refine foldl_timeAndMemory _ _ (fun s i => ?_) s
  split
  · exact foldl_timeAndMemory _ _ (fun t _ => t.sampleWire_timeAndMemory i.1) s
  · rfl

/-! ## Messages that a bridge station turns back -/

/-- A saved core that stands in its place for a change (R393) brings no other time or memory with it. -/
theorem State.atSaved_timeAndMemory {f : State → State} (hf : ∀ s, (f s).timeAndMemory = s.timeAndMemory)
    (s : State) (n c : Nat) : (s.atSaved n c f).timeAndMemory = s.timeAndMemory :=
  hf (s.setCore c (s.savedCore n c))

theorem State.giveReply_timeAndMemory (s : State) (c num : Nat) (r : ReplyData) :
    (s.giveReply c num r).timeAndMemory = s.timeAndMemory := by
  unfold State.giveReply State.keepReply
  split
  · rfl
  · split
    · exact State.atSaved_timeAndMemory (fun t => t.holdReply_timeAndMemory c num _) s _ c
    · rfl

theorem State.replyTo_timeAndMemory (s : State) (r : FarReq) (a : ReplyData) (region : BitVec 12) :
    (s.replyTo r a region).timeAndMemory = s.timeAndMemory := by
  unfold State.replyTo
  split
  · rfl
  · exact s.giveReply_timeAndMemory _ _ _

theorem State.keepCopy_timeAndMemory (s : State) (c : Nat) (ch : BitVec 3) (far : Option FarReply) :
    (s.keepCopy c ch far).timeAndMemory = s.timeAndMemory := by
  unfold State.keepCopy
  split
  · rfl
  · split
    · split <;> rfl
    · split
      · rfl
      · exact State.atSaved_timeAndMemory (fun t => t.modChan_timeAndMemory c ch _) s _ c

theorem State.modXop_timeAndMemory (s : State) (ctx core : Nat) (gid seq : BitVec 32) (f : XOp → XOp) :
    (s.modXop ctx core gid seq f).timeAndMemory = s.timeAndMemory := by
  unfold State.modXop
  split <;> rfl

theorem State.takeFar_timeAndMemory (s : State) (core : Nat) (c : BitVec 3) (f : Contribution) :
    (s.takeFar core c f).timeAndMemory = s.timeAndMemory := by
  unfold State.takeFar
  split
  · rfl
  · split
    · rfl
    · split
      · exact s.modXop_timeAndMemory _ _ _ _ _
      · rfl

theorem State.slotReply_timeAndMemory (s : State) (x : Slot) (sep : BitVec 12) (code : BitVec 8) :
    (s.slotReply x sep code).timeAndMemory = s.timeAndMemory := by
  unfold State.slotReply
  dsimp only
  split <;> rfl

theorem State.requestBack_timeAndMemory (s : State) (m : Msg) (q : FarReq) (code : BitVec 8) :
    (s.requestBack m q code).timeAndMemory = s.timeAndMemory := by
  unfold State.requestBack
  split
  · exact s.giveReply_timeAndMemory _ _ _
  · exact s.keepCopy_timeAndMemory _ _ _
  · rfl
  · rfl
  · split
    · exact s.replyTo_timeAndMemory _ _ _
    · split
      · exact s.giveReply_timeAndMemory _ _ _
      · split <;> rfl

theorem State.partTurned_timeAndMemory (s : State) (m : Msg) (k : Contribution) (code : BitVec 8) :
    (s.partTurned m k code).timeAndMemory = s.timeAndMemory := by
  unfold State.partTurned
  split
  · exact s.takeFar_timeAndMemory _ _ _
  · rfl

theorem State.turnBack_timeAndMemory (s : State) (m : Msg) (code : BitVec 8) :
    (s.turnBack m code).timeAndMemory = s.timeAndMemory := by
  unfold State.turnBack
  dsimp only
  split
  case h_1 q _ => exact State.requestBack_timeAndMemory _ m q code
  case h_2 => rfl
  case h_3 k _ => exact State.partTurned_timeAndMemory _ m k code
  case h_4 x _ => exact State.slotReply_timeAndMemory _ x _ code
  case h_5 => rfl

theorem State.turnBacks_timeAndMemory (s : State) : s.turnBacks.timeAndMemory = s.timeAndMemory := by
  refine foldl_timeAndMemory _ _ (fun s m => ?_) s
  split
  · rfl
  · exact s.turnBack_timeAndMemory m _

/-! ## The bridge ports -/

theorem State.inject_timeAndMemory (s : State) (lv : Nat) (die : BitVec 3) (cw : Bool) :
    (s.inject lv die cw).timeAndMemory = s.timeAndMemory := by
  unfold State.inject
  split
  · rfl
  · dsimp only
    split <;> rfl

theorem State.creditsBack_timeAndMemory (s : State) : s.creditsBack.timeAndMemory = s.timeAndMemory := by
  refine foldl_timeAndMemory _ _ (fun s p => ?_) s
  split <;> rfl

theorem State.injectAll_timeAndMemory (s : State) : s.injectAll.timeAndMemory = s.timeAndMemory := by
  refine (foldl_timeAndMemory _ _ (fun t p => ?_) _).trans ?_
  · exact t.inject_timeAndMemory p.1 p.2.1 p.2.2
  · exact State.creditsBack_timeAndMemory _

theorem State.ringTurn_timeAndMemory (s : State) : s.ringTurn.timeAndMemory = s.timeAndMemory := by
  unfold State.ringTurn
  split
  · rfl
  · exact s.turnBacks.injectAll_timeAndMemory.trans s.turnBacks_timeAndMemory

/-! ## The end of a cycle -/

/-- GTIME's advance touches neither the cycle's number nor memory. -/
theorem State.advanceTime_frame (s : State) (n : Nat) :
    (s.advanceTime n).cycle = s.cycle ∧ (s.advanceTime n).hbm = s.hbm ∧ (s.advanceTime n).hostMem = s.hostMem := by
  unfold State.advanceTime
  dsimp only
  split_ifs <;> exact ⟨rfl, rfl, rfl⟩

theorem State.tickTime_frame (s : State) :
    s.tickTime.cycle = s.cycle + 1 ∧ s.tickTime.hbm = s.hbm ∧ s.tickTime.hostMem = s.hostMem :=
  State.advanceTime_frame { s with cycle := s.cycle + 1, gphase := (s.gphase + 1000) % s.clockMhz }
    ((s.gphase + 1000) / s.clockMhz)

theorem State.tickTime_gtime {s : State} (h : s.slew = 0) :
    s.tickTime.gtime = s.gtime + BitVec.ofNat 64 ((s.gphase + 1000) / s.clockMhz) := by
  simp only [State.tickTime, State.advanceTime, h, if_true]

/-- The end of a cycle up to GTIME's advance: each core's own end, queues that no longer connect, and holders that idled. -/
def State.closeCycle (s : State) : State :=
  let t := { s with
    claims := [], barStage := 0
    cores := s.cores.foldl (fun (t : Tbl Core) (ck : Nat × Core) => t.set Core.init ck.1 (s.endCycle ck.1)) s.cores }
  let t := t.cores.foldl (fun (t : State) (ck : Nat × Core) => t.cutOffs ck.1) t
  t.clusters.foldl (fun (t : State) (x : Nat × Cluster) => t.countIdle x.1) t

theorem State.closeCycle_timeAndMemory (s : State) : s.closeCycle.timeAndMemory = s.timeAndMemory := by
  refine (foldl_timeAndMemory _ _ (fun t x => ?_) _).trans ((foldl_timeAndMemory _ _ (fun t ck => ?_) _).trans rfl)
  · exact t.countIdle_timeAndMemory x.1
  · exact t.cutOffs_timeAndMemory ck.1

/-- The next cycle begins: what its groups may read as it stood, its issue slots, and the releases that are due. -/
def State.openCycle (s : State) : State :=
  let t := { s with cores := s.cores.foldl (fun (l : Tbl Core) (ck : Nat × Core) =>
    l.set Core.init ck.1 { ck.2 with latched := s.latch ck.1, chanSeen := s.latchChans ck.1 }) s.cores }
  { t with turn := t.turns, agenda := t.releases }

theorem State.tick_eq (s : State) :
    s.tick = s.closeCycle.tickTime.sampleAll.passLeases.ringTurn.openCycle := by
  unfold State.tick State.closeCycle State.openCycle
  rfl

/-- After GTIME's advance nothing at the end of a cycle touches time or memory. -/
theorem State.tick_timeAndMemory (s : State) : s.tick.timeAndMemory = s.closeCycle.tickTime.timeAndMemory := by
  rw [State.tick_eq]
  generalize s.closeCycle.tickTime = t
  calc t.sampleAll.passLeases.ringTurn.openCycle.timeAndMemory
      = t.sampleAll.passLeases.ringTurn.timeAndMemory := rfl
    _ = t.sampleAll.passLeases.timeAndMemory := State.ringTurn_timeAndMemory _
    _ = t.sampleAll.timeAndMemory := State.passLeases_timeAndMemory _
    _ = t.timeAndMemory := State.sampleAll_timeAndMemory _

/-- The end of a cycle begins the next one and leaves HBM and host memory as they were. -/
theorem State.tick_frame (s : State) :
    s.tick.cycle = s.cycle + 1 ∧ s.tick.hbm = s.hbm ∧ s.tick.hostMem = s.hostMem := by
  obtain ⟨cycle, -, -, -, -, hbm, hostMem⟩ := timeAndMemory_eq_iff.mp s.tick_timeAndMemory
  obtain ⟨cycle', -, -, -, -, hbm', hostMem'⟩ := timeAndMemory_eq_iff.mp s.closeCycle_timeAndMemory
  obtain ⟨next, hbmT, hostMemT⟩ := s.closeCycle.tickTime_frame
  exact ⟨by rw [cycle, next, cycle'], by rw [hbm, hbmT, hbm'], by rw [hostMem, hostMemT, hostMem']⟩

/-- With no correction due, GTIME moves on by the whole nanoseconds that the clock's phase gives (R20; log 6). -/
theorem State.tick_gtime {s : State} (h : s.slew = 0) :
    s.tick.gtime = s.gtime + BitVec.ofNat 64 ((s.gphase + 1000) / s.clockMhz) := by
  obtain ⟨-, gtime, -⟩ := timeAndMemory_eq_iff.mp s.tick_timeAndMemory
  obtain ⟨-, gtime', gphase, slew, clock, -⟩ := timeAndMemory_eq_iff.mp s.closeCycle_timeAndMemory
  rw [gtime, State.tickTime_gtime (slew.trans h), gtime', gphase, clock]

/-! ## The step -/

theorem step_of_agenda {s : State} {i : Instr} {r : List Instr} (h : s.agenda = i :: r) :
    step s = exec i { s with agenda := r } := by
  unfold step
  rw [h]

theorem step_of_nextAuto {s : State} {o : Answer} (ha : s.agenda = []) (ht : s.turn = []) (h : s.nextAuto = some o) :
    step s = o := by
  unfold step
  rw [ha, ht, h]

theorem step_of_idle {s : State} (ha : s.agenda = []) (ht : s.turn = []) (h : s.nextAuto = none) :
    step s = .next s.tick := by
  unfold step
  rw [ha, ht, h]

end Sys2Proof.Machine

namespace Sys2Proof

open Machine

/-- Settles O7: each source of a step in turn, and the end of the cycle by what it leaves of time and memory. -/
theorem stepRunsEventsAndEndsCycle : Obligations.StepRunsEventsAndEndsCycle := by
  unfold Obligations.StepRunsEventsAndEndsCycle
  refine ⟨fun s i r h => step_of_agenda h, fun s o ha ht h => step_of_nextAuto ha ht h, fun s ha ht h => ?_⟩
  obtain ⟨cycle, hbm, -⟩ := s.tick_frame
  exact ⟨step_of_idle ha ht h, cycle, hbm, State.tick_gtime⟩

end Sys2Proof
end

section
/-!
PROOFS. Encoding and decoding agree (R36 to R47). A word of each form gives its fields back; a code gives its operand back,
where `wellFormed` admits it; and the table of the opcode map that lists an instruction, found by the word's major, reads the
instruction back from those fields.
-/

namespace Sys2Proof

/-! ## The fields of a word of each form (R36) -/

@[simp] theorem fields_formA (s : Bool) (maj : BitVec 5) (d a b : BitVec 6) (pg : BitVec 3) (pn : BitVec 1) (m : BitVec 4) :
    sylMajor (formA s maj d a b pg pn m) = maj ∧ fD (formA s maj d a b pg pn m) = d ∧
    fS1 (formA s maj d a b pg pn m) = a ∧ fS2 (formA s maj d a b pg pn m) = b ∧
    fTok (formA s maj d a b pg pn m) = pg ∧ fPn (formA s maj d a b pg pn m) = pn ∧
    fMinor (formA s maj d a b pg pn m) = m ∧
    fGuard (formA s maj d a b pg pn m) = { p := pg, neg := pn.getLsbD 0 } := by
  simp [sylMajor, fD, fS1, fS2, fTok, fPn, fMinor, fGuard, -BitVec.getLsbD_eq_getElem]

@[simp] theorem fields_formB (s : Bool) (maj : BitVec 5) (d a : BitVec 6) (i : BitVec 10) (m : BitVec 4) :
    sylMajor (formB s maj d a i m) = maj ∧ fD (formB s maj d a i m) = d ∧ fS1 (formB s maj d a i m) = a ∧
    fImm10 (formB s maj d a i m) = i ∧ fS2 (formB s maj d a i m) = i.extractLsb' 4 6 ∧
    fMinor (formB s maj d a i m) = m := by
  simp [sylMajor, fD, fS1, fS2, fImm10, fMinor]

@[simp] theorem fields_formV (s : Bool) (maj : BitVec 5) (d a b : BitVec 6) (pg : BitVec 3) (t : BitVec 2) (o : BitVec 3) :
    sylMajor (formV s maj d a b pg t o) = maj ∧ fD (formV s maj d a b pg t o) = d ∧ fS1 (formV s maj d a b pg t o) = a ∧
    fS2 (formV s maj d a b pg t o) = b ∧ fTok (formV s maj d a b pg t o) = pg ∧ fTy (formV s maj d a b pg t o) = t ∧
    fOp (formV s maj d a b pg t o) = o := by
  simp [sylMajor, fD, fS1, fS2, fTok, fTy, fOp]

@[simp] theorem fields_formW (s : Bool) (maj : BitVec 5) (d : BitVec 6) (i : BitVec 16) (m : BitVec 4) :
    sylMajor (formW s maj d i m) = maj ∧ fD (formW s maj d i m) = d ∧ fMinor (formW s maj d i m) = m := by
  simp [sylMajor, fD, fMinor]

@[simp] theorem fields_formS (s : Bool) (maj : BitVec 5) (d : BitVec 6) (r : BitVec 10) (g : Guard) (m : BitVec 4) :
    sylMajor (formS s maj d r g m) = maj ∧ fD (formS s maj d r g m) = d ∧ fMinor (formS s maj d r g m) = m ∧
    fGuard (formS s maj d r g m) = g := by
  simp [sylMajor, fD, fTok, fMinor, fGuard, -BitVec.getLsbD_eq_getElem]

@[simp] theorem fields_formP (s : Bool) (maj : BitVec 5) (arg : BitVec 22) (m : BitVec 4) :
    sylMajor (formP s maj arg m) = maj ∧ fMinor (formP s maj arg m) = m := by
  simp [sylMajor, fMinor]

@[simp] theorem fields_formD (s : Bool) (maj : BitVec 5) (d : BitVec 6) (m : MemOpnd) (w : BitVec 3) (m5 : BitVec 5) :
    sylMajor (formD s maj d m w m5) = maj ∧ fD (formD s maj d m w m5) = d ∧ fBase (formD s maj d m w m5) = m.base ∧
    fMode (formD s maj d m w m5) = m.mode.code ∧ fS2 (formD s maj d m w m5) = m.field ∧
    fTok (formD s maj d m w m5) = w ∧ fMinor5 (formD s maj d m w m5) = m5 ∧ fMem (formD s maj d m w m5) = m := by
  simp [sylMajor, fD, fBase, fMode, fS2, fTok, fMinor5, fMem]

@[simp] theorem fields_formM (s : Bool) (maj : BitVec 5) (d : BitVec 6) (b : BitVec 4) (x : BitVec 6) (o : BitVec 4)
    (w op : BitVec 3) :
    sylMajor (formM s maj d b x o w op) = maj ∧ fD (formM s maj d b x o w op) = d ∧
    fBase (formM s maj d b x o w op) = b ∧
    fMS (formM s maj d b x o w op) = x ∧ fAop (formM s maj d b x o w op) = o ∧ fMTok (formM s maj d b x o w op) = w ∧
    fOp (formM s maj d b x o w op) = op := by
  simp [sylMajor, fD, fBase, fMS, fAop, fMTok, fOp]

@[simp] theorem fields_formE (s : Bool) (maj : BitVec 5) (op : BitVec 2) (g : Guard) (l : BitVec 16) (y : BitVec 4) :
    sylMajor (formE s maj op g l y) = maj ∧ fMinor (formE s maj op g l y) = y ∧ fGuardE (formE s maj op g l y) = g ∧
    fS1 (formE s maj op g l y) = l.extractLsb' 10 6 := by
  simp [sylMajor, fMinor, fGuardE, fS1, -BitVec.getLsbD_eq_getElem]

@[simp] theorem fields_formF (s : Bool) (maj : BitVec 5) (lvl : BitVec 2) (k : Bool) (n : BitVec 9) (el es : BitVec 4) :
    sylMajor (formF s maj lvl k n el es) = maj ∧ fMinor (formF s maj lvl k n el es) = 0 ∧
    fS1 (formF s maj lvl k n el es) = n.extractLsb' 0 6 := by
  simp [sylMajor, fMinor, fS1]

/-! ## Parts of a field

The library's lemmas on concatenations, stated so that `simp` also finds them where the width of the whole is a numeral. -/

@[simp] theorem extract_append_hi {n m : Nat} (x : BitVec n) (y : BitVec m) {lo len : Nat} (h : m ≤ lo) :
    (HAppend.hAppend (γ := no_index (BitVec (n + m))) x y).extractLsb' lo len = x.extractLsb' (lo - m) len :=
  BitVec.extractLsb'_append_eq_of_le h

@[simp] theorem extract_append_lo {n m : Nat} (x : BitVec n) (y : BitVec m) {lo len : Nat} (h : lo + len ≤ m) :
    (HAppend.hAppend (γ := no_index (BitVec (n + m))) x y).extractLsb' lo len = y.extractLsb' lo len :=
  BitVec.extractLsb'_append_eq_of_add_le h

@[simp] theorem getLsbD_append {n m : Nat} (x : BitVec n) (y : BitVec m) (j : Nat) :
    (HAppend.hAppend (γ := no_index (BitVec (n + m))) x y).getLsbD j =
      if j < m then y.getLsbD j else x.getLsbD (j - m) :=
  BitVec.getLsbD_append

/-- Adjacent runs of bits are one run. -/
theorem bits_add (w : Syl) (lo m n : Nat) : bits w lo (m + n) = bits w (lo + n) m ++ bits w lo n :=
  (BitVec.extractLsb'_append_extractLsb'_eq_extractLsb' rfl).symm

/-- Both runs of a word that is cut in two. -/
@[simp] theorem append_extract {n m : Nat} (x : BitVec (n + m)) :
    HAppend.hAppend (γ := no_index (BitVec (n + m))) (x.extractLsb' m n) (x.extractLsb' 0 m) = x :=
  BitVec.extractLsb'_append_extractLsb'

/-- The number of TRAP and BRK takes the three fields d, s1 and s2. -/
theorem bits_trapNumber (s : Bool) (maj : BitVec 5) (n : BitVec 18) (pg : BitVec 3) (pn : BitVec 1) (m : BitVec 4) :
    bits (formA s maj (n.extractLsb' 12 6) (n.extractLsb' 6 6) (n.extractLsb' 0 6) pg pn m) 8 18 = n := by
  generalize hw : formA s maj (n.extractLsb' 12 6) (n.extractLsb' 6 6) (n.extractLsb' 0 6) pg pn m = w
  have middle : n.extractLsb' 12 6 ++ n.extractLsb' 6 6 = n.extractLsb' 6 12 :=
    BitVec.extractLsb'_append_extractLsb'_eq_extractLsb' rfl
  calc bits w 8 18 = bits w 20 6 ++ bits w 14 6 ++ bits w 8 6 := by rw [bits_add w 8 12 6, bits_add w 14 6 6]
    _ = n.extractLsb' 12 6 ++ n.extractLsb' 6 6 ++ n.extractLsb' 0 6 := by simp [← hw]
    _ = n.extractLsb' 6 12 ++ n.extractLsb' 0 6 := by rw [middle]
    _ = n := BitVec.extractLsb'_append_extractLsb' (w := 12) (len := 6)

/-! ## Operands that their codes give back -/

@[simp] theorem gFields (w : Syl) :
    gD w = GField.ofCode (fD w) ∧ gS1 w = GField.ofCode (fS1 w) ∧ gS2 w = GField.ofCode (fS2 w) ∧
    gMS w = GField.ofCode (fMS w) :=
  ⟨rfl, rfl, rfl, rfl⟩

@[simp] theorem whenBits_true (i : Instr) : whenBits true i = some i := rfl

theorem GField.src_of_dst {x : GField} (h : x.dst = true) : x.src = true := by
  cases x with
  | r n => exact h
  | pop q => rfl
  | peek q => rfl

theorem GField.dst_of_reg {x : GField} (h : x.reg = true) : x.dst = true := by
  cases x with
  | r n => exact h
  | pop q => rfl
  | peek q => cases h

theorem GField.reg_of_pair {x : GField} (h : x.pair = true) : x.reg = true := by
  cases x with
  | r n =>
    simp only [GField.pair, Bool.and_eq_true, decide_eq_true_eq] at h
    simp only [GField.reg, decide_eq_true_eq]
    omega
  | pop q => cases h
  | peek q => cases h

@[simp] theorem GField.ofCode_code_of_src {x : GField} (h : x.src = true) : GField.ofCode x.code = x :=
  x.ofCode_code h

@[simp] theorem GField.ofCode_code_of_dst {x : GField} (h : x.dst = true) : GField.ofCode x.code = x :=
  x.ofCode_code (src_of_dst h)

@[simp] theorem GField.ofCode_code_of_reg {x : GField} (h : x.reg = true) : GField.ofCode x.code = x :=
  ofCode_code_of_dst (dst_of_reg h)

@[simp] theorem GField.ofCode_code_of_pair {x : GField} (h : x.pair = true) : GField.ofCode x.code = x :=
  ofCode_code_of_reg (reg_of_pair h)

theorem RF.src_of_dst {e : Engine} {x : RF} (h : x.dst e = true) : x.src e = true := by
  cases x with
  | g f =>
    simp only [RF.dst, RF.src, Bool.and_eq_true] at h ⊢
    exact h.imp_right GField.src_of_dst
  | a n => exact h

theorem RF.dst_of_reg {e : Engine} {x : RF} (h : x.reg e = true) : x.dst e = true := by
  cases x with
  | g f =>
    simp only [RF.reg, RF.dst, Bool.and_eq_true] at h ⊢
    exact h.imp_right GField.dst_of_reg
  | a n => exact h

@[simp] theorem RF.ofCode_code_of_src {e : Engine} {x : RF} (h : x.src e = true) : RF.ofCode e x.code = some x :=
  RF.ofCode_code e x h

@[simp] theorem RF.ofCode_code_of_dst {e : Engine} {x : RF} (h : x.dst e = true) : RF.ofCode e x.code = some x :=
  ofCode_code_of_src (src_of_dst h)

@[simp] theorem RF.ofCode_code_of_reg {e : Engine} {x : RF} (h : x.reg e = true) : RF.ofCode e x.code = some x :=
  ofCode_code_of_dst (dst_of_reg h)

theorem GField.src_of_eq_zero {x : GField} (h : x = .r 0) : x.src = true := by
  subst h
  rfl

/-- What `wellFormed` asks of the register of FSET, FWAIT and ERET: where nothing reads it, it is zero. -/
theorem GField.src_of_src_or_zero {c : Prop} [Decidable c] {x : GField}
    (h : (if c then x.src else decide (x = .r 0)) = true) : x.src = true := by
  split at h
  · exact h
  · exact src_of_eq_zero (of_decide_eq_true h)

/-- What `wellFormed` asks of RCAS's registers. -/
theorem GField.reg_src_of_rcas {t : RcasTy} {d x : GField}
    (h : (if t = .pair then d.pair && x.pair else d.reg && x.src) = true) : d.reg = true ∧ x.src = true := by
  split at h
  · obtain ⟨hd, hx⟩ := Bool.and_eq_true_iff.mp h
    exact ⟨reg_of_pair hd, src_of_dst (dst_of_reg (reg_of_pair hx))⟩
  · exact Bool.and_eq_true_iff.mp h

@[simp] theorem xregOfCode_xCode (n : BitVec 2) : xregOfCode (xCode n) = some n := by
  revert n
  decide

@[simp] theorem accOfCode_accCode (d : Bool) : accOfCode (accCode d) = some d := by
  cases d <;> rfl

@[simp] theorem VField.ofCode_regCode (n : BitVec 5) : VField.ofCode (0#1 ++ n : BitVec 6) = some (.r n) :=
  VField.ofCode_code (.r n)

@[simp] theorem VField.ofCode_popCode (q : BitVec 3) : VField.ofCode (4#3 ++ q : BitVec 6) = some (.pop q) :=
  VField.ofCode_code (.pop q)

@[simp] theorem VField.ofCode_zero : VField.ofCode 0#6 = some (.r 0) := rfl

@[simp] theorem gatherMode_code (sh : Bool) : gatherMode (if sh = true then AMode.idxShift else AMode.idx).code = some sh := by
  cases sh <;> rfl

/-- MOVK's minors are not MOVI's. -/
theorem movkMinor_ne_zero (k : BitVec 2) : (1#2 ++ k : BitVec 4) ≠ 0#4 := by
  revert k
  decide

/-- FORK's targets are not JOIN's zero. -/
theorem Engine.code_ne_zero {t : Engine} (h : t ≠ .scu) : t.code ≠ 0#2 := by
  cases t with
  | scu => exact absurd rfl h
  | ve => decide
  | ce => decide
  | mx => decide

/-! ## The tables of the opcode map -/

/-- The tables of the opcode map that the decoder reads one by one (R42 to R46). -/
inductive OpTable where
  | common | scuAlu | scuCtl | scuMem | veArith | veMove | veMem | ce | mx

/-- The table that lists an instruction; none for a step without an encoding. -/
def Instr.table : Instr → Option OpTable
  | .nop | .halt | .waitk _ | .slack _ | .mfs _ _ _ | .mts _ _ _ | .fset _ _ _ | .fwait _ _ _ | .fclr _ | .fence _ _ _ _
  | .mark _ | .tlsig _ _ | .tlwait _ _ _ | .tlrd _ _ _ | .binit _ _ _ _ | .barr _ _ _ _ | .bwait _ _ _ _ | .btry _ _ _ _
  | .binv _ _ _ _ | .trap _ _ | .brk _ _ | .faultrd _ _ _ | .hcall _ _ _ _ | .eret _ _ _ | .icinv _ _ _ _
  | .mtrrd _ _ _ => some .common
  | .add _ _ _ _ | .sub _ _ _ _ | .and _ _ _ _ | .or _ _ _ _ | .xor _ _ _ _ | .andn _ _ _ _ | .shl _ _ _ _ | .shr _ _ _ _
  | .sra _ _ _ _ | .rotl _ _ _ _ | .min _ _ _ _ | .max _ _ _ _ | .minn _ _ _ _ | .maxn _ _ _ _ | .sel _ _ _ _
  | .clz _ _ _ | .ctz _ _ _ | .popc _ _ _ | .addi _ _ _ | .andi _ _ _ | .ori _ _ _ | .xori _ _ _ | .shli _ _ _
  | .shri _ _ _ | .srai _ _ _ | .mul _ _ _ _ | .mulh _ _ _ _ | .mulhn _ _ _ _ | .div _ _ _ _ | .divn _ _ _ _ | .rem _ _ _ _
  | .remn _ _ _ _ | .cmp _ _ _ _ _ | .cmpi _ _ _ _ | .movi _ _ | .movk _ _ _ | .ldi _ _ | .bext _ _ _ _ | .bins _ _ _ _
  | .aadd _ _ _ | .aaddi _ _ _ | .amov _ _ | .aget _ _ | .amesh _ _ => some .scuAlu
  | .br _ _ _ | .jmp _ _ | .call _ _ _ | .jmpr _ _ | .ret _ | .loopImmediate _ _ _ _ | .loopRegister _ _ _ _
  | .join _ _ _ _ | .fork _ _ _ _ | .qclose _ _ | .qstat _ _ _ => some .scuCtl
  | .ld _ _ _ _ | .ldn _ _ _ _ | .lda _ _ _ _ | .st _ _ _ _ | .atm _ _ _ _ _ _ | .acas _ _ _ _ _ | .acas2 _ _ _ _
  | .stbind _ _ _ | .stunbd _ _ | .stflsh _ _ | .stdrop _ _ | .sttch _ _ | .cflsh _ _ _ | .cinv _ _ _ | .cdisc _ _ _
  | .rld _ _ _ _ | .rst _ _ _ _ | .ratm _ _ _ _ _ | .rcas _ _ _ _ _ | .casn _ _ _ _ | .enq _ _ _ _ | .deq _ _ _ _
  | .chase _ _ _ _ | .fadd _ _ _ _ | .fminloc _ _ _ _ | .rfence _ => some .scuMem
  | .vadd _ _ _ _ _ | .vsub _ _ _ _ _ | .vmul _ _ _ _ _ | .vmin _ _ _ _ _ | .vmax _ _ _ _ _ | .vdiv _ _ _ _ _
  | .vfma _ _ _ _ _ | .vfms _ _ _ _ _ | .vfnma _ _ _ _ _ | .vabs _ _ _ _ | .vneg _ _ _ _ | .vsqrt _ _ _ _ | .vrcp _ _ _ _
  | .vrsq _ _ _ _ | .vexp2 _ _ _ _ | .vlog2 _ _ _ _ | .viadd _ _ _ _ _ | .visub _ _ _ _ _ | .vimul _ _ _ _ _
  | .vimulh _ _ _ _ _ | .vimin _ _ _ _ _ | .vimax _ _ _ _ _ | .vclamp _ _ _ _ _ | .vwadd _ _ _ _ _ | .vand _ _ _ _ _
  | .vor _ _ _ _ _ | .vxor _ _ _ _ _ | .vnot _ _ _ _ | .vshl _ _ _ _ _ | .vshr _ _ _ _ _ | .vsra _ _ _ _ _
  | .vrshr _ _ _ _ _ | .vmacb _ _ _ _ _ | .vimulr _ _ _ _ _ | .vnarb _ _ _ _ | .vcmp _ _ _ _ _ _ | .vfcmp _ _ _ _ _ _
  | .vpand _ _ _ _ | .vpor _ _ _ _ | .vpnot _ _ _ => some .veArith
  | .vsel _ _ _ _ _ | .vcvtLow _ _ _ _ _ | .vcvtHigh _ _ _ _ _ | .vqnt _ _ _ _ _ | .vperm _ _ _ _ _ | .vrot _ _ _ _
  | .vrmrg _ _ _ _ | .vshuf _ _ _ _ _ | .vbcast _ _ _ _ _ | .vextr _ _ _ _ _ | .viota _ _ _ _ | .vscan _ _ _ _ | .xclr _ _
  | .xacc _ _ _ | .xsca _ _ _ _ _ | .xred _ _ _ _ | .xrnd _ _ _ _ | .vkey _ _ _ _ _ => some .veMove
  | .xld _ _ _ | .xst _ _ _ | .vld _ _ _ | .vst _ _ _ | .vstm _ _ _ _ | .vldq _ _ _ _ | .vldt _ _ _ _
  | .vgath _ _ _ _ _ _ | .vscat _ _ _ _ _ _ | .vpref _ _ _ _ _ => some .veMem
  | .cpy _ _ _ | .cpyt _ _ _ | .cpym _ _ _ _ | .pput _ _ _ _ | .cwprd _ _ _ _ | .ccan _ _ _ | .cbuf _ _ _ _ | .cstat _ _ _ _
  | .cgrp _ _ _ | .car _ _ _ | .crs _ _ _ | .cag _ _ _ | .ca2a _ _ _ | .cbc _ _ _ | .repart _ _ _ => some .ce
  | .mlease _ | .mfree | .mlda _ _ _ _ | .mldu _ _ _ | .mldb _ _ _ _ | .mldbt _ _ _ _ | .mmul _ _ _ _ _ _ | .mzero _ _
  | .mrd _ _ _ | .mrdx _ _ _ | .mstat _ _ _ | .rep _ | .mldp _ _ _ _ _ | .mmulp _ _ _ _ _ _ _ | .mmulpt _ _ _ _ _ _ _
  | .meps _ _ _ _ _ | .mseed _ _ => some .mx
  | _ => none

/-- The engines whose lines hold a table's instructions. -/
def OpTable.on : OpTable → Engine → Bool
  | .common, _ => true
  | .scuAlu, e | .scuCtl, e | .scuMem, e => decide (e = .scu)
  | .veArith, e | .veMove, e | .veMem, e => decide (e = .ve)
  | .ce, e => decide (e = .ce)
  | .mx, e => decide (e = .mx)

/-- The majors of a table. -/
@[simp] def OpTable.majors : OpTable → List (BitVec 5)
  | .common => [1, 23, 24, 25, 26, 27]
  | .scuAlu => [2, 3, 4, 5, 6, 7, 8, 28]
  | .scuCtl => [9, 10, 11, 12, 13]
  | .scuMem => [16, 17, 18, 19, 22]
  | .veArith => [2, 3, 4, 5, 6, 7, 8]
  | .veMove => [9, 10, 11, 12, 13, 15]
  | .veMem => [14, 16, 17, 18]
  | .ce => [2, 3, 4, 5, 6, 7, 8, 9, 10, 11, 12, 13]
  | .mx => [2, 3, 4, 5, 6, 7, 8, 9, 10, 11, 12, 13, 14]

/-- The part of the decoder that reads a table. -/
@[simp] def OpTable.read (e : Engine) (w w2 : Syl) : OpTable → Option Instr
  | .common => decodeCommon e w
  | .scuAlu => decodeScuAlu w w2
  | .scuCtl => decodeScuCtl w
  | .scuMem => decodeScuMem w
  | .veArith => decodeVeArith w
  | .veMove => decodeVeMove w
  | .veMem => decodeVeMem w
  | .ce => decodeCe w
  | .mx => decodeMx w

/-- A well-formed instruction stands in a table of its engine: one of the two sides of `listed` computes to true, the table's
engine before the operands are looked at, or `wellFormed`'s own test of the engine. -/
theorem table_of_wellFormed {e : Engine} {i : Instr} (h : wellFormed e i = true) :
    ∃ t, i.table = some t ∧ t.on e = true := by
  have listed : (i.table.any (·.on e) || !wellFormed e i) = true := by
    cases e <;> cases i <;> rfl
  simpa [h, Option.any_eq_true] using listed

/-- An engine lists the majors of its tables (R47). -/
theorem majorListed_of_mem {t : OpTable} {e : Engine} {m : BitVec 5} (on : t.on e = true) (hm : m ∈ t.majors) :
    majorListed e m.toNat = true := by
  revert m
  cases t <;> cases e <;> revert on <;> decide

/-- The major of a word chooses the table that the decoder reads (R42 to R46). -/
theorem decodeRaw_of_mem {t : OpTable} {e : Engine} {w : Syl} (w2 : Syl) (on : t.on e = true)
    (hm : sylMajor w ∈ t.majors) : decodeRaw e w w2 = t.read e w w2 := by
  unfold decodeRaw
  generalize sylMajor w = m at hm
  cases t with
  | common => fin_cases hm <;> rfl
  | scuAlu | scuCtl | scuMem | veArith | veMove | veMem | ce | mx =>
    obtain rfl := of_decide_eq_true on
    fin_cases hm <;> rfl

section
variable {e : Engine} {i : Instr} {s : Bool} {w w2 : Syl}

/-- The words of `i` have a major of the table `t`, and the table reads `i` back from them. -/
def Reads (t : OpTable) (e : Engine) (s : Bool) (i : Instr) : Prop :=
  sylMajor (encodeWords s i).1 ∈ t.majors ∧ t.read e (encodeWords s i).1 (encodeWords s i).2 = some i

theorem reads_of_words {t : OpTable} (hw : encodeWords s i = (w, w2)) (hm : sylMajor w ∈ t.majors)
    (hr : t.read e w w2 = some i) : Reads t e s i := by
  rw [Reads, hw]
  exact ⟨hm, hr⟩

/-! ## The tables read their instructions back

In each case the word's major and minor choose one branch of the table's reader, and its fields give the operands back. A field
that the reader takes from two neighbours of the form is cut at their border first (`span`). -/

theorem reads_common (ht : i.table = some .common) (h : wellFormed e i = true) : Reads .common e s i := by
  cases i with
  | nop | halt | waitk m | slack n | fence k x m w | mark g =>
    refine reads_of_words rfl (by simp) ?_
    simp [decodeCommon]
  | mfs d r g | mts r a g | tlsig d w | tlwait t n w | tlrd d t w | binit r b o w | barr r b o w | bwait r b o w
  | btry r b o w | binv r b o w | faultrd d k g | hcall d a v w | icinv c a b w | mtrrd d a w =>
    refine reads_of_words rfl (by simp) ?_
    unfold wellFormed at h
    simp only [Bool.and_eq_true] at h
    simp [decodeCommon, memAt, AMode.code, chanCode, h]
  | fset f a n | fwait f a n =>
    refine reads_of_words rfl (by simp) ?_
    have ha : a.src = true := GField.src_of_src_or_zero h
    simp [decodeCommon, aCode, ha]
  | fclr f =>
    refine reads_of_words rfl (by simp) ?_
    have span (w : Syl) : bits w 4 16 = bits w 14 6 ++ bits w 4 10 := bits_add w 4 6 10
    simp [decodeCommon, aCode, span]
  | trap n g | brk n g =>
    refine reads_of_words rfl (by simp) ?_
    simp [decodeCommon, bits_trapNumber]
  | eret a dr np =>
    refine reads_of_words rfl (by simp) ?_
    have ha : a.src = true := GField.src_of_src_or_zero (Bool.and_eq_true_iff.mp h).2
    simp [decodeCommon, ha, -BitVec.getLsbD_eq_getElem]
  | _ => cases ht

theorem reads_scuAlu (ht : i.table = some .scuAlu) (h : wellFormed .scu i = true) : Reads .scuAlu .scu s i := by
  cases i with
  | add d a b g | sub d a b g | and d a b g | or d a b g | xor d a b g | andn d a b g | shl d a b g | shr d a b g
  | sra d a b g | rotl d a b g | min d a b g | max d a b g | minn d a b g | maxn d a b g | sel d a b g
  | clz d a g | ctz d a g | popc d a g
  | addi d a n | andi d a n | ori d a n | xori d a n | shli d a n | shri d a n | srai d a n
  | mul d a b g | mulh d a b g | mulhn d a b g | div d a b w | divn d a b w | rem d a b w | remn d a b w
  | cmp p c a b g | cmpi p c a n | movi d n | movk d n k | ldi d n | bext d a b g | bins d a b g
  | aadd d a g | amov d a | aget d a | amesh d c =>
    refine reads_of_words rfl (by simp) ?_
    unfold wellFormed at h
    simp only [Bool.and_eq_true] at h
    simp [decodeScuAlu, aCode, movkMinor_ne_zero, sylStop, h, -BitVec.getLsbD_eq_getElem]
  | aaddi d a n =>
    refine reads_of_words rfl (by simp) ?_
    simp [decodeScuAlu, aCode]
  | _ => cases ht

theorem reads_scuCtl (ht : i.table = some .scuCtl) (h : wellFormed .scu i = true) : Reads .scuCtl .scu s i := by
  cases i with
  | br l y g | call l y g | loopImmediate v n el es | qclose q g =>
    refine reads_of_words rfl (by simp) ?_
    simp [decodeScuCtl, chanCode, -BitVec.getLsbD_eq_getElem]
  | loopRegister v a el es | qstat d q g =>
    refine reads_of_words rfl (by simp) ?_
    unfold wellFormed at h
    simp only [Bool.and_eq_true] at h
    simp [decodeScuCtl, chanCode, h, -BitVec.getLsbD_eq_getElem]
  | jmp l y =>
    refine reads_of_words rfl (by simp) ?_
    have span (w : Syl) : bits w 20 4 = bits w 21 3 ++ bits w 20 1 := bits_add w 20 3 1
    simp [decodeScuCtl, Guard.always, span]
  | jmpr a g =>
    refine reads_of_words rfl (by simp) ?_
    unfold wellFormed at h
    simp only [Bool.and_eq_true] at h
    have span (w : Syl) : bits w 0 14 = bits w 4 10 ++ bits w 0 4 := bits_add w 0 10 4
    simp [decodeScuCtl, span, h]
  | ret g =>
    refine reads_of_words rfl (by simp) ?_
    have span (w : Syl) : bits w 0 20 = bits w 4 16 ++ bits w 0 4 := bits_add w 0 16 4
    simp [decodeScuCtl, span]
  | join ve ce mx g =>
    refine reads_of_words rfl (by simp) ?_
    have span (w : Syl) : bits w 0 17 = bits w 4 13 ++ bits w 0 4 := bits_add w 0 13 4
    simp [decodeScuCtl, span, -BitVec.getLsbD_eq_getElem]
  | fork t l y g =>
    refine reads_of_words rfl (by simp) ?_
    unfold wellFormed at h
    simp only [Bool.and_eq_true, decide_eq_true_eq] at h
    simp [decodeScuCtl, Engine.code_ne_zero h.2]
  | _ => cases ht

theorem reads_scuMem (ht : i.table = some .scuMem) (h : wellFormed .scu i = true) : Reads .scuMem .scu s i := by
  cases i with
  | ld t d m w | ldn t d m w | lda t d m w | st t d m w | acas2 d b x w
  | stbind r b w | stunbd r w | stflsh r w | stdrop r w | sttch r w | cflsh r b w | cinv r b w | cdisc r b w
  | rld t d b w | rst t x b w | ratm o d b x w | casn d b x w | enq d b x w | deq d b x w | chase d b x w | fadd d b x w
  | fminloc d b x w =>
    refine reads_of_words rfl (by simp) ?_
    unfold wellFormed at h
    simp only [Bool.and_eq_true] at h
    simp [decodeScuMem, memAt, AMode.code, h, -BitVec.getLsbD_eq_getElem]
  | atm o wide d b x w | acas wide d b x w =>
    refine reads_of_words rfl (by simp) ?_
    unfold wellFormed at h
    simp only [Bool.and_eq_true] at h
    cases wide <;> simp [decodeScuMem, h]
  | rcas t d b x w =>
    refine reads_of_words rfl (by simp) ?_
    unfold wellFormed at h
    simp only [Bool.and_eq_true] at h
    obtain ⟨hd, hx⟩ := GField.reg_src_of_rcas h.2
    simp [decodeScuMem, hd, hx]
  | rfence w =>
    refine reads_of_words rfl (by simp) ?_
    simp [decodeScuMem]
  | _ => cases ht

theorem reads_veArith (ht : i.table = some .veArith) : Reads .veArith .ve s i := by
  cases i with
  | vadd t d a b g | vsub t d a b g | vmul t d a b g | vmin t d a b g | vmax t d a b g | vdiv t d a b w
  | vfma t d a b g | vfms t d a b g | vfnma t d a b g | vabs t d a g | vneg t d a g | vsqrt t d a w
  | vrcp t d a w | vrsq t d a w | vexp2 t d a w | vlog2 t d a w | viadd t d a b g | visub t d a b g
  | vimul t d a b g | vimulh t d a b g | vimin t d a b g | vimax t d a b g | vclamp t d a b g | vwadd t d a b g
  | vand t d a b g | vor t d a b g | vxor t d a b g | vnot t d a g | vshl t d a b g | vshr t d a b g
  | vsra t d a b g | vrshr t d a b g | vmacb q d a b g | vimulr half d a b g | vnarb q d a g | vcmp c t p a b g
  | vfcmp c t p a b g | vpand p a b g | vpor p a b g | vpnot p a g =>
    refine reads_of_words rfl (by simp) ?_
    simp [decodeVeArith, chanCode, -BitVec.getLsbD_eq_getElem]
  | _ => cases ht

theorem reads_veMove (ht : i.table = some .veMove) : Reads .veMove .ve s i := by
  cases i with
  | vsel t d a b g | vcvtLow dst src d a k | vcvtHigh dst src d a k | vqnt dst d a b k | vperm t d a b g
  | vrot o d a g | vrmrg o d a g | vshuf t p d a g | vbcast blk i d a g | vextr wide i d a g | viota t start d g
  | vscan op d a g | xclr x g | xacc x a g | xsca e8m0 x a b g | xred grp x a g | xrnd bf16 d a g
  | vkey t d a b g =>
    refine reads_of_words rfl (by simp) ?_
    simp [decodeVeMove, -BitVec.getLsbD_eq_getElem]
  | _ => cases ht

theorem reads_veMem (ht : i.table = some .veMem) : Reads .veMem .ve s i := by
  cases i with
  | xld x m w | xst x m w | vld d m w | vst s m w | vstm s m p w | vldq q m p w | vldt d m p w
  | vgath d b sh i p w | vscat s b sh i p w | vpref b sh i p w =>
    refine reads_of_words rfl (by simp) ?_
    simp [decodeVeMem, -BitVec.getLsbD_eq_getElem]
  | _ => cases ht

theorem reads_ce (ht : i.table = some .ce) : Reads .ce .ce s i := by
  cases i with
  | cpy c m w | cpyt c m w | cpym t c m w | cwprd d acq c w | ccan all c w | cbuf set n m w
  | cstat d clr c w | cgrp slot m w | car c m w | crs c m w | cag c m w | ca2a c m w | cbc c m w | repart c m w =>
    refine reads_of_words rfl (by simp) ?_
    simp [decodeCe, chanCode, aCode, xCode, -BitVec.getLsbD_eq_getElem]
  | pput c b m w =>
    refine reads_of_words rfl (by simp) ?_
    have span (w : Syl) : bits w 12 4 = bits w 14 2 ++ bits w 12 2 := bits_add w 12 2 2
    simp [decodeCe, span, chanCode, memAt, AMode.code]
  | _ => cases ht

theorem reads_mx (ht : i.table = some .mx) : Reads .mx .mx s i := by
  cases i with
  | mlease n | mfree | mlda s cls m w | mldu cls m w | mldb s cls m w | mldbt s cls m w | mmul t d kb ka clr w
  | mzero d w | mrd d m w | mrdx d q w | mstat d clr w | rep n | mldp s step col m w
  | mmulp d e5m2 kb ka clr ms w | mmulpt d e5m2 kb ka clr ms w | meps s ms col m w | mseed a b =>
    refine reads_of_words rfl (by simp) ?_
    simp [decodeMx, tileCode, aCode, memAt, chanCode, AMode.code, -BitVec.getLsbD_eq_getElem]
  | _ => cases ht

/-- Every well-formed instruction is read back from its words. -/
theorem decode_encode (s : Bool) (h : wellFormed e i = true) :
    decode e (encodeWords s i).1 (encodeWords s i).2 = .ok i := by
  obtain ⟨t, ht, on⟩ := table_of_wellFormed h
  have reads : Reads t e s i := by
    cases t with
    | common => exact reads_common ht h
    | scuAlu => obtain rfl := of_decide_eq_true on; exact reads_scuAlu ht h
    | scuCtl => obtain rfl := of_decide_eq_true on; exact reads_scuCtl ht h
    | scuMem => obtain rfl := of_decide_eq_true on; exact reads_scuMem ht h
    | veArith => obtain rfl := of_decide_eq_true on; exact reads_veArith ht
    | veMove => obtain rfl := of_decide_eq_true on; exact reads_veMove ht
    | veMem => obtain rfl := of_decide_eq_true on; exact reads_veMem ht
    | ce => obtain rfl := of_decide_eq_true on; exact reads_ce ht
    | mx => obtain rfl := of_decide_eq_true on; exact reads_mx ht
  obtain ⟨hm, hr⟩ := reads
  rw [decode, if_pos (majorListed_of_mem on hm), decodeRaw_of_mem _ on hm, hr]
  exact if_pos h

end

/-- Settles O2: `decode_encode` on the SCU. -/
theorem decodeOfEncodeScu : Obligations.DecodeOfEncodeScu := by
  unfold Obligations.DecodeOfEncodeScu
  exact fun stop i h => decode_encode stop h

/-- Settles O3: `decode_encode` on the VE. -/
theorem decodeOfEncodeVe : Obligations.DecodeOfEncodeVe := by
  unfold Obligations.DecodeOfEncodeVe
  exact fun stop i h => decode_encode stop h

/-- Settles O4: `decode_encode` on the CE and on the MX. -/
theorem decodeOfEncodeCeMx : Obligations.DecodeOfEncodeCeMx := by
  unfold Obligations.DecodeOfEncodeCeMx
  exact fun stop i => ⟨fun h => decode_encode stop h, fun h => decode_encode stop h⟩

/-- Settles O1, by running the decoder on each word. -/
theorem wordsOfTheSpecDecode : Obligations.WordsOfTheSpecDecode := by
  unfold Obligations.WordsOfTheSpecDecode
  decide

end Sys2Proof
end

section
/-!
PROOFS. The VE's fixed-latency instructions: one that computes element by element issues under the gate of R123 to R126, and
the floating-point ones give each element by the rules of R131 and R132.
-/

namespace Sys2Proof

open Machine

/-! ## Element-wise instructions -/

/-- An instruction whose meaning is an element-wise result of two rows (R123). -/
theorem VectorTwo.of {i : VField → VField → VField → BitVec 3 → Instr} {b lat : Nat}
    {f : State → VField → Row → Row → Nat → BitVec (8 * b) × W64}
    (h : ∀ d a c g s, exec (i d a c g) s = s.vec2 d a c g b lat (f s d)) : VectorTwo i b lat f := fun d a c g s =>
  ⟨fun r => (h d a c g s).trans (State.issue_ready r _), fun r => by rw [h]; exact State.issue_not_ready r _⟩

/-- The same of one row. -/
theorem VectorOne.of {i : VField → VField → BitVec 3 → Instr} {b lat : Nat}
    {f : State → VField → Row → Nat → BitVec (8 * b) × W64}
    (h : ∀ d a g s, exec (i d a g) s = s.vec1 d a g b lat (f s d)) : VectorOne i b lat f := fun d a g s =>
  ⟨fun r => (h d a g s).trans (State.issue_ready r _), fun r => by rw [h]; exact State.issue_not_ready r _⟩

/-! ## Floating point -/

/-- An operation on the exact values of two elements is rounded once, in the mode at issue (R67, R131). -/
theorem VectorTwo.of_farith {i : VField → VField → VField → BitVec 3 → Instr} {t : FTy}
    {op : RMode → Machine.Num → Machine.Num → Machine.Num × W64}
    (h : ∀ d a c g s, exec (i d a c g) s = s.farith t d a c g op) :
    VectorTwo i t.bytes 4 (fun s _ x y k => roundTo t s.cur.rmode (op s.cur.rmode (felem t x k) (felem t y k))) :=
  .of h

/-- Settles O29: the operations of two values by the one rounding they share, and each of the others by the element that its
meaning computes. -/
theorem vectorFloatResults : Obligations.VectorFloatResults := by
  unfold Obligations.VectorFloatResults
  intro t e add3
  refine ⟨?vadd, ?vsub, ?vmul, ?vmin, ?vmax, ?vfma, ?vfms, ?vfnma, ?vabs, ?vneg⟩
  case vadd => exact .of_farith (op := fun mode x y => x.add mode y) fun _ _ _ _ _ => rfl
  case vsub => exact .of_farith (op := fun mode x y => x.add mode y.neg) fun _ _ _ _ _ => rfl
  case vmul => exact .of_farith (op := fun _ x y => x.mul y) fun _ _ _ _ _ => rfl
  case vmin | vmax | vfma | vfms | vfnma => exact .of fun _ _ _ _ _ => rfl
  case vabs | vneg => exact .of fun _ _ _ _ => rfl

end Sys2Proof
end

section
/-!
PROOFS. Rows put together from their elements: what the bits of a row are that is formed element by element, and so the elements,
the mask and the flags of a guarded element-wise result (R122, R123).
-/

namespace Sys2Proof.Machine

/-! ## Bits that are placed one after another -/

/-- A bit of what a guarded union of words collects. -/
theorem getLsbD_foldl_or {n : Nat} (p : Nat → Bool) (v : Nat → BitVec n) (l : List Nat) (acc : BitVec n) (i : Nat) :
    (l.foldl (fun acc k => if p k then acc ||| v k else acc) acc).getLsbD i =
      (acc.getLsbD i || l.any (fun k => p k && (v k).getLsbD i)) := by
  induction l generalizing acc with
  | nil => simp
  | cons k l ih => cases hp : p k <;> simp [ih, hp, Bool.or_assoc]

/-- The elements before the `c`-th end where it begins. -/
theorem element_bit_lt {w c k j : Nat} (hk : k < c) (hj : j < w) : w * k + j < w * c :=
  calc w * k + j < w * (k + 1) := by rw [Nat.mul_succ]; omega
    _ ≤ w * c := Nat.mul_le_mul_left w hk

/-- A bit that lies in element `k` lies in no other element. -/
theorem element_unique {w k j q : Nat} (hj : j < w) (le : w * q ≤ w * k + j) (lt : w * k + j < w * (q + 1)) : q = k := by
  have : q < k + 1 := Nat.lt_of_mul_lt_mul_left (Nat.lt_of_le_of_lt le (element_bit_lt k.lt_succ_self hj))
  have : k < q + 1 := Nat.lt_of_mul_lt_mul_left (Nat.lt_of_le_of_lt (Nat.le_add_right _ j) lt)
  omega

/-- Bit `j` of element `k`'s place, of a word placed as element `q`. -/
theorem getLsbD_place {n w k j : Nat} (hj : j < w) (hn : w * k + j < n) (x : BitVec w) (q : Nat) :
    ((x.setWidth n) <<< (w * q)).getLsbD (w * k + j) = (decide (q = k) && x.getLsbD j) := by
  by_cases hq : q = k
  · subst hq
    simp [hn]
  · rcases Nat.lt_or_ge (w * k + j) (w * q) with before | le
    · simp [hq, before]
    · have after : w ≤ w * k + j - w * q := by
        refine Nat.le_of_not_lt fun lt => hq (element_unique hj le ?_)
        rw [Nat.mul_succ]
        omega
      simp [hq, BitVec.getLsbD_of_ge x _ after]

/-- Bit `j` of element `k` of a word that enabled elements form. -/
theorem getLsbD_foldl_place {n w c k j : Nat} (p : Nat → Bool) (v : Nat → BitVec w) (hk : k < c) (hc : w * c ≤ n) (hj : j < w) :
    ((List.range c).foldl (fun acc k => if p k then acc ||| (((v k).setWidth n) <<< (w * k)) else acc) 0).getLsbD (w * k + j) =
      (p k && (v k).getLsbD j) := by
  have hn : w * k + j < n := Nat.lt_of_lt_of_le (element_bit_lt hk hj) hc
  rw [getLsbD_foldl_or, Bool.eq_iff_iff]
  simp only [getLsbD_place hj hn, BitVec.ofNat_eq_ofNat, BitVec.getLsbD_zero, Bool.or_eq_true, Bool.and_eq_true,
    List.any_eq_true, List.mem_range, decide_eq_true_eq, Bool.false_eq_true, false_or]
  constructor
  · rintro ⟨q, -, hp, rfl, hv⟩
    exact ⟨hp, hv⟩
  · rintro ⟨hp, hv⟩
    exact ⟨k, hk, hp, rfl, hv⟩

/-! ## Guarded element-wise results -/

theorem perElem_row (b : Nat) (m : BMask) (f : Nat → BitVec (8 * b) × W64) :
    (perElem b m f).1 = (List.range (256 / b)).foldl (fun acc k =>
      if m.getLsbD (b * k) then acc ||| (((f k).1.setWidth 2048) <<< (8 * b * k)) else acc) 0 := by
  refine (List.foldl_hom Prod.fst fun acc k => ?_).symm
  split <;> rfl

theorem perElem_flags (b : Nat) (m : BMask) (f : Nat → BitVec (8 * b) × W64) :
    (perElem b m f).2 = (List.range (256 / b)).foldl (fun acc k => if m.getLsbD (b * k) then acc ||| (f k).2 else acc) 0 := by
  refine (List.foldl_hom Prod.snd fun acc k => ?_).symm
  split <;> rfl

/-- An enabled element is its function's value. -/
theorem elem_perElem {b k : Nat} {m : BMask} (f : Nat → BitVec (8 * b) × W64) (hk : k < 256 / b) (h : m.getLsbD (b * k) = true) :
    elem (8 * b) (perElem b m f).1 k = (f k).1 := by
  have size : 8 * b * (256 / b) ≤ 2048 := by
    have := Nat.mul_div_le 256 b
    rw [Nat.mul_assoc]
    omega
  refine BitVec.eq_of_getLsbD_eq fun j hj => ?_
  rw [elem, slice, BitVec.getLsbD_extractLsb', perElem_row,
    getLsbD_foldl_place (fun k => m.getLsbD (b * k)) (fun k => (f k).1) hk size hj]
  simp [hj, h]

/-- A byte of an element is written where the element's guard bit is set. -/
theorem getLsbD_elemMask {b k j : Nat} (m : BMask) (hk : k < 256 / b) (hj : j < b) :
    (elemMask b m).getLsbD (b * k + j) = m.getLsbD (b * k) := by
  have size : b * (256 / b) ≤ 256 := Nat.mul_div_le 256 b
  have inside : b * k + j < 256 := Nat.lt_of_lt_of_le (element_bit_lt hk hj) size
  have ones : BitVec.ofNat 256 (2 ^ b - 1) = (BitVec.allOnes b).setWidth 256 := by
    refine BitVec.eq_of_getLsbD_eq fun i hi => ?_
    rw [BitVec.getLsbD_ofNat, Nat.testBit_two_pow_sub_one]
    simp [hi, -BitVec.getLsbD_eq_getElem]
  unfold elemMask
  split
  case isTrue one =>
    obtain rfl : j = 0 := by omega
    rfl
  case isFalse =>
    split
    case isTrue all =>
      have first : b * k < 256 := by omega
      rw [all, BitVec.getLsbD_allOnes, BitVec.getLsbD_allOnes, decide_eq_true inside, decide_eq_true first]
    case isFalse =>
      rw [ones, getLsbD_foldl_place (fun k => m.getLsbD (b * k)) (fun _ => BitVec.allOnes b) hk size hj]
      simp [hj]

/-- Flags come from enabled elements alone. -/
theorem perElem_flags_eq_zero {b : Nat} {m : BMask} {f : Nat → BitVec (8 * b) × W64}
    (h : ∀ k, k < 256 / b → m.getLsbD (b * k) = true → (f k).2 = 0) : (perElem b m f).2 = 0 := by
  refine BitVec.eq_of_getLsbD_eq fun i _ => ?_
  rw [perElem_flags, getLsbD_foldl_or (fun k => m.getLsbD (b * k)) (fun k => (f k).2)]
  simp only [BitVec.ofNat_eq_ofNat, BitVec.getLsbD_zero, Bool.false_or, List.any_eq_false, List.mem_range]
  intro k hk
  cases hm : m.getLsbD (b * k) with
  | false => simp
  | true => simp [h k hk hm]

end Sys2Proof.Machine

namespace Sys2Proof

open Machine

/-- Settles O32, by what each part of a guarded element-wise result is. -/
theorem enabledElementsAreComputed : Obligations.EnabledElementsAreComputed := by
  unfold Obligations.EnabledElementsAreComputed
  intro b _ m f k hk
  exact ⟨elem_perElem f hk, fun j hj => getLsbD_elemMask m hk hj, perElem_flags_eq_zero⟩

end Sys2Proof
end

section
/-!
PROOFS. The VE's unit, its integer results, its compares, selections and conversions, and its permutes and keys (R129 to R149,
R155).
-/

namespace Sys2Proof.Machine

/-! ## Morton keys -/

/-- A number put together from digits of `n` bits: bit `c` of its `i`-th digit is its bit `n`·i + c. -/
theorem testBit_foldl_digits {n : Nat} {d : Nat → Nat} (hd : ∀ i, d i < 2 ^ n) (m : Nat) :
    (List.range m).foldl (fun acc i => acc + 2 ^ (n * i) * d i) 0 < 2 ^ (n * m) ∧
      ∀ i c, i < m → c < n →
        ((List.range m).foldl (fun acc i => acc + 2 ^ (n * i) * d i) 0).testBit (n * i + c) = (d i).testBit c := by
  induction m with
  | zero => simp
  | succ m ih =>
    obtain ⟨below, bits⟩ := ih
    rw [List.range_succ, List.foldl_append]
    generalize (List.range m).foldl _ 0 = r at below bits
    simp only [List.foldl_cons, List.foldl_nil, Nat.add_comm r]
    constructor
    · calc 2 ^ (n * m) * d m + r < 2 ^ (n * m) * (d m + 1) := by rw [Nat.mul_succ]; omega
        _ ≤ 2 ^ (n * m) * 2 ^ n := Nat.mul_le_mul_left _ (hd m)
        _ = 2 ^ (n * (m + 1)) := by rw [← Nat.pow_add, Nat.mul_succ]
    · intro i c hi hc
      rw [Nat.testBit_two_pow_mul_add _ below]
      rcases Nat.lt_succ_iff_lt_or_eq.mp hi with lower | rfl
      · rw [if_pos (element_bit_lt lower hc), bits i c lower hc]
      · simp

/-- The `i`-th digit of a Morton key: bit `i` of each of its words, the first word's lowest. -/
def mortonDigit (i : Nat) (ws : List Nat) : Nat := ws.foldr (fun w d => Nat.bit (w.testBit i) d) 0

theorem mortonDigit_lt (i : Nat) (ws : List Nat) : mortonDigit i ws < 2 ^ ws.length := by
  induction ws with
  | nil => simp [mortonDigit]
  | cons w ws ih => exact Nat.bit_lt_two_pow_succ_iff.mpr ih

theorem testBit_mortonDigit (i : Nat) (ws : List Nat) (c : Nat) (h : c < ws.length) : (mortonDigit i ws).testBit c = ws[c].testBit i := by
  induction ws generalizing c with
  | nil => simp at h
  | cons w ws ih =>
    cases c with
    | zero => exact Nat.testBit_bit_zero _ _
    | succ c => exact (Nat.testBit_bit_succ _ _ _).trans (ih c (by simpa using h))

/-- Placing a bit of each word, from bit `p` on, adds the digit there. -/
theorem foldl_zipIdx_eq_mortonDigit (p i : Nat) (ws : List Nat) (c acc : Nat) :
    (ws.zipIdx c).foldl (fun acc q => acc + (if q.1.testBit i then 2 ^ (p + q.2) else 0)) acc =
      acc + 2 ^ (p + c) * mortonDigit i ws := by
  induction ws generalizing c acc with
  | nil => simp [mortonDigit]
  | cons w ws ih =>
    rw [List.zipIdx_cons, List.foldl_cons, ih]
    have head : mortonDigit i (w :: ws) = 2 * mortonDigit i ws + (w.testBit i).toNat := Nat.bit_val _ _
    rw [head]
    cases w.testBit i <;> simp <;> ring

/-- A Morton key has bit `i` of its `c`-th word at bit `n`·i + c (R155). -/
theorem testBit_interleave (ws : List Nat) (m : Nat) {i c : Nat} (hi : i < m) (hc : c < ws.length) :
    (interleave ws.length m ws).testBit (ws.length * i + c) = ws[c].testBit i := by
  have digits : interleave ws.length m ws =
      (List.range m).foldl (fun acc i => acc + 2 ^ (ws.length * i) * mortonDigit i ws) 0 := by
    simp only [interleave, foldl_zipIdx_eq_mortonDigit, Nat.add_zero]
  rw [digits, (testBit_foldl_digits (mortonDigit_lt · ws) m).2 i c hi hc, testBit_mortonDigit i ws c hc]

end Sys2Proof.Machine

namespace Sys2Proof

open Machine

/-! ## The unit of division and transcendental functions -/

/-- The operation that is due completes (R129). -/
theorem exec_veUnitComplete_due {c : Nat} {s : State} {o : PendOp} (due : s.unitDue c = some o) :
    exec (.veUnitComplete c) s = .next (unitCompleteEffect c o s) := by
  show execVeUnitComplete c s = _
  simp [execVeUnitComplete, due]

/-- Settles O30: each instruction by its meaning under the gate, and the completion by the operation that is due. -/
theorem vectorUnitIssuesAndCompletes : Obligations.VectorUnitIssuesAndCompletes := by
  unfold Obligations.VectorUnitIssuesAndCompletes
  refine ⟨?vdiv, fun t d a w => ⟨?vsqrt, ?vrcp, ?vrsq, ?vexp2, ?vlog2⟩, ?complete⟩
  case vdiv => exact fun t d a b w => .of fun _ => rfl
  case vsqrt | vrcp | vrsq | vexp2 | vlog2 => exact .of fun _ => rfl
  case complete => exact fun c s o due => exec_veUnitComplete_due due

/-! ## Integers and logic -/

/-- An integer operation on two elements raises no flag (R133, R135). -/
theorem VectorTwo.of_iarith {i : VField → VField → VField → BitVec 3 → Instr} {b lat : Nat}
    {op : BitVec (8 * b) → BitVec (8 * b) → BitVec (8 * b)}
    (h : ∀ d a c g s, exec (i d a c g) s = s.iarith b lat d a c g op) :
    VectorTwo i b lat (fun _ _ x y k => (op (elem _ x k) (elem _ y k), 0)) :=
  .of h

/-- Settles O31: the operations of two elements by the meaning they share, and each of the others by the element that its
meaning computes. -/
theorem vectorIntegerResults : Obligations.VectorIntegerResults := by
  unfold Obligations.VectorIntegerResults
  refine ⟨fun t => ⟨?viadd, ?visub, ?vimul, ?vimulh, ?vimin, ?vimax, ?vclamp⟩, ?vwaddI16, ?vwaddI8, ?vwaddN16,
    fun t => ⟨?vand, ?vor, ?vxor, ?vnot, ?vshl, ?vshr, ?vsra, ?vrshr⟩, ?vmacb, ?vimulrHalf, ?vimulrFull, ?vnarb⟩
  case viadd => exact .of_iarith (op := (· + ·)) fun _ _ _ _ _ => rfl
  case visub => exact .of_iarith (op := (· - ·)) fun _ _ _ _ _ => rfl
  case vimul => exact .of_iarith (op := (· * ·)) fun _ _ _ _ _ => rfl
  case vimulh => exact .of_iarith (op := mulHigh t.unsigned) fun _ _ _ _ _ => rfl
  case vimin => exact .of_iarith (op := fun x y => if lessE t.unsigned x y then x else y) fun _ _ _ _ _ => rfl
  case vimax => exact .of_iarith (op := fun x y => if lessE t.unsigned x y then y else x) fun _ _ _ _ _ => rfl
  case vand => exact .of_iarith (op := (· &&& ·)) fun _ _ _ _ _ => rfl
  case vor => exact .of_iarith (op := (· ||| ·)) fun _ _ _ _ _ => rfl
  case vxor => exact .of_iarith (op := (· ^^^ ·)) fun _ _ _ _ _ => rfl
  case vshl => exact .of_iarith (op := fun x y => x <<< (y.toNat % (8 * t.bytes))) fun _ _ _ _ _ => rfl
  case vshr => exact .of_iarith (op := fun x y => x >>> (y.toNat % (8 * t.bytes))) fun _ _ _ _ _ => rfl
  case vsra => exact .of_iarith (op := fun x y => x.sshiftRight (y.toNat % (8 * t.bytes))) fun _ _ _ _ _ => rfl
  case vrshr => exact .of_iarith (op := fun x y => roundShift x (y.toNat % (8 * t.bytes))) fun _ _ _ _ _ => rfl
  case vnot => exact .of fun _ _ _ _ => rfl
  case vclamp | vwaddI16 | vwaddI8 | vwaddN16 | vimulrHalf | vimulrFull => exact .of fun _ _ _ _ _ => rfl
  case vmacb => exact fun q => .of fun _ _ _ _ _ => rfl
  case vnarb => exact fun q d a g => .of fun _ => rfl

/-! ## Compares, selection and conversion -/

/-- Settles O33, each instruction by its meaning under the gate. -/
theorem vectorCompareSelectConvert : Obligations.VectorCompareSelectConvert := by
  unfold Obligations.VectorCompareSelectConvert
  refine ⟨?vcmp, ?vfcmp, ?vpand, ?vpor, ?vpnot, ?vsel, fun dst src d a k => ⟨?vcvtLow, ?vcvtHigh⟩, ?vqnt⟩
  case vcmp | vfcmp => exact fun c t p a b g => .of fun _ => rfl
  case vpand | vpor => exact fun p a b g => .of fun _ => rfl
  case vpnot => exact fun p a g => .of fun _ => rfl
  case vsel => exact fun t d a b g => .of fun _ => rfl
  case vcvtLow | vcvtHigh => exact .of fun _ => rfl
  case vqnt => exact fun dst d a b k => .of fun _ => rfl

/-! ## Permutes and keys -/

/-- Settles O34: each instruction by its meaning under the gate, and a Morton key digit by digit. -/
theorem vectorPermuteResults : Obligations.VectorPermuteResults := by
  unfold Obligations.VectorPermuteResults
  refine ⟨fun t => ⟨?vperm, ?vshuf, ?viota⟩, fun n d a g => ⟨?vrot, ?vrmrg⟩, ?vbcast, ?vextr, ?vscan, ?vkey, ?morton⟩
  case vperm => exact .of fun _ _ _ _ _ => rfl
  case vshuf => exact fun p => .of fun _ _ _ _ => rfl
  case viota => exact fun start d g => .of fun _ => rfl
  case vrot => exact .of fun _ => rfl
  case vrmrg => exact fun s ready => State.issue_ready ready _
  case vbcast => exact fun blk i d a g => .of fun _ => rfl
  case vextr => exact fun wide i d a g => .of fun _ => rfl
  case vscan => exact fun op d a g => .of fun _ => rfl
  case vkey => exact fun t => .of fun _ _ _ _ _ => rfl
  case morton =>
    intro x y z i
    have word2 (c : Nat) (hi : i < 32) (hc : c < 2) := testBit_interleave [x, y] 32 hi hc
    have word3 (c : Nat) (hi : i < 21) (hc : c < 3) := testBit_interleave [x, y, z] 21 hi hc
    exact ⟨fun hi => ⟨word2 0 hi (by decide), word2 1 hi (by decide)⟩,
      fun hi => ⟨word3 0 hi (by decide), word3 1 hi (by decide), word3 2 hi (by decide)⟩⟩

end Sys2Proof
end

section
/-!
PROOFS. Exact registers: what a lane's sum is inside and outside its range (R76, R78), and the instructions on x registers
(R150 to R153).
-/

namespace Sys2Proof.Machine

/-- The integers that a lane holds (R77). -/
def XLane.Fits (n : Int) : Prop := -(2 ^ 447) ≤ n ∧ n < 2 ^ 447

theorem XLane.fits_greatest : XLane.Fits (2 ^ 447 - 1) := by
  have : (0 : Int) < 2 ^ 447 := by positivity
  constructor <;> omega

theorem XLane.fits_least : XLane.Fits (-(2 ^ 447)) := by
  have : (0 : Int) < 2 ^ 447 := by positivity
  constructor <;> omega

/-- A lane whose sum has been replaced holds the new one. -/
theorem XLane.int_ofInt (l : XLane) (sat : Bool) {n : Int} (h : XLane.Fits n) :
    XLane.int { l with x := BitVec.ofInt 448 n, xsat := sat } = n :=
  BitVec.toInt_ofInt_eq_self (by decide) h.1 h.2

/-- A sum inside the range is exact and raises nothing. -/
theorem XLane.sum_of_fits {l : XLane} {t : Int} (h : XLane.Fits (l.int + t)) :
    l.sum t = ({ l with x := BitVec.ofInt 448 (l.int + t) }, 0) := by
  obtain ⟨low, high⟩ := h
  simp only [XLane.sum]
  rw [if_neg (by omega), if_neg (by omega)]

/-- A sum above the range gives the greatest integer, marked. -/
theorem XLane.sum_of_above {l : XLane} {t : Int} (h : 2 ^ 447 ≤ l.int + t) :
    l.sum t = ({ l with x := BitVec.ofInt 448 (2 ^ 447 - 1), xsat := true }, fXSAT) := by
  simp only [XLane.sum]
  rw [if_pos (by omega)]

/-- A sum below the range gives the least integer, marked. -/
theorem XLane.sum_of_below {l : XLane} {t : Int} (h : l.int + t < -(2 ^ 447)) :
    l.sum t = ({ l with x := BitVec.ofInt 448 (-(2 ^ 447)), xsat := true }, fXSAT) := by
  have small : ¬ (2 ^ 447 - 1 < l.int + t) := by
    have : (0 : Int) < 2 ^ 447 := by positivity
    omega
  simp only [XLane.sum]
  rw [if_neg small, if_pos h]

/-- Two terms whose sums fit give the exact sum of both, and raise nothing. -/
theorem XLane.sum_sum_of_fits {l : XLane} {a b : Int} (ha : XLane.Fits (l.int + a)) (hab : XLane.Fits (l.int + a + b)) :
    (l.sum a).1.sum b = ({ l with x := BitVec.ofInt 448 (l.int + a + b) }, 0) := by
  have first : (l.sum a).1.int = l.int + a := by rw [sum_of_fits ha]; exact l.int_ofInt l.xsat ha
  rw [sum_of_fits (first ▸ hab), first, sum_of_fits ha]

end Sys2Proof.Machine

namespace Sys2Proof

open Machine

/-- Settles O35: each instruction by its meaning under the gate, and a lane's sum by where it lies. -/
theorem exactRegisterResults : Obligations.ExactRegisterResults := by
  unfold Obligations.ExactRegisterResults
  refine ⟨?xclr, ?xacc, ?xsca, ?xred, ?xrnd, fun l a b => ⟨?exact, ?above, ?below⟩⟩
  case xclr => exact fun x g => .of fun _ => rfl
  case xacc => exact fun x a g => .of fun _ => rfl
  case xsca => exact fun e x a b g => .of fun _ => rfl
  case xred => exact fun n x a g => .of fun _ => rfl
  case xrnd => exact fun b d a g => .of fun _ => rfl
  case exact =>
    intro ha hb hab
    have swapped : l.int + b + a = l.int + a + b := by omega
    rw [XLane.sum_sum_of_fits ha hab, XLane.sum_sum_of_fits hb (swapped ▸ hab), swapped]
    exact ⟨rfl, l.int_ofInt l.xsat hab, rfl, rfl⟩
  case above =>
    intro h
    rw [XLane.sum_of_above h]
    exact ⟨l.int_ofInt true XLane.fits_greatest, rfl, rfl⟩
  case below =>
    intro h
    rw [XLane.sum_of_below h]
    exact ⟨l.int_ofInt true XLane.fits_least, rfl, rfl⟩

end Sys2Proof
end

section
/-!
PROOFS. Memory in canonical form: memory at reset has it, and a step that writes the safe tier back to HBM need not keep it.
-/

namespace Sys2Proof

open Machine

/-- Settles O9: memory at reset lists nothing. -/
theorem resetMemoryCanonical : Obligations.ResetMemoryCanonical := by
  unfold Obligations.ResetMemoryCanonical MemoryCanonical
  rw [reset_hbm, reset_hostMem]
  exact ⟨Memory.wf_nil, Memory.wf_nil⟩

/-- Memory lists nothing, so it is canonical; the safe tier (R404) lists a byte that reads as an unlisted one. -/
def zeroOnTier : State := { State.reset with tier := { Tier.init with cells := [(0, 0)] } }

theorem memoryCanonical_zeroOnTier : MemoryCanonical zeroOnTier := ⟨rfl, rfl⟩

/-- Writing the checkpoint back to HBM (R404) takes the tier's list as it stands. -/
theorem hbm_tierBackEffect {s : State} (h : s.tier ≠ Tier.init) : (tierBackEffect s).hbm = s.tier.cells := by
  rw [tierBackEffect, if_neg h]

/-- Refutes O10: canonical form says nothing of the safe tier, and a checkpoint whose list is not canonical, written back to HBM (R404),
leaves HBM with that list. The statement allows every such state; the checkpoints that the model writes are lists of HBM itself. -/
theorem not_memoryCanonicalKept : ¬ Obligations.MemoryCanonicalKept := by
  unfold Obligations.MemoryCanonicalKept
  intro kept
  let s : State := { zeroOnTier with agenda := [.registerWrite .tierback 0] }
  have steps : step s = .next (tierBackEffect zeroOnTier) := rfl
  obtain ⟨hbm, -⟩ := kept s _ memoryCanonical_zeroOnTier steps
  rw [hbm_tierBackEffect (by decide)] at hbm
  exact absurd hbm (by decide)

end Sys2Proof
end

section
/-!
PROOFS. The step of a group of one instruction: what becomes of the group by how its member ended, the checks before it, and the
issue slot around it.
-/

namespace Sys2Proof.Machine

/-! ## A group of one instruction -/

/-- An answer after which, where it is a state, more is done. -/
def andThen (f : State → State) : Answer → Answer
  | .next u => .next (f u)
  | .fault r => .fault r
  | .refused r => .refused r

/-- The engine as a group of line `l` finds it: the line noted in the loop buffer (R52), the marks of the last try cleared (log 2). -/
def State.noted (s : State) (l : Line) : State :=
  s.modCtx (fun c => { (c.keepLine (ptLine c.pt) l) with stuck := false, why := [], target := none, falls := false })

/-- The state in which the one member of a group runs. -/
def State.member (s : State) (l : Line) (n : Nat) (w : Syl) : State := { s.noted l with syl := w, idx := BitVec.ofNat 4 n }

theorem State.stuck_noted (s : State) (l : Line) : (s.noted l).ctx.stuck = false := by
  rw [noted, State.ctx_modCtx]

/-- The order in which members run is no matter where there is one. -/
theorem filter_append_filter_not_singleton {α : Type} (p : α → Bool) (m : α) :
    [m].filter p ++ [m].filter (fun m => !p m) = [m] := by
  cases h : p m <;> simp [h]

section
variable {y : State} {l : Line} {n : Nat} {w : Syl} {i : Instr}

/-- A group of one member that has met a trap, a page request or a stop ends with it. -/
theorem runMembers_met {m : GroupRun} (met : (y.noted l).memberMet (exec i (y.member l n w)) = some m) :
    runMembers none [(n, w, i)] (y.noted l) = m := by
  unfold State.member at met
  simp [runMembers, met, State.stuck_noted]

/-- A group of one member that goes on is stuck where the member waits, and has issued where it does not. -/
theorem runMembers_next {u : State} (run : exec i (y.member l n w) = .next u) (met : (y.noted l).memberMet (.next u) = none) :
    runMembers none [(n, w, i)] (y.noted l) = if u.ctx.stuck then .stuck u else .issued u := by
  unfold State.member at run
  simp [runMembers, run, met]

/-- What becomes of a group of one member whose checks have passed, by how its run ended. -/
def State.settled (y : State) (l : Line) (i : Instr) : GroupRun → Answer
  | .fault f => .fault f
  | .refused r => .refused r
  | .trapped r => .next ((y.modCtx (fun x => { x with wait := none })).takeTrap y.focus r)
  | .stuck t => .next (y.keepWaiting t [i])
  | .parked t => .next (y.keepParked t)
  | .issued t =>
    if y.waitsBank t then .next (y.keepWaiting ((y.noted l).noteWait [.bank]) [i])
    else if y.cur.hand.isSome ∧ (y.takeGroup t).cur.hand.isNone then .next (y.takeGroup t)
    else .next ((y.takeGroup t).moveOn l [i])

theorem issueGroup_one (opened : y.groupClosed [i] = none) (idle : y.eng = .ce → y.cur.ceBusy y.cycle = false) :
    y.issueGroup l [(n, w, i)] = y.settled l i (runMembers none [(n, w, i)] (y.noted l)) := by
  have notBusy : ¬ (y.eng = .ce ∧ y.cur.ceBusy y.cycle = true) := fun ⟨ce, busy⟩ => by simp [idle ce] at busy
  unfold State.issueGroup State.noted
  simp only [List.map_cons, List.map_nil, opened, filter_append_filter_not_singleton (fun m : Nat × Syl × Instr => readsFirst m.2.2),
    if_neg notBusy]
  generalize runMembers none _ _ = ended
  cases ended <;> rfl

/-- A member that has neither trapped nor asked for a page waits, or goes on (R27, R90, R159). -/
theorem settled_of_goesOn {u : State} (run : exec i (y.member l n w) = .next u) (met : (y.noted l).memberMet (.next u) = none) :
    y.settled l i (runMembers none [(n, w, i)] (y.noted l)) = .next
      (if u.ctx.stuck then y.keepWaiting u [i]
      else if y.waitsBank u then y.keepWaiting ((y.member l n w).noteWait [.bank]) [i]
      else if y.cur.hand.isSome ∧ (y.takeGroup u).cur.hand.isNone then y.takeGroup u
      else (y.takeGroup u).moveOn l [i]) := by
  rw [runMembers_next run met]
  split
  · rfl
  · dsimp only [State.settled]
    split_ifs <;> rfl

/-- A member that answers a state leaves what `afterAlone` says, by the trap or page request that it has met, if any (R283, R358). -/
theorem settled_of_next {u : State} (run : exec i (y.member l n w) = .next u) :
    y.settled l i (runMembers none [(n, w, i)] (y.noted l)) = .next (afterAlone y (y.member l n w) u l i) := by
  have sameRec : (y.member l n w).ctx.lastRec = (y.noted l).ctx.lastRec := rfl
  have sameCtx : (u.core (y.member l n w).focus).ctx (y.member l n w).eng = (u.core (y.noted l).focus).ctx (y.noted l).eng := rfl
  have met {m : GroupRun} (h : (y.noted l).memberMet (.next u) = some m) : runMembers none [(n, w, i)] (y.noted l) = m :=
    runMembers_met (by rw [run, h])
  unfold afterAlone
  dsimp only
  rw [sameRec, sameCtx]
  generalize hx : (u.core (y.noted l).focus).ctx (y.noted l).eng = x
  by_cases same : x.lastRec = (y.noted l).ctx.lastRec
  · rw [if_neg (not_not.mpr same)]
    cases state : x.run with
    | fetchParked a b c =>
      rw [met (m := .parked u) (by simp [State.memberMet, hx, same, state])]
      rfl
    | running | halting | halted => exact settled_of_goesOn run (by simp [State.memberMet, hx, same, state])
  · rw [if_pos same]
    cases trap : x.lastRec with
    | none => exact settled_of_goesOn run (by simp [State.memberMet, hx, trap, trap ▸ same])
    | some r =>
      rw [met (m := .trapped r.1) (by simp [State.memberMet, hx, trap, trap ▸ same])]
      rfl

/-- A group of one member whose checks have passed answers what its execution does, with what follows it. -/
theorem issueGroup_of_exec (opened : y.groupClosed [i] = none) (idle : y.eng = .ce → y.cur.ceBusy y.cycle = false) :
    y.issueGroup l [(n, w, i)] =
      andThen (fun u => afterAlone y (y.member l n w) u l i) (exec i (y.member l n w)) := by
  rw [issueGroup_one opened idle]
  cases run : exec i (y.member l n w) with
  | next u => exact settled_of_next run
  | fault f => rw [runMembers_met (m := .fault f) (by rw [run]; rfl)]; rfl
  | refused q => rw [runMembers_met (m := .refused q) (by rw [run]; rfl)]; rfl

end

/-! ## The issue slot -/

/-- A line that passes the checks of R28 to R35 at the engine's point, where its group has one member, issues that group. -/
theorem issueAt_one {x : State} {l : Line} {n : Nat} {w : Syl} {i : Instr} (held : x.cached x.focus x.ctx.pt = some l)
    (engine : Line.engine l = x.eng) (whole : Line.brokenAt l (ptSyl x.ctx.pt).toNat = false)
    (starts : Line.startFault l (ptSyl x.ctx.pt).toNat = none)
    (members : Line.members l x.eng (ptSyl x.ctx.pt).toNat = [(n, w, .ok i)])
    (fields : (x.modCtx (fun x => { x with frozen := false })).fieldBad i = false) (alone : groupFault x.eng [i.uses x.eng] = none) :
    x.issueAt =
      ((x.modCtx (fun x => { x with frozen := false })).modCtx (fun x => { x with starting := false })).issueGroup l [(n, w, i)] := by
  have legal : (x.modCtx (fun x => { x with frozen := false })).memberFault l [(n, w, .ok i)] = none := by
    simp [State.memberFault, fields]
  unfold State.issueAt
  simp [held, engine, whole, starts, members, legal, alone, Except.toOption]

/-- An issue slot whose engine may issue, with no bubble and nothing to let go first, issues the engine's group (R27, R96, R99). -/
theorem issueSlot_of_free {s : State} {t : IssueSlot} (first : t.again = false) (may : s.mayIssue t.core t.eng = true)
    (free : t.eng = .scu → (s.core t.core).hcallPending = false) (bubble : ((s.core t.core).ctx t.eng).bubble = 0)
    (turn : t.late = true ∨ s.yieldsFlag t.core t.eng = false) :
    s.issueSlot t = andThen (fun u => u.retries (s.core t.core) t.core) (s.at_ t.core t.eng).issueAt := by
  have go : ¬ ((!s.mayIssue t.core t.eng) = true ∨ (t.eng = .scu ∧ (s.core t.core).hcallPending = true)) := by
    rintro (h | ⟨h, busy⟩)
    · simp [may] at h
    · simp [free h] at busy
  have once : ¬ (t.again = true ∧ (!((s.core t.core).ctx t.eng).pushStuck s.cycle) = true) := by simp [first]
  have here : ¬ ((!t.late) = true ∧ s.yieldsFlag t.core t.eng = true) := by
    rcases turn with h | h <;> simp [h]
  unfold State.issueSlot
  rw [if_neg go, if_neg once, if_neg (not_not.mpr bubble), if_neg here]
  cases (s.at_ t.core t.eng).issueAt <;> rfl

/-- A step in which an issue slot is next, and no older claim of a stash bank (R159). -/
theorem step_of_turn {s : State} {t : IssueSlot} {r : List IssueSlot} (ha : s.agenda = []) (ht : s.turn = t :: r)
    (early : s.earlySteps = none) : step s = ({ s with turn := r } : State).issueSlot t := by
  unfold step
  rw [ha, ht, early]

end Sys2Proof.Machine

namespace Sys2Proof

open Machine

/-- Settles O6: the step is the issue slot, the slot the engine's group, and the group its one member's execution with what follows. -/
theorem stepIssuesDecodedInstruction : Obligations.StepIssuesDecodedInstruction := by
  unfold Obligations.StepIssuesDecodedInstruction
  intro s t r l n w i x a y z agenda turn early first may free bubble late held engine whole starts members fields alone opened idle
  have slot : step s = andThen (fun u => u.retries (x.core t.core) t.core) x.issueAt :=
    (step_of_turn agenda turn early).trans (issueSlot_of_free first may free bubble late)
  have group : x.issueAt = andThen (fun u => afterAlone y z u l i) (exec i z) :=
    (issueAt_one held engine whole starts members fields alone).trans (issueGroup_of_exec opened idle)
  rw [slot, group]
  cases exec i z <;> rfl

end Sys2Proof
end

section
/-!
PROOFS. The VE's memory instructions at issue, and what the checks of an exact register's image find (R154).
-/

namespace Sys2Proof.Machine

/-! ## The image of an exact register (R154) -/

/-- What the checks of an image's rows find where no row traps. -/
theorem findSome?_rows_eq_none {α : Type} {trap : Nat → Option α} {n : Nat} (h : ∀ k, k < n → trap k = none) :
    (List.range n).findSome? trap = none := by
  rw [List.findSome?_eq_none_iff]
  exact fun k hk => h k (List.mem_range.mp hk)

/-- What they find where row `n` is the first that traps. -/
theorem findSome?_rows_eq_some {α : Type} {trap : Nat → Option α} {n m : Nat} {a : α} (hn : n < m)
    (before : ∀ k, k < n → trap k = none) (here : trap n = some a) : (List.range m).findSome? trap = some a := by
  obtain ⟨r, rfl⟩ : ∃ r, m = n + (r + 1) := ⟨m - n - 1, by omega⟩
  rw [List.range_add, List.findSome?_append, findSome?_rows_eq_none before, List.range_succ_eq_map]
  simp [here]

/-- An image outside the stash is refused with PERM (R154). -/
theorem State.enterImage_outside {s : State} {o : PendOp} (acc : Access) (h : isStash o.addr = false) :
    s.enterImage o acc = .next (s.groupTrap 0x11 o.addr (permDetail acc false)) := by
  simp [State.enterImage, h]

/-- An image none of whose rows traps enters. -/
theorem State.enterImage_enters {s : State} {o : PendOp} {acc : Access} (h : isStash o.addr = true)
    (rows : ∀ n, n < 16 → s.rowTrap (imageAt o.addr n) acc = none) : s.enterImage o acc = .next (s.enterOp o) := by
  simp [State.enterImage, h, findSome?_rows_eq_none rows]

/-- The first of an image's rows that traps does so at the group. -/
theorem State.enterImage_traps {s : State} {o : PendOp} {acc : Access} {n : Nat} {f : BitVec 8 × W64 × W64}
    (h : isStash o.addr = true) (hn : n < 16) (before : ∀ k, k < n → s.rowTrap (imageAt o.addr k) acc = none)
    (row : s.rowTrap (imageAt o.addr n) acc = some (.ok f)) :
    s.enterImage o acc = .next (s.groupTrap f.1 f.2.1 f.2.2) := by
  simp [State.enterImage, h, findSome?_rows_eq_some hn before row]

/-- An instruction whose meaning under the gate is the entering of an image, by what the checks of its rows find. -/
theorem exec_of_enterImage {i : Instr} {s : State} {need : Needs} {acc : Access} (o : State → PendOp) {a : W64}
    (run : exec i s = s.issueTo need (fun s => s.enterImage (o s) acc)) (addr : (o s).addr = a) :
    (s.ready need = true → isStash a = true → (∀ n, n < 16 → s.rowTrap (imageAt a n) acc = none) →
      exec i s = .next (s.enterOp (o s))) ∧
    (s.ready need = true → isStash a = false → exec i s = .next (s.groupTrap 0x11 a (permDetail acc false))) ∧
    (∀ (n : Nat) (f : BitVec 8 × W64 × W64), s.ready need = true → isStash a = true → n < 16 →
      (∀ k, k < n → s.rowTrap (imageAt a k) acc = none) → s.rowTrap (imageAt a n) acc = some (.ok f) →
      exec i s = .next (s.groupTrap f.1 f.2.1 f.2.2)) ∧
    (s.ready need = false → ∃ t, exec i s = .next t ∧ (t = s ∨ OnlyRefuses s t)) := by
  subst addr
  rw [run]
  refine ⟨fun ready stash rows => ?_, fun ready outside => ?_, fun n f ready stash hn before row => ?_,
    fun held => State.issueTo_not_ready held _⟩
  · rw [State.issueTo_ready ready, State.enterImage_enters stash rows]
  · rw [State.issueTo_ready ready, State.enterImage_outside acc outside]
  · rw [State.issueTo_ready ready, State.enterImage_traps stash hn before row]

end Sys2Proof.Machine

namespace Sys2Proof

open Machine

/-- Settles O36: the memory instructions issue under their gate, and XLD and XST then enter by what the checks of their image find. -/
theorem vectorMemoryInstructionsEnter : Obligations.VectorMemoryInstructionsEnter := by
  unfold Obligations.VectorMemoryInstructionsEnter
  refine ⟨?vld, ?vldt, ?vst, ?vstm, ?vldq, ?vgath, ?vscat, ?vpref, fun x m w s => ⟨?xld, ?xst⟩⟩
  case vld | vst => exact fun _ _ _ => .of fun _ => rfl
  case vldt | vstm | vldq => exact fun _ _ _ _ => .of fun _ => rfl
  case vgath | vscat => exact fun _ _ _ _ _ _ => .of fun _ => rfl
  case vpref => exact fun _ _ _ _ _ => .of fun _ => rfl
  case xld =>
    exact exec_of_enterImage (fun s => { PendOp.of (.xld x m w) (some w) with ld := true, addr := s.ctx.eaX m }) rfl rfl
  case xst =>
    exact exec_of_enterImage (fun s => { PendOp.of (.xst x m w) (some w) with
      st := true, addr := s.ctx.eaX m, rows := (List.range 16).map (fun n => s.cur.imageRow x n) }) rfl rfl

end Sys2Proof
end

section
/-!
PROOFS. Accesses that perform: the banks that a step claims (R159), what MEMORY_ACCESS_PERFORM answers (R170), and what loads, atomics,
row loads and gathers do where their access succeeds.
-/

namespace Sys2Proof.Machine

/-! ## Banks (R159) -/

/-- A change of a core that leaves its banks alone leaves the banks that a step claims as free as they were. -/
theorem State.banksFree_modCore {s : State} {c : Nat} {f : Core → Core} (h : (f (s.core c)).banks = (s.core c).banks) :
    (s.modCore c f).banksFree = s.banksFree := by
  have same (b now : Nat) (c' : Nat) : ((s.modCore c f).core c').bankFree b now = (s.core c').bankFree b now := by
    by_cases hc : c' = c
    · subst hc
      simp [Core.bankFree, h]
    · rw [State.core_modCore_other s f hc]
  unfold banksFree
  simp [same]

@[simp] theorem State.banksFree_modCtxOf (s : State) (c : Nat) (e : Engine) (f : Ctx → Ctx) :
    (s.modCore c (fun k => k.modCtx e f)).banksFree = s.banksFree := banksFree_modCore (Core.modCtx_banks _ e f)

@[simp] theorem State.banksFree_send (s : State) (c : Nat) (e : Engine) (n : Nat) (l : List Effect) (fl : W64) (w : Nat) :
    (s.send c e n l fl w).banksFree = s.banksFree := s.banksFree_modCtxOf c e _

@[simp] theorem State.banksFree_setRow (s : State) (c q : Nat) (r : StashRow) : (s.setRow c q r).banksFree = s.banksFree :=
  banksFree_modCore rfl

@[simp] theorem State.banksFree_tell (s : State) (m : MgmtEvent) : (s.tell m).banksFree = s.banksFree := rfl

/-! ## The claims that a step has settled -/

theorem State.settle_of_free {t : State} (free : t.banksFree = true) (s : State) (c : Nat) (w : Claimant) :
    s.settle t c w = t.takeBanks := by
  simp [settle, free]

theorem State.settle_of_taken {t : State} (taken : t.banksFree = false) (s : State) (c : Nat) (w : Claimant) :
    s.settle t c w = s.modCore c (fun k => k.noteClaim w s.cycle s.cycle t.claims) := by
  simp [settle, taken]

/-- A step that claims no bank takes none. -/
theorem State.settle_of_no_claims {t : State} (none_ : t.claims = []) (s : State) (c : Nat) (w : Claimant) :
    s.settle t c w = t := by
  have same : ({ t with claims := [] } : State) = t := by rw [← none_]
  rw [settle_of_free (by simp [banksFree, none_])]
  simp [takeBanks, none_, same]

/-! ## An operation that performs (R170) -/

section
variable {c num lane : Nat} {e : Engine} {s t : State} {o : PendOp}

/-- What MEMORY_ACCESS_PERFORM answers where an operation may perform, and what it does leaves a state. -/
theorem exec_perform (held : ((s.core c).ctx e).op? num = some o) (may : s.mayPerform c e o = true)
    (does : performOp c e lane o s = .next t) :
    exec (.memoryAccessPerform c e num lane) s = .next (s.settle t c (.op e num)) := by
  show execMemoryAccessPerform c e num lane s = _
  simp [execMemoryAccessPerform, held, may, does, State.served]

/-- The same where the banks that it claims are free. -/
theorem exec_perform_free (held : ((s.core c).ctx e).op? num = some o) (may : s.mayPerform c e o = true)
    (does : performOp c e lane o s = .next t) (free : t.banksFree = true) :
    exec (.memoryAccessPerform c e num lane) s = .next t.takeBanks := by
  rw [exec_perform held may does, State.settle_of_free free]

end

/-! ## What an operation does where its access succeeds -/

section
variable {c n : Nat} {s u : State} {o : PendOp} {v : Nat} {r : Row}

theorem performLd_ok {t : LdTy} {via : Via} (d : GField) (ok : s.read c o.addr t.bytes via = .ok (v, u)) :
    performLd c t d via o s = .next (u.landG c o.num d o.qid (t.ext v) (o.wait o.addr)) := by
  simp [performLd, ok]

theorem performAtm_ok {op : AtOp} {wide : Bool} (d : GField)
    (ok : s.readWrite c o.addr (if wide then 8 else 4) (fun old =>
      some (op.apply (8 * if wide then 8 else 4) (BitVec.ofNat _ old) (o.val.setWidth (8 * if wide then 8 else 4))).toNat) =
        .ok (v, u)) :
    performAtm c op wide d o s = .next (u.landG c o.num d o.qid (BitVec.ofNat 64 v) (o.wait o.addr)) := by
  simp [performAtm, ok]

theorem performAcas_ok {wide : Bool} (d : GField)
    (ok : s.readWrite c o.addr (if wide then 8 else 4) (casNew (if wide then 8 else 4) o) = .ok (v, u)) :
    performAcas c wide d o s = .next (u.landG c o.num d o.qid (BitVec.ofNat 64 v) (o.wait o.addr)) := by
  simp [performAcas, ok]

theorem performAcas2_ok (d : GField) (ok : s.readWrite c o.addr 16 (casNew 16 o) = .ok (v, u)) :
    performAcas2 c d o s = .next (u.send c .scu o.num (pairEff d (BitVec.ofNat 128 v)) 0 (o.wait o.addr)) := by
  simp [performAcas2, ok]

theorem performVld_ok {swz : Bool} (d : VField) (stash : isStash o.addr = true) (ok : s.readRow c o.addr 0xFF = .ok (r, u)) :
    performVld c d swz o s = .next (u.landV c o.num d o.qid
      (mergeBytes 0 (swizzleRow swz (stashRow o.addr) r) o.mask) (BitVec.allOnes 256) 0 (o.wait o.addr)) := by
  rw [performVld, stash, ok]
  rfl

theorem performVldt_ok {swz : Bool} (d : VField) (stash : isStash o.addr = true)
    (ok : s.vldtFrom c o swz (List.range 8) 0 = .ok (r, u)) :
    performVldt c d swz o s = .next (u.landV c o.num d o.qid r o.mask 0 (o.wait o.addr)) := by
  rw [performVldt, stash, ok]
  rfl

theorem PendOp.wait_of_stash {a : W64} (stash : isStash a = true) (o : PendOp) : o.wait a = 5 + o.part := by
  simp [wait, stash]

/-- A gather without lanes left completes. -/
theorem performVgath_done {j : Nat} (d : BitVec 5) (sh : Bool) (none_ : o.mpc = 0) :
    performVgath c d sh j o s = .next (s.finish c .ve o.num) := by
  simp [performVgath, none_]

theorem performVgath_ok {j : Nat} {sh : Bool} (d : BitVec 5) (enabled : o.mpc.getLsbD j = true) (free : elem 32 o.val2 j = 0)
    (due : isStash (laneAddr o sh j) = true ∨ o.issued + 15 ≤ s.cycle) (ok : s.read c (laneAddr o sh j) 4 = .ok (v, u)) :
    performVgath c d sh j o s = .next (u.sendLane c d o j v (o.wait (laneAddr o sh j))) := by
  have left : o.mpc ≠ 0 := fun h => by simp [h] at enabled
  have mayTry : laneFree o j = true := by simp [laneFree, enabled, free]
  have onTime : s.laneDue o sh j = true := by rcases due with h | h <;> simp [State.laneDue, h]
  rw [performVgath, if_neg left]
  simp [mayTry, onTime, ok]

/-! ## A misaligned global access (R171) -/

theorem State.read_misaligned {a : W64} {via : Via} (global : isStash a = false) (high : slice a 48 15 = 0#15)
    (odd : a.toNat % n ≠ 0) :
    s.read c a n via = .error (.trap 0x10 (BitVec.ofNat 64 n.log2)) := by
  simp [read, global, globalRead, globalCheck, high, odd]

/-- A trap of the access itself names its address. -/
theorem State.failOp_trap (s : State) (c : Nat) (e : Engine) (num : Nat) (a : W64) (acc : Access) (code : BitVec 8) (d : W64) :
    s.failOp c e num a acc (.trap code d) = .next ((s.showMpc c e num).opTrap c e num code a d) := by
  simp [failOp, MemErr.of]

theorem State.claims_takeTrap (s : State) (c : Nat) (r : TrapRec) : (s.takeTrap c r).claims = s.claims := by
  unfold takeTrap
  dsimp only
  split <;> rfl

theorem State.claims_opTrap (s : State) (c : Nat) (e : Engine) (num : Nat) (code : BitVec 8) (a d : W64) :
    (s.opTrap c e num code a d).claims = s.claims := by
  unfold opTrap
  split
  · rfl
  · exact State.claims_takeTrap _ c _

end

end Sys2Proof.Machine

namespace Sys2Proof

open Machine

/-- An operation that may perform, and what it does, under the banks that it claims. -/
theorem PerformsTo.of {c lane : Nat} {e : Engine} {s t : State} {o : PendOp} (held : ((s.core c).ctx e).op? o.num = some o)
    (may : s.mayPerform c e o = true) (does : performOp c e lane o s = .next t) : PerformsTo c e o lane s t :=
  exec_perform held may does

/-- Settles O53: each instruction by what it does where its access succeeds, under the banks that it claims, and a misaligned load by
the trap of the access. -/
theorem loadsPerform : Obligations.LoadsPerform := by
  unfold Obligations.LoadsPerform
  refine ⟨?ld, ?atm, ?vld, ?cas, ?rows, ?gather⟩
  case ld =>
    intro c num s o t d m w held may via load
    have does : performOp c .scu 0 o s = performLd c t d via o s := by
      rcases load with h | h | h <;> simp [performOp, via, h]
    refine ⟨fun v u ok free => ?_, fun claims global high odd => ?_⟩
    · exact exec_perform_free held may (does.trans (performLd_ok d ok)) (by simpa [State.landG] using free)
    · have fails : performOp c .scu 0 o s =
          .next ((s.showMpc c .scu o.num).opTrap c .scu o.num 0x10 o.addr (BitVec.ofNat 64 t.bytes.log2)) := by
        rw [does, performLd, State.read_misaligned global high odd]
        exact s.failOp_trap c .scu o.num o.addr .read 0x10 _
      rw [exec_perform (e := .scu) held may fails, State.settle_of_no_claims (by rw [State.claims_opTrap]; exact claims)]
  case atm =>
    intro c num s o op wide d x b w held may instr n old u ok free
    have does : performOp c .scu 0 o s = performAtm c op wide d o s := by simp [performOp, instr]
    exact exec_perform_free held may (does.trans (performAtm_ok d ok)) (by simpa [State.landG] using free)
  case vld =>
    intro c num s o d m w held may instr stash v u ok free
    have does : performOp c .ve 0 o s = performVld c d (MemOpnd.swizzled m) o s := by simp [performOp, instr]
    rw [exec_perform_free (e := .ve) held may (does.trans (performVld_ok d stash ok)) (by simpa [State.landV] using free),
      o.wait_of_stash stash]
    rfl
  case cas =>
    intro c s o wide d x b w held may late swap
    refine ⟨fun instr old u ok => .of held may ?_, fun instr old u ok => .of held may ?_⟩
    · rw [performOp, instr]
      exact performAcas_ok d ok
    · rw [performOp, instr]
      exact performAcas2_ok d ok
  case rows =>
    intro c s o m p w held may stash
    refine ⟨fun q v u instr ok => .of held may ?_, fun d v u instr ok => .of held may ?_⟩
    · rw [performOp, instr, ← o.wait_of_stash stash]
      exact performVld_ok (.pop q) stash ok
    · rw [performOp, instr, ← o.wait_of_stash stash]
      exact performVldt_ok d stash ok
  case gather =>
    intro c j s o d b sh ix p w held may instr a
    refine ⟨fun none_ => .of held may ?_, fun v u enabled free due ok => .of held may ?_⟩
    · rw [performOp, instr]
      exact performVgath_done d sh none_
    · rw [performOp, instr]
      exact performVgath_ok d enabled free due ok

end Sys2Proof
end

section
/-!
PROOFS. A scalar store that is turned away from its banks (R159): the claim that it notes, and a store whose row fills first.
-/

namespace Sys2Proof.Machine

/-! ## A store that is turned away (R159) -/

@[simp] theorem State.claims_putRow (s : State) (c q : Nat) (v : Row) (m : BMask) : (s.putRow c q v m).claims = s.claims := by
  unfold putRow
  dsimp only
  split <;> rfl

@[simp] theorem State.banksFree_putRow (s : State) (c q : Nat) (v : Row) (m : BMask) :
    (s.putRow c q v m).banksFree = s.banksFree := by
  unfold putRow
  dsimp only
  rw [State.banksFree_setRow]
  split <;> rfl

@[simp] theorem State.claims_stored (s : State) (c : Nat) (e : Engine) (o : PendOp) (a : W64) :
    (s.stored c e o a).claims = s.claims := by
  unfold stored
  split <;> rfl

@[simp] theorem State.banksFree_stored (s : State) (c : Nat) (e : Engine) (o : PendOp) (a : W64) :
    (s.stored c e o a).banksFree = s.banksFree := by
  unfold stored
  split
  · exact s.banksFree_send c e o.num [] 0 (o.wait a)
  · exact s.banksFree_modCtxOf c e _

/-- A scalar store whose row is at hand, one of the banks that its step claims being taken, notes a claim for those. -/
theorem exec_store_turnedAway {c num : Nat} {s u : State} {o : PendOp} {t : StTy} {x : GField} {m : MemOpnd} {w : BitVec 3}
    (held : (s.core c).scu.op? num = some o) (instr : o.instr = .st t x m w) (may : s.mayPerform c .scu o = true)
    (stash : isStash o.addr = true) (row : s.touchPlain c (stashRow o.addr) .write = .ok u) (taken : u.banksFree = false) :
    exec (.memoryAccessPerform c .scu num 0) s =
      .next (s.modCore c (fun k => k.noteClaim (.op .scu num) s.cycle s.cycle u.claims)) := by
  have does : performOp c .scu 0 o s = performSt c t o s := by simp [performOp, instr]
  simp only [performSt, State.write, stash, if_true, State.stashWrite, row] at does
  rw [exec_perform (e := .scu) held may does, State.settle_of_taken (by simp [taken]), State.claims_stored, State.claims_putRow]

/-- The claim that is noted says whether the step that was turned away fills its row (R159, R166). -/
theorem Core.fills_noteClaim (k : Core) (w : Claimant) (since now : Nat) (claims : List (Nat × Nat × Nat)) :
    ((k.noteClaim w since now claims).bankWaits.getLast?.map (fun x => x.fills)) =
      some (claims.any (fun x => decide (x.2.2 = fillRank ∨ x.2.2 = backRank))) := by
  simp [noteClaim]

end Sys2Proof.Machine

namespace Sys2Proof

open Machine

/-- A store of the SCU at the first byte of row 0 of its stash. -/
def storeToRow0 : PendOp :=
  { PendOp.of (.st .n64 (.r 1) { base := 0, mode := .off, field := 0 } 1) (some 1) with num := 1, addr := 1 <<< 63, st := true }

/-- The store may perform; its row is bound to a line that the TLB maps, under the zero option, and has not been filled (R161), and
bank 0, of which the fill claims a sector, is taken in this cycle (R159). -/
def storeBeforeFill : State :=
  { State.reset with
    cycle := 1000, insts := [(1, Inst.init)]
    cores := [(0, { Core.init with
      inst := 1, scu := { Ctx.init with run := .running, pt := 1, ops := [storeToRow0], serial := 1, tok := [(1, 1)] }
      rows := [(0, { StashRow.init with owner := 1, bound := true, zero := true })], banks := [(0, 1001)]
      tlb := [{ slice := 0, s1root := 0, va := 0, logsize := 21, pa := 0, r := true, w := true, x := true, r2 := true, w2 := true,
                key := 0, region := 0, dirty := true, path := [] }] })] }

theorem storeBeforeFill_held : (storeBeforeFill.core 0).scu.op? 1 = some storeToRow0 := rfl

theorem storeBeforeFill_may : storeBeforeFill.mayPerform 0 .scu storeToRow0 = true := by decide +kernel

/-- The row fills, and its fill claims a bank that is taken. -/
theorem storeBeforeFill_fills : ∃ u, storeBeforeFill.touchPlain 0 (stashRow storeToRow0.addr) .write = .ok u ∧ u.banksFree = false ∧
    u.claims.any (fun x => decide (x.2.2 = fillRank ∨ x.2.2 = backRank)) = true := by
  have run : (storeBeforeFill.touchPlain 0 (stashRow storeToRow0.addr) .write).toOption.any (fun u => !u.banksFree &&
      u.claims.any (fun x => decide (x.2.2 = fillRank ∨ x.2.2 = backRank))) = true := by decide +kernel
  cases row : storeBeforeFill.touchPlain 0 (stashRow storeToRow0.addr) .write with
  | error x => simp [row, Except.toOption] at run
  | ok u => exact ⟨u, rfl, by simpa [row, Except.toOption] using run⟩

/-- Refutes O52: the claim of a store that is turned away while its row fills is noted as one that fills (R159, R166), and the
statement's claim is not. -/
theorem not_stashStoresChangeTheirBytes : ¬ Obligations.StashStoresChangeTheirBytes := by
  unfold Obligations.StashStoresChangeTheirBytes
  rintro ⟨scalar, -⟩
  obtain ⟨u, row, taken, fills⟩ := storeBeforeFill_fills
  have stash : isStash storeToRow0.addr = true := by decide
  have stated := (scalar 0 1 storeBeforeFill u storeToRow0 .n64 (.r 1) _ 1 storeBeforeFill_held rfl storeBeforeFill_may stash row).1 taken
  rw [exec_store_turnedAway storeBeforeFill_held rfl storeBeforeFill_may stash row taken] at stated
  injection stated with stated
  have noted := congrArg (fun t => (t.core 0).bankWaits.getLast?.map (fun x => x.fills)) stated
  simp only [State.core_modCore, Core.fills_noteClaim, fills] at noted
  exact absurd noted (by decide)

end Sys2Proof
end

section
/-!
PROOFS. Descriptors at issue (R283): the collectives (R336, R337, R347, R348, R354) and the copies (R272, R277, R286, R293 to R297,
R329).
-/

namespace Sys2Proof.Machine

/-! ## Reading a descriptor (R283) -/

/-- A descriptor in the stash that can be read is gone on with. -/
theorem State.withDesc_read {s t : State} {a : W64} {d : Desc} (stash : isStash a = true)
    (read : s.stashPacket s.focus a = .ok (d, t)) (f : Desc → State → State) : s.withDesc a f = .next (f d t) := by
  simp [withDesc, stash, read]

/-! ## A collective that enters (R336, R348) -/

/-- A change of a group operation changes nothing but what the exchange units hold. -/
theorem State.modXop_only_xops (s : State) (n c : Nat) (gid seq : BitVec 32) (f : XOp → XOp) :
    ∃ l, s.modXop n c gid seq f = { s with xops := l } := by
  unfold modXop
  split <;> exact ⟨_, rfl⟩

theorem State.adoptHeld_only_xops (s : State) (n c : Nat) (h : Contribution) :
    ∃ l, s.adoptHeld n c h = { s with xops := l } := by
  unfold adoptHeld
  split
  · exact ⟨s.xops, rfl⟩
  · exact State.modXop_only_xops _ n c h.gid h.seq _

@[simp] theorem State.cur_setXops (s : State) (l : List XOp) : ({ s with xops := l } : State).cur = s.cur := rfl

theorem Core.chan_queueJob (k : Core) (ch : BitVec 3) (j : Job) : ((k.queueJob ch j).chan ch).jobs = (k.chan ch).jobs ++ [j] := by
  simp [queueJob, chan]

section
variable (s : State) (i : Instr) (ch : BitVec 3) (w : BitVec 3)

/-- A job that starts joins the queues of its channel, behind those that are there. -/
theorem State.jobs_startJob (m : Ends) (j : Nat → Job) :
    ((s.startJob i ch w m j).cur.chan ch).jobs = (s.cur.chan ch).jobs ++ [j (s.ctx.serial + 1)] := by
  rw [startJob, State.cur_modCur, Core.chan_queueJob]
  simp [enterOp, Core.chan]

/-- A collective that starts enters as any job of its channel, and takes the sequence number of its slot; what else is new is what the
exchange units hold. -/
theorem State.startColl_enters (k : CollKind) (d : Desc) : ∃ m j l,
    s.startColl i k ch w d =
      { (s.startJob i ch w m j).modCur (fun c => { c with
          groups := c.groups.set Group.init (d.gslot k).toNat
            { s.cur.group (d.gslot k).toNat with seq := (s.cur.group (d.gslot k).toNat).seq + 1 } }) with xops := l } := by
  unfold startColl
  dsimp only
  obtain ⟨held, adopted⟩ := State.adoptHeld_only_xops _ _ _ _
  rw [adopted]
  obtain ⟨issued, own⟩ := State.modXop_only_xops _ _ _ _ _ _
  rw [own]
  exact ⟨_, _, issued, rfl⟩

theorem State.startColl_seq (k : CollKind) (d : Desc) :
    ((s.startColl i k ch w d).cur.group (d.gslot k).toNat).seq = (s.cur.group (d.gslot k).toNat).seq + 1 := by
  obtain ⟨m, j, l, enters⟩ := s.startColl_enters i ch w k d
  rw [enters, State.cur_setXops, State.cur_modCur]
  simp [Core.group]

theorem State.startColl_jobs (k : CollKind) (d : Desc) :
    ((s.startColl i k ch w d).cur.chan ch).jobs.length = (s.cur.chan ch).jobs.length + 1 := by
  obtain ⟨m, j, l, enters⟩ := s.startColl_enters i ch w k d
  have queued : ((s.startColl i k ch w d).cur.chan ch).jobs = ((s.startJob i ch w m j).cur.chan ch).jobs := by
    rw [enters, State.cur_setXops, State.cur_modCur]
    rfl
  rw [queued, State.jobs_startJob, List.length_append, List.length_singleton]

theorem State.startColl_hbm (k : CollKind) (d : Desc) : (s.startColl i k ch w d).hbm = s.hbm := by
  obtain ⟨m, j, l, enters⟩ := s.startColl_enters i ch w k d
  rw [enters]
  rfl

end

/-! ## A collective with its descriptor (R336, R340, R348, R350) -/

section
variable {s : State} {i : Instr} {k : CollKind} {ch : BitVec 3} {w : BitVec 3} {a : W64} {d : Desc}

/-- A descriptor has a field that raises ILL_FIELD (R340, R350). -/
def State.collIllegal (s : State) (k : CollKind) (d : Desc) : Bool :=
  (if k = .repart then d.repartBad (s.cur.group (d.gslot k).toNat) else d.collBad k (s.cur.group (d.gslot k).toNat)) ||
    s.blockTagged (d.blockAt k)

/-- There is room on the channel and at the exchange unit of the die (R190, R337). -/
def State.collRoom (s : State) (ch : BitVec 3) : Bool :=
  decide ((s.cur.chan ch).jobs.length < 32) && decide (s.opsOnDie (s.focus / 256) < 32)

theorem collEffect_of_illegal (illegal : s.collIllegal k d = true) : collEffect i k ch w a d s = s.groupTrap 0x02 a s.sylDetail :=
  if_pos illegal

theorem collEffect_of_legal (legal : s.collIllegal k d = false) :
    collEffect i k ch w a d s = if s.collRoom ch then s.startColl i k ch w d else s.noteWait [.order] := by
  have full : (32 ≤ s.cur.chanCount ch ∨ 32 ≤ s.opsOnDie (s.focus / 256)) ↔ ¬ s.collRoom ch = true := by
    simp [State.collRoom, Core.chanCount, imp_iff_not_or]
  rw [← ite_not, ← if_congr full rfl rfl]
  exact if_neg (Bool.eq_false_iff.mp legal)

end

/-! ## A peer put that enters (R329) -/

/-- A peer put whose PEER is legal and whose BASE is in the stash takes its entry where its channel has room. -/
theorem pputEffect_enters {s : State} {c : BitVec 3} {b m : BitVec 4} {w : BitVec 3} (legal : slice (s.ctx.ar m) 29 3 = 0#3)
    (stash : isStash (s.ctx.ar b) = true) (room : (s.cur.chan c).jobs.length < 32) :
    pputEffect c b m w s = s.startJob (.pput c b m w) c w putEnds (fun num =>
      { Job.fresh num .put (putDesc (s.ctx.ar b) (s.ctx.ar m)) with base := s.ctx.ar b, peer := s.ctx.ar m }) := by
  have free : ¬ 32 ≤ s.cur.chanCount c := Nat.not_le.mpr room
  simp [pputEffect, legal, stash, State.enterChan, free]

end Sys2Proof.Machine

namespace Sys2Proof

open Machine

/-- An instruction whose meaning under the gate is what it does with its descriptor. -/
theorem IssuesDescriptor.of {i : Instr} {needs : State → Needs} {m : MemOpnd} {effect : W64 → Desc → State → State}
    (h : ∀ s, exec i s = s.issueTo (needs s) (fun s => s.withDesc (s.ctx.ea m 64) (effect (s.ctx.ea m 64)))) :
    IssuesDescriptor i needs m effect := by
  refine fun s => ⟨fun d t ready stash read => ?_, fun held => ?_⟩
  · rw [h s, State.issueTo_ready ready, State.withDesc_read stash read]
  · rw [h s]
    exact State.issueTo_not_ready held _

/-- Settles O41: each instruction by its meaning under the gate; a collective whose fields are legal by what starting it leaves. -/
theorem collectivesIssue : Obligations.CollectivesIssue := by
  unfold Obligations.CollectivesIssue
  refine ⟨fun slot m w => .of fun _ => rfl, fun c m w => ?_⟩
  intro coll
  have settles {i : Instr} {k : CollKind} (issues : ∀ s, exec i s = s.issueColl i k c m w) : coll i k := by
    refine ⟨.of issues, fun a d s => ?_⟩
    intro bad room t
    refine ⟨collEffect_of_illegal, fun legal full => ?waits, fun legal free => ?enters⟩
    case waits => exact (collEffect_of_legal legal).trans (if_neg (Bool.eq_false_iff.mp full))
    case enters =>
      have starts : t = s.startColl i k c w d := (collEffect_of_legal legal).trans (if_pos free)
      rw [starts]
      exact ⟨s.startColl_seq i c w k d, s.startColl_jobs i c w k d, s.startColl_hbm i c w k d⟩
  exact ⟨settles fun _ => rfl, settles fun _ => rfl, settles fun _ => rfl, settles fun _ => rfl, settles fun _ => rfl, settles fun _ => rfl⟩

/-- Settles O37: each instruction by its meaning under the gate, and PPUT by its channel's room. -/
theorem copyIssues : Obligations.CopyIssues := by
  unfold Obligations.CopyIssues
  intro go
  refine ⟨fun c m w => ⟨?cpy, ?cpyt, ?cpym, ?cpymt⟩, fun c b m w s ready legal stash room => ?pput, ?cwprd, ?ccan, ?cbuf, ?cstat⟩
  case cpy | cpyt | cpym | cpymt => exact .of fun _ => rfl
  case pput => exact (State.issue_ready (n := needsCopy w) ready _).trans (congrArg _ (pputEffect_enters legal stash room))
  case cwprd | cbuf | cstat => exact fun _ _ _ _ => .of fun _ => rfl
  case ccan => exact fun _ _ _ => .of fun _ => rfl

end Sys2Proof
end

section
/-!
PROOFS. The barrier object (R205, R207): the 16 bytes that hold it, and what arrivals and credits do to it.
-/

namespace Sys2Proof.Machine

/-! ## Fields of a word -/

theorem getLsbD_field {n w : Nat} (x : BitVec w) (at_ j : Nat) :
    (field x at_ : BitVec n).getLsbD j = (decide (j < n) && (decide (at_ ≤ j) && x.getLsbD (j - at_))) := by
  rw [field, BitVec.getLsbD_shiftLeft, BitVec.getLsbD_setWidth]
  grind

theorem slice_or {n : Nat} (x y : BitVec n) (lo w : Nat) : slice (x ||| y) lo w = slice x lo w ||| slice y lo w :=
  BitVec.extractLsb'_or

/-- The bits of a field are the field. -/
theorem slice_field_same {n w : Nat} (x : BitVec w) {at_ : Nat} (h : at_ + w ≤ n) : slice (field x at_ : BitVec n) at_ w = x := by
  refine BitVec.eq_of_getLsbD_eq fun j hj => ?_
  rw [slice, BitVec.getLsbD_extractLsb', getLsbD_field, Nat.add_sub_cancel_left]
  simp [hj, show at_ + j < n by omega]

/-- Bits that lie outside a field are zero in it. -/
theorem slice_field_outside {n w lo len : Nat} (x : BitVec w) {at_ : Nat} (h : lo + len ≤ at_ ∨ at_ + w ≤ lo) :
    slice (field x at_ : BitVec n) lo len = 0#len := by
  refine BitVec.eq_of_getLsbD_eq fun j hj => ?_
  rw [slice, BitVec.getLsbD_extractLsb', getLsbD_field, BitVec.getLsbD_zero]
  rcases h with below | above
  · simp [show ¬ at_ ≤ lo + j by omega]
  · simp [BitVec.getLsbD_of_ge x (lo + j - at_) (by omega)]

/-! ## The 16 bytes of an object (R205) -/

theorem Bar.bit_phase_eq_field (b : Bar) : (bit b.phase 0 : BitVec 128) = field (BitVec.ofBool b.phase) 0 := by
  cases b.phase <;> rfl

/-- An object whose count is a 32-bit integer is what its bytes hold. -/
theorem Bar.ofBits_bits {b : Bar} (least : -(2 ^ 31) ≤ b.count) (greatest : b.count < 2 ^ 31) : Bar.ofBits b.bits = b := by
  have count : (BitVec.ofInt 32 b.count).toInt = b.count := BitVec.toInt_ofInt_eq_self (by decide) least greatest
  rw [Bar.ofBits, Bar.bits, Bar.bit_phase_eq_field]
  simp only [slice_or, slice_field_same, slice_field_outside, BitVec.getLsbD_or, getLsbD_field, Nat.reduceAdd, Nat.reduceLeDiff,
    true_or, or_true]
  simp [count]

/-! ## Where a phase completes, and where it fails (R207) -/

/-- The object at the beginning of its next phase. -/
def Bar.nextPhase (b : Bar) : Bar :=
  { b with gen := b.gen + 1, phase := (b.gen + 1).getLsbD 0, pend := b.expect, count := 0 }

section
variable {b : Bar}

theorem Bar.settle_completes (pend : b.pend = 0) (count : b.count = 0) : b.settle = (b.nextPhase, false) := by
  simp [settle, nextPhase, pend, count]

theorem Bar.settle_fails (pend : b.pend = 0) (count : b.count < 0) : b.settle = ({ b with status := 2 }, true) := by
  simp [settle, fail, pend, count, count.ne]

theorem Bar.settle_waits (h : b.pend ≠ 0 ∨ 0 < b.count) : b.settle = (b, false) := by
  rcases h with pend | count
  · exact if_neg pend
  · simp [settle, count.ne', count.not_gt]

/-! ## An arrival (R207) -/

theorem Bar.arrive_inactive (h : b.status ≠ 1) (arg : BitVec 32) :
    b.arrive arg = { bar := b, abort := false, trap := some b.status, result := 0 } :=
  if_pos h

/-- An arrival at an object that expects none, or whose count leaves the 32-bit integers, fails it. -/
theorem Bar.arrive_overruns (active : b.status = 1) {arg : BitVec 32}
    (h : b.pend = 0 ∨ b.count + arg.toInt < -(2 ^ 31) ∨ 2 ^ 31 ≤ b.count + arg.toInt) :
    b.arrive arg = { bar := { b with status := 2 }, abort := true, trap := some 1, result := 0 } := by
  unfold arrive
  dsimp only
  rw [if_neg (not_not.mpr active), active]
  split_ifs with pend range
  · rfl
  · rfl
  · have := h.resolve_left pend
    omega

/-- Any other arrival counts, and the object settles. -/
theorem Bar.arrive_settles (active : b.status = 1) {arg : BitVec 32} (pend : b.pend ≠ 0) (least : -(2 ^ 31) ≤ b.count + arg.toInt)
    (greatest : b.count + arg.toInt < 2 ^ 31) :
    let settled := Bar.settle { b with count := b.count + arg.toInt, pend := b.pend - 1 }
    b.arrive arg = { bar := settled.1, abort := settled.2, trap := none, result := b.gen } := by
  have range : ¬ (b.count + arg.toInt < -(2 ^ 31) ∨ 2 ^ 31 - 1 < b.count + arg.toInt) := by omega
  simp only [arrive, active, pend, range, if_false, ne_eq, not_true_eq_false]

/-! ## A credit (R207) -/

theorem Bar.credit_inactive (h : b.status ≠ 1) (n : Nat) : b.credit n = none := if_pos h

theorem Bar.credit_overruns (active : b.status = 1) {n : Nat} (h : b.count - n < -(2 ^ 31)) :
    b.credit n = some ({ b with status := 2 }, true) := by
  simp [credit, fail, active, show b.count - n < -2147483648 from h]

theorem Bar.credit_settles (active : b.status = 1) {n : Nat} (h : -(2 ^ 31) ≤ b.count - n) :
    b.credit n = some (Bar.settle { b with count := b.count - n }) := by
  have range : ¬ b.count - n < -(2 ^ 31) := by omega
  simp only [credit, active, range, if_false, ne_eq, not_true_eq_false]

end

end Sys2Proof.Machine

namespace Sys2Proof

open Machine

/-- Settles O51: the bytes of an object by their fields; an arrival and a credit by what the object settles to. -/
theorem barrierPhasesAdvance : Obligations.BarrierPhasesAdvance := by
  unfold Obligations.BarrierPhasesAdvance
  refine ⟨fun b least greatest => Bar.ofBits_bits least greatest, fun b arg => ?arrival, fun b n => ?credit⟩
  case arrival =>
    intro c
    refine ⟨fun h => Bar.arrive_inactive h arg, fun active h => ?overruns, fun active pend least greatest => ?counts⟩
    case overruns =>
      rw [Bar.arrive_overruns active h]
      exact ⟨rfl, rfl, rfl⟩
    case counts =>
      rw [Bar.arrive_settles active pend least greatest]
      refine ⟨rfl, rfl, fun last count => ?_, fun last count => ?_, fun h => ?_⟩
      · rw [Bar.settle_completes (sub_eq_zero.mpr last) count]
        exact ⟨rfl, rfl⟩
      · rw [Bar.settle_fails (sub_eq_zero.mpr last) count, sub_eq_zero.mpr last]
        exact ⟨rfl, rfl⟩
      · rw [Bar.settle_waits (h.imp_left sub_ne_zero.mpr)]
        exact ⟨rfl, rfl⟩
  case credit =>
    intro c
    refine ⟨fun h => Bar.credit_inactive h n, fun active h => Bar.credit_overruns active h, fun active least => ?_⟩
    rw [Bar.credit_settles active least]
    exact ⟨fun pend count => congrArg some (Bar.settle_completes pend count),
      fun pend count => congrArg some (Bar.settle_fails pend count), fun h => congrArg some (Bar.settle_waits h)⟩

end Sys2Proof
end

section
/-!
PROOFS. The ordering class: its instructions at issue (R189, R202, R210 to R219), and its operations as they complete (R202 to
R218), with ICINV and HCALL (R380, R382).
-/

namespace Sys2Proof.Machine

/-! ## Operations that wait for their turn (R202) -/

section
variable {c num : Nat} {e : Engine} {s : State} {o : PendOp}

theorem exec_fenceComplete_turn {k : FenceKind} {x : Scope} {m : SMask} {w : BitVec 3} (turn : s.orderTurn c e num = some o)
    (instr : o.instr = .fence k x m w) : exec (.fenceComplete c e num) s = .next (s.finish c e num) := by
  show execFenceComplete c e num s = _
  simp [execFenceComplete, turn, instr]

theorem exec_tlsigComplete_turn {d : RF} {w : BitVec 3} (turn : s.orderTurn c e num = some o) (instr : o.instr = .tlsig d w) :
    exec (.tlsigComplete c e num) s = .next (s.finish c e num) := by
  show execTlsigComplete c e num s = _
  simp [execTlsigComplete, turn, instr]

theorem exec_tlwaitComplete_turn {t n : RF} {w : BitVec 3} {c' : Nat} {e' : Engine} (turn : s.orderTurn c e num = some o)
    (instr : o.instr = .tlwait t n w) (target : s.tlTarget c (o.val.setWidth 64) = some (c', e')) :
    exec (.tlwaitComplete c e num) s = .next (if o.addr.toNat ≤ s.timeline c' e' then s.finish c e num else s) := by
  show execTlwaitComplete c e num s = _
  simp only [execTlwaitComplete, turn, instr, target]
  split <;> rfl

end

/-! ## Barrier operations at their object (R206, R207, R217) -/

section
variable {c home : Nat} {e : Engine} {s t : State} {o : PendOp} {acc : Access} {bar : Bar}

/-- An operation that finds its object goes on with it, once the cycle has come to the operation's place (R218). -/
theorem State.withBar_found (stash : isStash o.addr = true) (at_ : s.barHome c (o.val.setWidth 64) = some home)
    (read : s.readBar home o.addr acc = .ok (bar, t)) (f : Nat → Bar → State → Host.Outcome State Fault Refusal) :
    s.withBar c e o acc f = f home bar (t.reachStage ((Instr.barTurn o.instr c e).getD 0)) := by
  simp [withBar, stash, at_, read]

variable {r : RF} {b : BitVec 4} {f : BitVec 6} {w : BitVec 3} (stash : isStash o.addr = true)
  (at_ : s.barHome c (o.val.setWidth 64) = some home)
include stash at_

theorem performOp_binit {lane : Nat} (instr : o.instr = .binit r b f w) (read : s.readBar home o.addr .rw = .ok (bar, t)) :
    performOp c e lane o s = .next (((t.reachStage (barPlace 0 c (engPlace e))).applyBar home o.addr
      (Bar.init (slice o.val 32 16))).finish c e o.num) := by
  rw [performOp, instr]
  exact (State.withBar_found stash at_ read _).trans (by rw [instr]; rfl)

theorem performOp_binv {lane : Nat} (instr : o.instr = .binv r b f w) (read : s.readBar home o.addr .rw = .ok (bar, t)) :
    performOp c e lane o s = .next (((t.reachStage (barPlace 0 c (engPlace e))).applyBar home o.addr bar.inv).finish c e o.num) := by
  rw [performOp, instr]
  exact (State.withBar_found stash at_ read _).trans (by rw [instr]; rfl)

/-- An arrival that meets no trap at an active object sends the generation it arrived in. -/
theorem performOp_barr {lane : Nat} (instr : o.instr = .barr r b f w) (read : s.readBar home o.addr .rw = .ok (bar, t))
    (active : bar.status = 1) (arrives : (bar.arrive (slice o.val 32 32)).trap = none) :
    performOp c e lane o s = .next (((t.reachStage (barPlace 2 c (engPlace e))).applyBar home o.addr
      (bar.arrive (slice o.val 32 32))).send c e o.num
        (RF.bitsEff r (field (bar.arrive (slice o.val 32 32)).result 32) 0xFFFFFFFF00000000#64)) := by
  rw [performOp, instr]
  refine (State.withBar_found stash at_ read _).trans ?_
  simp only [instr, active, arrives, if_true]
  rfl

theorem performOp_btry {lane : Nat} (instr : o.instr = .btry r b f w) (read : s.readBar home o.addr .read = .ok (bar, t)) :
    performOp c e lane o s = .next ((t.reachStage (barPlace 3 0 0)).send c e o.num
      (RF.bitsEff r (field bar.gen 32 ||| field bar.status 30) 0xFFFFFFFFC0000000#64)) := by
  rw [performOp, instr]
  exact (State.withBar_found stash at_ read _).trans (by rw [instr]; rfl)

/-- The first test of a BWAIT at an active object makes it pending. -/
theorem performOp_bwait {lane : Nat} (instr : o.instr = .bwait r b f w) (read : s.readBar home o.addr .read = .ok (bar, t))
    (active : bar.status = 1) :
    performOp c e lane o s = .next ((t.reachStage (barPlace 4 0 0)).modOp c e o.num (fun o =>
      { o with status := .departed, mask := if t.asserted c then 1 else 0 })) := by
  rw [performOp, instr]
  refine (State.withBar_found stash at_ read _).trans ?_
  simp only [instr, active, ne_eq, not_true_eq_false, if_false]
  rfl

/-- A pending BWAIT that the stall wire does not hold ends once the phase of its object is another than the one it waits on. -/
theorem exec_bwaitComplete_pending {num : Nat} (held : ((s.core c).ctx e).op? num = some o) (instr : o.instr = .bwait r b f w)
    (pending : o.status = .departed) (loose : o.mask = 0) (due : s.barOpen c e o.instr = true) (goes : (s.core c).parked e = false)
    (read : s.readBar home o.addr .read = .ok (bar, t)) (active : bar.status = 1) :
    exec (.bwaitComplete c e num) s = .next (if bar.phase ≠ o.val.getLsbD 32 then
      (t.reachStage (barPlace 4 0 0)).finish c e num else t.reachStage (barPlace 4 0 0)) := by
  show execBwaitComplete c e num s = _
  rw [instr] at due
  simp only [execBwaitComplete, held, instr, pending, loose, due, goes]
  refine (if_neg (by decide)).trans ((State.withBar_found stash at_ read _).trans ?_)
  simp only [instr, active, ne_eq, not_true_eq_false, if_false]
  split <;> rfl

end

/-! ## A result that replaces some bits of a register (R216) -/

theorem Core.gr_setG_same (k : Core) {n : BitVec 6} (v : W64) (h : n ≠ 0) : (k.setG n v).gr n = v := by
  simp only [gr, setG, if_neg h, Tbl.get_set_same]

theorem Core.getLsbD_gr_apply_gbits (k : Core) (e : Engine) {n : BitVec 6} (v mask : W64) (j : Nat) (h : n ≠ 0) :
    ((k.apply e (.gbits n v mask)).gr n).getLsbD j = if mask.getLsbD j then v.getLsbD j else (k.gr n).getLsbD j := by
  have reads : (k.apply e (.gbits n v mask)).gr n = (k.gr n &&& ~~~mask) ||| (v &&& mask) := k.gr_setG_same _ h
  rw [reads, BitVec.getLsbD_or, BitVec.getLsbD_and, BitVec.getLsbD_and, BitVec.getLsbD_not]
  by_cases inside : j < 64
  · cases mask.getLsbD j <;> simp [inside]
  · simp [BitVec.getLsbD_of_ge _ j (Nat.not_lt.mp inside)]

/-! ## ICINV and HCALL (R380, R382) -/

section
variable {c : Nat} {s t : State} {o : PendOp}

/-- An ICINV that is due, whose base is in the range of R382, acts. -/
theorem exec_icinvComplete_due {num : Nat} {sc : IcScope} (held : (s.core c).scu.op? num = some o) (due : s.icinvDue o = some sc)
    (range : slice o.addr 48 16 = 0#16) :
    exec (.icinvComplete c num) s =
      .next ((if slice o.val 0 64 = 0#64 then s else s.invalidate c sc o).finish c .scu num) := by
  show execIcinvComplete c num s = _
  simp [execIcinvComplete, held, due, range]

/-- An answer that leaves the argument block as it was lands its status. -/
theorem hcallDone_same (d : GField) (status : W64) (old : BitVec 512) :
    hcallDone c o d status old old t = .next (t.landG c o.num d 0 status) := if_pos rfl

variable {d : GField} {svc : BitVec 6} {old : BitVec 512} {status : W64} (waits : s.hcallOp c = some (o, d, svc))
  (stash : isStash o.addr = true) (read : s.stashPacket c o.addr = .ok (old, t)) (answer : hcallAnswer svc status = true)
include waits stash read answer

theorem exec_hcallComplete_refused (refused : slice status 0 8 ≠ 0#8) :
    exec (.hcallComplete c status old) s = .next (t.landG c o.num d 0 status) := by
  show execHcallComplete c status old s = _
  simp [execHcallComplete, waits, stash, read, answer, refused, hcallDone_same]

theorem exec_hcallComplete_served {u : State} (ok : slice status 0 8 = 0#8) (serves : t.serveHcall c svc old = some u) :
    exec (.hcallComplete c status old) s = .next (u.landG c o.num d 0 status) := by
  show execHcallComplete c status old s = _
  simp [execHcallComplete, waits, stash, read, answer, ok, serves, hcallDone_same]

end

end Sys2Proof.Machine

namespace Sys2Proof

open Machine

/-- Settles O24: each instruction by its meaning under the gate. -/
theorem orderingInstructionsEnter : Obligations.OrderingInstructionsEnter := by
  unfold Obligations.OrderingInstructionsEnter
  refine ⟨?fence, ?mark, ?tlsig, ?tlwait, ?tlrd, fun r b o w => ⟨?binit, ?barr, ?bwait, ?btry, ?binv⟩⟩
  case fence => exact fun _ _ _ _ => .of fun _ => rfl
  case mark => exact fun _ => .of fun _ => rfl
  case tlsig => exact fun _ _ => .of fun _ => rfl
  case tlwait | tlrd => exact fun _ _ _ => .of fun _ => rfl
  case binit | barr | bwait | btry | binv => exact .of fun _ => rfl

/-- Settles O50: each operation by what it does in its turn, at its object where it has one. -/
theorem orderingOperationsComplete : Obligations.OrderingOperationsComplete := by
  unfold Obligations.OrderingOperationsComplete
  refine ⟨?fence, ?tlsig, ?tlwait, ?bwait, ?perform, ?bits, ?icinv, ?hcall⟩
  case fence => exact fun c e num s o k x m w turn instr => exec_fenceComplete_turn turn instr
  case tlsig => exact fun c e num s o d w turn instr => exec_tlsigComplete_turn turn instr
  case tlwait => exact fun c e num s o t n w c' e' turn instr target => exec_tlwaitComplete_turn turn instr target
  case bwait =>
    exact fun c e num s o r b f w home bar t held instr pending loose due goes stash at_ read active =>
      exec_bwaitComplete_pending stash at_ held instr pending loose due goes read active
  case perform =>
    intro c e s o r b f w home bar held may stash at_ place
    refine ⟨fun t read => ⟨fun instr => ?binit, fun instr => ?binv, ?barr⟩, fun t read => ⟨fun instr => ?btry, fun instr active => ?first⟩⟩
    case binit => exact .of held may (performOp_binit stash at_ instr read)
    case binv => exact .of held may (performOp_binv stash at_ instr read)
    case barr =>
      intro out instr active arrives
      exact .of held may (performOp_barr stash at_ instr read active arrives)
    case btry => exact .of held may (performOp_btry stash at_ instr read)
    case first => exact .of held may (performOp_bwait stash at_ instr read active)
  case bits => exact fun k e n v mask j h => k.getLsbD_gr_apply_gbits e v mask j h
  case icinv => exact fun c num s o sc held due range => exec_icinvComplete_due held due range
  case hcall =>
    exact fun c status s o d svc old t waits stash read answer => ⟨exec_hcallComplete_refused waits stash read answer,
      fun u => exec_hcallComplete_served waits stash read answer⟩

end Sys2Proof
end

section
/-!
PROOFS. The matrix class: its instructions at issue (R222 to R228, R238 to R245, R252 to R266), the lease of a cluster's array (R223,
R233), and the steps of the array and of the infuser (R223, R229, R238 to R245, R251).
-/

namespace Sys2Proof.Machine

/-! ## The state of a cluster -/

@[simp] theorem State.cluster_setCluster (s : State) (cl : Nat) (x : Cluster) : (s.setCluster cl x).cluster cl = x := by
  simp [State.cluster, State.setCluster]

@[simp] theorem State.cluster_modCore (s : State) (c cl : Nat) (f : Core → Core) : (s.modCore c f).cluster cl = s.cluster cl := rfl

@[simp] theorem State.cluster_modOp (s : State) (c cl : Nat) (e : Engine) (num : Nat) (f : PendOp → PendOp) :
    (s.modOp c e num f).cluster cl = s.cluster cl := rfl

@[simp] theorem State.cluster_meter (s : State) (cl sl : Nat) (rs : List (BitVec 12)) :
    (s.meter sl rs).cluster cl = s.cluster cl := rfl

@[simp] theorem State.core_setCluster (s : State) (c cl : Nat) (x : Cluster) : (s.setCluster cl x).core c = s.core c := rfl

/-- A command that begins takes a path of the array, and nothing of the lease. -/
@[simp] theorem Cluster.take_holder (x : Cluster) (now : Nat) (i : Instr) : (x.take now i).holder = x.holder := by
  unfold Cluster.take
  split <;> rfl

@[simp] theorem Cluster.take_rem (x : Cluster) (now : Nat) (i : Instr) : (x.take now i).rem = x.rem := by
  unfold Cluster.take
  split <;> rfl

@[simp] theorem MxState.dropHead_standing (m : MxState) : m.dropHead.standing = m.standing := rfl

/-! ## The end of a tenure (R223 steps 5 and 6) -/

theorem State.endTenure_of_holder_none {s : State} {cl : Nat} (free : (s.cluster cl).holder = none) (at_ : Nat) : s.endTenure cl at_ = s := by
  simp [endTenure, free]

theorem State.holder_endTenure (s : State) (cl at_ : Nat) : ((s.endTenure cl at_).cluster cl).holder = none := by
  cases holder : (s.cluster cl).holder with
  | none => rwa [endTenure_of_holder_none holder]
  | some p => simp [endTenure, holder]

theorem State.rem_endTenure {s : State} {cl : Nat} (spent : (s.cluster cl).rem = 0) (at_ : Nat) :
    ((s.endTenure cl at_).cluster cl).rem = 0 := by
  cases holder : (s.cluster cl).holder with
  | none => rwa [endTenure_of_holder_none holder]
  | some p => simp [endTenure, holder]

theorem State.core_endTenure (s : State) (c cl at_ : Nat) : (s.endTenure cl at_).core c = s.core c := by
  cases holder : (s.cluster cl).holder with
  | none => rw [endTenure_of_holder_none holder]
  | some p => simp [endTenure, holder]

/-! ## The lease passes on (R223 step 3) -/

/-- How many positions come after that of the previous holder and before this one. -/
def leaseRank (h p : BitVec 2) : Nat := (p.toNat + 3 - h.toNat) % 4

theorem leaseOrder_rises : ∀ h : BitVec 2, [h + 1, h + 2, h + 3, h].Pairwise (fun p q => leaseRank h p ≤ leaseRank h q) := by
  decide

theorem mem_leaseOrder : ∀ h q : BitVec 2, q ∈ [h + 1, h + 2, h + 3, h] := by decide

/-- What is found first in a list that rises comes before all else that could be found. -/
theorem rank_find?_le {α : Type} {rank : α → Nat} {a : α → Bool} {l : List α} {p q : α}
    (rises : l.Pairwise (fun p q => rank p ≤ rank q)) (found : l.find? a = some p) (mem : q ∈ l) (holds : a q = true) :
    rank p ≤ rank q := by
  obtain ⟨-, before, after, rfl, fails⟩ := List.find?_eq_some_iff_append.mp found
  have late : q ∉ before := fun h => by simpa [holds] using fails q h
  rcases List.mem_cons.mp ((List.mem_append.mp mem).resolve_left late) with rfl | next
  · exact le_rfl
  · exact (List.pairwise_cons.mp (List.pairwise_append.mp rises).2.1).1 q next

section
variable {s : State} {cl : Nat} {p : BitVec 2} (next : s.nextHolder cl = some p)
include next

theorem State.nextHolder_some : (s.cluster cl).holder = none ∧ (s.cluster cl).free ≤ s.cycle ∧
    [(s.cluster cl).h + 1, (s.cluster cl).h + 2, (s.cluster cl).h + 3, (s.cluster cl).h].find?
      (fun p => s.asks (coreAt cl p.toNat)) = some p := by
  unfold nextHolder at next
  dsimp only at next
  split at next
  case isTrue => cases next
  case isFalse passes =>
    rw [not_or, Bool.not_eq_true, Option.isSome_eq_false_iff, Option.isNone_iff_eq_none, Nat.not_lt] at passes
    exact ⟨passes.1, passes.2, next⟩

theorem State.asks_of_nextHolder : s.asks (coreAt cl p.toNat) = true := by
  obtain ⟨-, -, found⟩ := State.nextHolder_some next
  exact List.find?_some (p := fun p : BitVec 2 => s.asks (coreAt cl p.toNat)) found

/-- No core that asks is nearer to the previous holder than the next one. -/
theorem State.nextHolder_nearest {q : BitVec 2} (asks : s.asks (coreAt cl q.toNat) = true) :
    leaseRank (s.cluster cl).h p ≤ leaseRank (s.cluster cl).h q := by
  obtain ⟨-, -, found⟩ := State.nextHolder_some next
  exact rank_find?_le (leaseOrder_rises _) found (mem_leaseOrder _ q) asks

/-- The budget of the tenure is the one that the core's request asks for, at least 1. -/
theorem exec_leaseArbitration_next : exec (.leaseArbitration cl) s = .next (s.setCluster cl { s.cluster cl with
    holder := some p, h := p, since := s.cycle + 1, idle := 0, rem := max 1 (s.core (coreAt cl p.toNat)).mxs.standing }) := by
  have budget (n : Nat) : (if n = 0 then 1 else n) = max 1 n := by split_ifs <;> omega
  show execLeaseArbitration cl s = _
  simp [execLeaseArbitration, next, arbitrateEffect, budget]

end

theorem exec_leaseIdleTimeout_idle {s : State} {cl : Nat} (idle : s.idleOut cl = true) :
    exec (.leaseIdleTimeout cl) s = .next (s.endTenure cl s.cycle) :=
  if_pos idle

/-! ## The head of the sequence (R223 steps 1 and 4, R229, R233) -/

section
variable {c : Nat} {s : State} {m : Cmd} (begins : s.beginsNow c = true) (head : (s.core c).mxs.cmds.head? = some m)
include begins head

theorem exec_arrayCommandBegin_mlease {n : BitVec 10} (instr : m.instr = .mlease n) :
    exec (.arrayCommandBegin c) s = .next (leaseEffect c n s) := by
  obtain ⟨rest, cmds⟩ := List.head?_eq_some_iff.mp head
  show execArrayCommandBegin c s = _
  simp [execArrayCommandBegin, begins, cmds, instr]

theorem exec_arrayCommandBegin_mfree (instr : m.instr = .mfree) : exec (.arrayCommandBegin c) s = .next (freeEffect c s) := by
  obtain ⟨rest, cmds⟩ := List.head?_eq_some_iff.mp head
  show execArrayCommandBegin c s = _
  simp [execArrayCommandBegin, begins, cmds, instr]

/-- Under `notLease` and `notFree` the match on the head is at its last arm. -/
theorem exec_arrayCommandBegin_other (notLease : ∀ n, m.instr ≠ .mlease n) (notFree : m.instr ≠ .mfree) :
    exec (.arrayCommandBegin c) s = .next (beginEffect c m s) := by
  obtain ⟨rest, cmds⟩ := List.head?_eq_some_iff.mp head
  show execArrayCommandBegin c s = _
  simp [execArrayCommandBegin, begins, cmds]

theorem exec_arrayCommandBegin_array (array : m.instr.isArray = true) : exec (.arrayCommandBegin c) s = .next (beginEffect c m s) :=
  exec_arrayCommandBegin_other begins head (fun n instr => by simp [instr, Instr.isArray] at array)
    (fun instr => by simp [instr, Instr.isArray] at array)

end

/-- MLEASE sets the budget of the requests that follow. -/
theorem standing_leaseEffect (c : Nat) (n : BitVec 10) (s : State) : ((leaseEffect c n s).core c).mxs.standing = n.toNat := by
  simp [leaseEffect]

theorem cluster_leaseEffect (c : Nat) (n : BitVec 10) (s : State) (cl : Nat) : (leaseEffect c n s).cluster cl = s.cluster cl := rfl

/-- MFREE withdraws the request. -/
theorem standing_freeEffect (c : Nat) (s : State) : ((freeEffect c s).core c).mxs.standing = 0 := by
  unfold freeEffect
  dsimp only
  split <;> simp [State.core_endTenure]

theorem holder_freeEffect {c : Nat} {s : State} (holds : (s.cluster (clusterOf c)).holder = some (BitVec.ofNat 2 (posOf c))) :
    ((freeEffect c s).cluster (clusterOf c)).holder = none := by
  simp [freeEffect, holds, State.holder_endTenure]

section
variable {c : Nat} {m : Cmd} {s : State}

/-- A command that leaves some of the budget takes 1 of it. -/
theorem lease_beginEffect_goesOn (left : 1 < (s.cluster (clusterOf c)).rem) :
    ((beginEffect c m s).cluster (clusterOf c)).holder = (s.cluster (clusterOf c)).holder ∧
      ((beginEffect c m s).cluster (clusterOf c)).rem = (s.cluster (clusterOf c)).rem - 1 := by
  simp [beginEffect, Nat.not_le.mpr left]

/-- The command that leaves none ends the tenure. -/
theorem lease_beginEffect_ends (last : (s.cluster (clusterOf c)).rem ≤ 1) :
    ((beginEffect c m s).cluster (clusterOf c)).holder = none ∧ ((beginEffect c m s).cluster (clusterOf c)).rem = 0 := by
  simp [beginEffect, last, State.holder_endTenure, State.rem_endTenure]

end

/-! ## Tiles, readouts and completion (R226, R229, R244, R245, R251) -/

theorem exec_tileLoadPerform_lands {c num : Nat} {s : State} {o : PendOp} (held : (s.core c).mx.op? num = some o)
    (read : s.tileReady c o = false) (lands : s.tileLands c o = true) :
    exec (.tileLoadPerform c num) s = .next (landTile c o s) := by
  show execTileLoadPerform c num s = _
  simp [execTileLoadPerform, held, read, lands]

theorem exec_infuserTileForm_forms {c : Nat} {s : State} {m : Cmd} (forms : s.forms c = some m) :
    exec (.infuserTileForm c) s = .next (s.setCluster (clusterOf c) { s.cluster (clusterOf c) with
      formed := (s.cluster (clusterOf c)).formed ++ [{ pos := posOf c, num := m.num, ready := s.cycle + 64 }] }) := by
  show execInfuserTileForm c s = _
  simp [execInfuserTileForm, forms]

theorem exec_mrdxPush_due {c : Nat} {s : State} {o : PendOp} {q : BitVec 3} (due : s.mrdxDue c = some (o, q)) :
    exec (.mrdxPush c) s = .next (mrdxPushEffect c o q s) := by
  show execMrdxPush c s = _
  simp [execMrdxPush, due]

section
variable {c num : Nat} {s : State} {o : PendOp} (held : (s.core c).mx.op? num = some o)
include held

theorem exec_arrayCommandComplete_done (command : (s.core c).mstatDue o = false) (done : s.commandDone c o = true) :
    exec (.arrayCommandComplete c num) s = .next (s.finish c .mx num) := by
  show execArrayCommandComplete c num s = _
  simp [execArrayCommandComplete, held, command, done]

theorem exec_arrayCommandComplete_mstat {d : BitVec 4} {clr : Bool} {w : BitVec 3} (instr : o.instr = .mstat d clr w)
    (due : (s.core c).mstatDue o = true) : exec (.arrayCommandComplete c num) s = .next (mstatEffect c d clr num s) := by
  show execArrayCommandComplete c num s = _
  simp [execArrayCommandComplete, held, due, instr]

end

end Sys2Proof.Machine

namespace Sys2Proof

open Machine

/-- Settles O44: the lease passes to the first request in the order of the positions, and each kind of command that begins by what it
does to the request of its core and to the tenure. -/
theorem leasePassesRoundRobin : Obligations.LeasePassesRoundRobin := by
  unfold Obligations.LeasePassesRoundRobin
  refine ⟨?passes, ?nearest, ?idle, ?begins⟩
  case passes =>
    intro cl s p next
    obtain ⟨free, due, -⟩ := State.nextHolder_some next
    exact ⟨free, due, State.asks_of_nextHolder next, exec_leaseArbitration_next next⟩
  case nearest =>
    intro cl s p q _ next asks hq
    have position : (BitVec.ofNat 2 q).toNat = q := (BitVec.toNat_ofNat q 2).trans (Nat.mod_eq_of_lt hq)
    have := State.nextHolder_nearest next (q := BitVec.ofNat 2 q) (by rwa [position])
    rwa [leaseRank, leaseRank, position] at this
  case idle => exact fun cl s idle => ⟨exec_leaseIdleTimeout_idle idle, s.holder_endTenure cl s.cycle⟩
  case begins =>
    intro c s m begins head
    by_cases lease : ∃ n, m.instr = .mlease n
    · obtain ⟨n, instr⟩ := lease
      refine ⟨_, exec_arrayCommandBegin_mlease begins head instr, ?_⟩
      refine ⟨fun k same => ?_, fun free => ?_, fun array => ?_⟩
      · cases instr.symm.trans same
        exact ⟨standing_leaseEffect c n s, cluster_leaseEffect c n s _⟩
      · cases instr.symm.trans free
      · simp [instr, Instr.isArray] at array
    by_cases free : m.instr = .mfree
    · refine ⟨_, exec_arrayCommandBegin_mfree begins head free, ?_⟩
      refine ⟨fun n lease => ?_, fun _ => ⟨standing_freeEffect c s, holder_freeEffect⟩, fun array => ?_⟩
      · cases free.symm.trans lease
      · simp [free, Instr.isArray] at array
    · exact ⟨_, exec_arrayCommandBegin_other begins head (not_exists.mp lease) free, fun n instr => absurd ⟨n, instr⟩ lease,
        fun instr => absurd instr free, fun _ => ⟨lease_beginEffect_goesOn, lease_beginEffect_ends⟩⟩

/-- Settles O43: each instruction by its meaning under the gate, and REP by its own. -/
theorem matrixInstructionsEnter : Obligations.MatrixInstructionsEnter := by
  unfold Obligations.MatrixInstructionsEnter
  refine ⟨?mlease, ?mfree, ?rep, ?mseed, fun r cls m w => ⟨?mlda, ?mldb, ?mldbt⟩, ?mldu, ?mldp, ?mmul, ?mzero, ?mstat,
    fun d e5 kb ka clr ms w => ⟨?mmulp, ?mmulpt⟩, ?mrd, ?meps, ?mrdx⟩
  case rep => exact fun n s => rfl
  case mfree | mlda | mldb | mldbt | mmulp | mmulpt => exact .of fun _ => rfl
  case mlease => exact fun n => .of fun _ => rfl
  case mseed | mzero => exact fun _ _ => .of fun _ => rfl
  case mldu | mstat | mrd | mrdx => exact fun _ _ _ => .of fun _ => rfl
  case mldp | meps => exact fun r st col m w => .of fun _ => rfl
  case mmul => exact fun t d kb ka clr w => .of fun _ => rfl

/-- Settles O45: each step by what it does where its premise holds. -/
theorem matrixEventsAct : Obligations.MatrixEventsAct := by
  unfold Obligations.MatrixEventsAct
  refine ⟨?lands, ?forms, ?begins, ?pushes, ?completes, ?mstat⟩
  case lands => exact fun c num s o held read lands => exec_tileLoadPerform_lands held read lands
  case forms => exact fun c s m forms => exec_infuserTileForm_forms forms
  case begins =>
    exact fun c s m begins head => ⟨fun n instr => exec_arrayCommandBegin_mlease begins head instr,
      exec_arrayCommandBegin_mfree begins head, exec_arrayCommandBegin_array begins head⟩
  case pushes => exact fun c s o q due => exec_mrdxPush_due due
  case completes => exact fun c num s o held command done => exec_arrayCommandComplete_done held command done
  case mstat => exact fun c num s o d clr w held instr due => exec_arrayCommandComplete_mstat held instr due

end Sys2Proof
end

section
/-!
PROOFS. The orders of service: the caddy (R286), the claimants of stash banks (R159), the virtual channels of a bridge port (R302).
-/

namespace Sys2Proof.Machine

/-! ## Places in an order (R159, R286) -/

section
variable {α β : Type} [LinearOrder β] (key : α → β) (x : α) {l : List α}

/-- An element stands behind those of a list whose key is at most its own. -/
def insertByKey (l : List α) : List α :=
  l.takeWhile (fun y => decide (key y ≤ key x)) ++ x :: l.dropWhile (fun y => decide (key y ≤ key x))

theorem insertByKey_cons (y : α) (l : List α) :
    insertByKey key x (y :: l) = if key x < key y then x :: y :: l else y :: insertByKey key x l := by
  by_cases h : key x < key y
  · simp [insertByKey, h, not_le_of_gt h]
  · simp [insertByKey, h, le_of_not_gt h]

theorem insertByKey_perm (l : List α) : (insertByKey key x l).Perm (x :: l) := by
  simpa [insertByKey] using List.perm_middle (a := x) (l₁ := l.takeWhile (fun y => decide (key y ≤ key x)))
    (l₂ := l.dropWhile (fun y => decide (key y ≤ key x)))

theorem key_le_of_mem_takeWhile {y : α} (h : y ∈ l.takeWhile (fun y => decide (key y ≤ key x))) : key y ≤ key x := by
  simpa using List.mem_takeWhile_imp h

variable (sorted : l.Pairwise (fun a b => key a ≤ key b))
include sorted

theorem lt_key_of_mem_dropWhile {y : α} (h : y ∈ l.dropWhile (fun y => decide (key y ≤ key x))) : key x < key y := by
  induction sorted with
  | nil => cases h
  | @cons z l first _ ih =>
    by_cases before : key z ≤ key x
    · exact ih (by simpa [before] using h)
    · rw [List.dropWhile_cons_of_neg (by simpa using before), List.mem_cons] at h
      rcases h with rfl | later
      · exact lt_of_not_ge before
      · exact (lt_of_not_ge before).trans_le (first y later)

theorem pairwise_insertByKey : (insertByKey key x l).Pairwise (fun a b => key a ≤ key b) := by
  induction sorted with
  | nil => exact List.pairwise_singleton _ x
  | @cons z l first rest ih =>
    rw [insertByKey_cons]
    split
    case isTrue h =>
      refine .cons (fun y hy => ?_) (.cons first rest)
      rcases List.mem_cons.mp hy with rfl | hy
      · exact h.le
      · exact h.le.trans (first y hy)
    case isFalse h =>
      refine .cons (fun y hy => ?_) ih
      rcases List.mem_cons.mp ((insertByKey_perm key x l).mem_iff.mp hy) with rfl | hy
      · exact le_of_not_gt h
      · exact first y hy

end

/-! ## The caddy (R286) -/

theorem insertTimed_eq_insertByKey (t : Timed) (l : List Timed) : insertTimed t l = insertByKey (fun x : Timed => x.time.toNat) t l := by
  induction l with
  | nil => rfl
  | cons x l ih => rw [insertTimed, ih, insertByKey_cons]

theorem insertTimed_sorted (t : Timed) {l : List Timed} (sorted : l.Pairwise (fun a b : Timed => a.time.toNat ≤ b.time.toNat)) :
    (insertTimed t l).Pairwise (fun a b : Timed => a.time.toNat ≤ b.time.toNat) := by
  rw [insertTimed_eq_insertByKey]
  exact pairwise_insertByKey (fun x : Timed => x.time.toNat) t sorted

/-- A timed copy is placed behind those that are not later, and before those that are. -/
theorem insertTimed_splits (t : Timed) {l : List Timed} (sorted : l.Pairwise (fun a b : Timed => a.time.toNat ≤ b.time.toNat)) :
    ∃ p q : List Timed, l = p ++ q ∧ insertTimed t l = p ++ t :: q ∧ (∀ x ∈ p, x.time.toNat ≤ t.time.toNat) ∧
      ∀ x ∈ q, t.time.toNat < x.time.toNat :=
  ⟨_, _, List.takeWhile_append_dropWhile.symm, insertTimed_eq_insertByKey t l,
    fun _ h => key_le_of_mem_takeWhile (fun x : Timed => x.time.toNat) t h,
    fun _ h => lt_key_of_mem_dropWhile (fun x : Timed => x.time.toNat) t sorted h⟩

/-! ## Claimants of stash banks (R159) -/

section
variable {α : Type}

/-- The age of a claimant and its place among those of equal age, in that order. -/
def ageKey (x : Nat × Nat × α) : Nat ×ₗ Nat := toLex (x.1, x.2.1)

theorem ageKey_le_iff (x y : Nat × Nat × α) : ageKey x ≤ ageKey y ↔ x.1 < y.1 ∨ x.1 = y.1 ∧ x.2.1 ≤ y.2.1 :=
  Prod.Lex.toLex_le_toLex

theorem insertAge_eq_insertByKey (x : Nat × Nat × α) (l : List (Nat × Nat × α)) : insertAge x l = insertByKey ageKey x l := by
  induction l with
  | nil => rfl
  | cons y l ih => simp only [insertAge, ih, insertByKey_cons, ageKey, Prod.Lex.toLex_lt_toLex]

/-- Claimants that are placed one after another among sorted ones: none is lost, and all stand sorted. -/
theorem foldl_insertAge (l r : List (Nat × Nat × α)) (sorted : r.Pairwise (fun a b => ageKey a ≤ ageKey b)) :
    (l.foldl (fun r x => insertAge x r) r).Perm (l ++ r) ∧
      (l.foldl (fun r x => insertAge x r) r).Pairwise (fun a b => ageKey a ≤ ageKey b) := by
  induction l generalizing r with
  | nil => exact ⟨.refl r, sorted⟩
  | cons x l ih =>
    rw [List.foldl_cons, insertAge_eq_insertByKey]
    obtain ⟨all, ordered⟩ := ih _ (pairwise_insertByKey ageKey x sorted)
    exact ⟨all.trans (((insertByKey_perm ageKey x r).append_left l).trans List.perm_middle), ordered⟩

theorem byAge_perm (l : List (Nat × Nat × α)) : (byAge l).Perm l := by
  simpa [byAge] using (foldl_insertAge l [] .nil).1

theorem byAge_sorted (l : List (Nat × Nat × α)) : (byAge l).Pairwise (fun a b => a.1 < b.1 ∨ a.1 = b.1 ∧ a.2.1 ≤ b.2.1) :=
  (foldl_insertAge l [] .nil).2.imp fun {a b} h => (ageKey_le_iff a b).mp h

end

/-! ## Stash banks (R159) -/

theorem bankOf_lt {q n : Nat} (h : n < 8) : bankOf (q, n) < 32 := by
  unfold bankOf
  omega

theorem Core.bankFree_takeBank_same (k : Core) (b now : Nat) : (k.takeBank b now).bankFree b now = false := by
  simp only [bankFree, takeBank, Tbl.get_set_same, decide_eq_false_iff_not]
  omega

theorem Core.bankFree_takeBank_other (k : Core) {b d : Nat} (now : Nat) (other : d ≠ b) :
    (k.takeBank b now).bankFree d now = k.bankFree d now := by
  simp only [bankFree, takeBank, Tbl.get_set_other 0 k.banks _ other]

/-- A claimant whose claim has been noted in a cycle has been turned away in it. -/
theorem State.turnedAway_noteClaim (s : State) (c : Nat) (w : Claimant) (since : Nat) (claims : List (Nat × Nat × Nat)) :
    (s.modCore c (fun k => k.noteClaim w since s.cycle claims)).turnedAway c w = true := by
  simp [turnedAway, Core.noteClaim]

/-! ## The virtual channels of a bridge port (R302) -/

section
variable {now : Nat} {ms : List Msg}

/-- The head of a virtual channel has waited 1,024 ring cycles. -/
def hasWaited (now : Nat) (ms : List Msg) (v : BitVec 3) : Bool :=
  (ms.find? (fun m => decide (m.vc = v))).any (fun m => decide (m.since + 1024 * ringCycles ≤ now))

/-- The virtual channels other than time's, in the order of their priority. -/
theorem mem_priorities : ∀ v : BitVec 3, v.toNat < 5 → v ∈ [(4 : BitVec 3), 1, 2, 3, 0] := by decide

theorem head_isSome_eq_any (ms : List Msg) (v : BitVec 3) :
    (ms.find? (fun m => decide (m.vc = v))).isSome = ms.any (fun m => decide (m.vc = v)) := by
  rw [Bool.eq_iff_iff, List.find?_isSome, List.any_eq_true]

theorem pickVc_time (head : ∃ m ∈ ms, m.vc = 5) : pickVc now ms = some 5 := by
  have isSome : (ms.find? (fun m => decide (m.vc = 5))).isSome = true := by simpa using head
  exact if_pos isSome

/-- Without messages of time: the first virtual channel whose head has waited, or else the first that has a head. -/
theorem pickVc_eq (noTime : ∀ m ∈ ms, m.vc ≠ 5) : pickVc now ms =
    ([(4 : BitVec 3), 1, 2, 3, 0].find? (hasWaited now ms)).or
      ([(4 : BitVec 3), 1, 2, 3, 0].find? (fun v => ms.any (fun m => decide (m.vc = v)))) := by
  have empty : ¬ (ms.find? (fun m => decide (m.vc = 5))).isSome = true := by simpa using noTime
  simp only [← head_isSome_eq_any]
  refine (if_neg empty).trans ?_
  show _ = Option.or (List.find? (fun v => (ms.find? (fun m => decide (m.vc = v))).any _) _) _
  cases List.find? (fun v : BitVec 3 => (ms.find? (fun m => decide (m.vc = v))).any
    (fun m => decide (m.since + 1024 * ringCycles ≤ now))) [(4 : BitVec 3), 1, 2, 3, 0] <;> rfl

/-- Where no head has waited so long, priority alone decides. -/
theorem pickVc_of_none_waited (fresh : ∀ m ∈ ms, now < m.since + 1024 * ringCycles) :
    pickVc now ms = [(5 : BitVec 3), 4, 1, 2, 3, 0].find? (fun v => ms.any (fun m => decide (m.vc = v))) := by
  by_cases time : ∃ m ∈ ms, m.vc = 5
  · rw [pickVc_time time, List.find?_cons_of_pos (by simpa using time)]
  · have waited (v : BitVec 3) : hasWaited now ms v = false := by
      rw [hasWaited, Option.any_eq_false]
      exact fun m head => by simpa using fresh m (List.mem_of_find?_eq_some head)
    have noTime : ∀ m ∈ ms, m.vc ≠ 5 := fun m mem vc => time ⟨m, mem, vc⟩
    rw [pickVc_eq noTime, List.find?_cons_of_neg (a := 5) (by simpa using noTime), List.find?_eq_none.mpr (by simp [waited]),
      Option.none_or]

/-- Where a head has waited so long, and there is no message of time, such a head is served. -/
theorem pickVc_of_waited (noTime : ∀ m ∈ ms, m.vc ≠ 5) {v : BitVec 3} {m : Msg} (tenant : v.toNat < 5)
    (head : ms.find? (fun m => decide (m.vc = v)) = some m) (waited : m.since + 1024 * ringCycles ≤ now) :
    ∃ v' m', pickVc now ms = some v' ∧ ms.find? (fun m => decide (m.vc = v')) = some m' ∧ m'.since + 1024 * ringCycles ≤ now := by
  have asked : hasWaited now ms v = true := by simpa [hasWaited, head] using waited
  obtain ⟨v', picked⟩ := Option.isSome_iff_exists.mp (List.find?_isSome.mpr ⟨v, mem_priorities v tenant, asked⟩)
  have served : hasWaited now ms v' = true := List.find?_some picked
  obtain ⟨m', head', waited'⟩ := (Option.any_eq_true _ _).mp served
  refine ⟨v', m', ?_, head', of_decide_eq_true waited'⟩
  rw [pickVc_eq noTime, picked, Option.some_or]

end

end Sys2Proof.Machine

namespace Sys2Proof

open Machine

/-- Settles O39: the caddy and the claimants are kept by insertion behind what may stand before; banks and ports by what each answers. -/
theorem serviceKeepsItsOrder : Obligations.ServiceKeepsItsOrder := by
  unfold Obligations.ServiceKeepsItsOrder
  refine ⟨?caddy, ?claimants, ?banks, ?taken, ?turned, ?port⟩
  case caddy => exact fun t l sorted => ⟨insertTimed_sorted t sorted, insertTimed_splits t sorted⟩
  case claimants => exact fun l => ⟨byAge_perm l, byAge_sorted l⟩
  case banks => exact fun q n sector => ⟨rfl, bankOf_lt sector⟩
  case taken => exact fun k b now => ⟨k.bankFree_takeBank_same b now, fun d other => k.bankFree_takeBank_other now other⟩
  case turned =>
    intro s t c w taken
    rw [State.settle_of_taken taken]
    exact ⟨rfl, s.turnedAway_noteClaim c w s.cycle t.claims⟩
  case port =>
    exact fun now ms => ⟨pickVc_of_none_waited, pickVc_time, fun noTime v m tenant head waited =>
      pickVc_of_waited noTime tenant head waited⟩

end Sys2Proof
end

section
/-!
PROOFS. The copy engine: the addresses of a copy (R275), the caddy's release (R286, R288), a copy's landings (R278, R284, R290, R322)
and its completion (R275, R279).
-/

namespace Sys2Proof.Machine

/-! ## Addresses of a copy (R275) -/

/-- An address whose low `k` bits an offset has moved, modulo `2 ^ k`. -/
def moveLow (k : Nat) (a : W64) (t : Int) : W64 := field (slice a k (64 - k)) k ||| field (slice a 0 k + BitVec.ofInt k t) 0

theorem copyAdr_eq_moveLow (stash : Bool) (a : W64) (t : Int) : copyAdr stash a t = moveLow (if stash then 21 else 48) a t := by
  cases stash <;> simp [copyAdr, moveLow, field]

/-- A word is its high bits and its low bits. -/
theorem field_slice_or_field_slice (a : W64) {k : Nat} (h : k ≤ 64) :
    field (slice a k (64 - k)) k ||| field (slice a 0 k) 0 = a := by
  refine BitVec.eq_of_getLsbD_eq fun j hj => ?_
  rw [BitVec.getLsbD_or, getLsbD_field, getLsbD_field, slice, slice, BitVec.getLsbD_extractLsb', BitVec.getLsbD_extractLsb']
  by_cases low : j < k
  · simp [hj, low]
  · simp [hj, low, show j - k < 64 - k by omega, show k + (j - k) = j by omega, Nat.le_of_not_lt low]

section
variable {k : Nat} (a : W64) (t : Int)

/-- The bits above those that move stay. -/
theorem slice_high_moveLow {lo len : Nat} (above : k ≤ lo) (fits : lo + len ≤ 64) : slice (moveLow k a t) lo len = slice a lo len := by
  rw [moveLow, slice_or, slice_field_outside (w := k) _ (by omega), BitVec.or_zero]
  refine BitVec.eq_of_getLsbD_eq fun j hj => ?_
  rw [slice, BitVec.getLsbD_extractLsb', getLsbD_field]
  simp [slice, hj, show lo + j < 64 by omega, show k ≤ lo + j by omega, show lo + j - k < 64 - k by omega,
    show k + (lo + j - k) = lo + j by omega]

variable (h : k ≤ 64)
include h

theorem slice_low_moveLow : slice (moveLow k a t) 0 k = slice a 0 k + BitVec.ofInt k t := by
  rw [moveLow, slice_or, slice_field_same _ (by omega), slice_field_outside _ (by omega), BitVec.zero_or]

theorem moveLow_zero : moveLow k a 0 = a := by
  simp [moveLow, field_slice_or_field_slice a h]

theorem moveLow_moveLow (u : Int) : moveLow k (moveLow k a t) u = moveLow k a (t + u) := by
  rw [moveLow, slice_high_moveLow a t (le_refl k) (by omega), slice_low_moveLow a t h, BitVec.add_assoc,
    ← BitVec.ofInt_add, ← moveLow]

theorem toNat_slice_low_moveLow :
    ((slice (moveLow k a t) 0 k).toNat : Int) = ((slice a 0 k).toNat + t).emod (2 ^ k) := by
  have nonneg : 0 ≤ t % ((2 ^ k : Nat) : Int) := Int.emod_nonneg t (by positivity)
  rw [slice_low_moveLow a t h, BitVec.toNat_add, BitVec.toNat_ofInt, Int.natCast_emod, Int.natCast_add, Int.toNat_of_nonneg nonneg,
    Int.add_emod_emod, Nat.cast_pow]
  rfl

end

/-! ## The caddy's release (R286, R288) -/

theorem exec_caddyRelease_due {c : Nat} {s : State} {t : Timed} (due : s.dueTimed c = some t) :
    exec (.caddyRelease c) s = .next (s.modCore c (fun k =>
      ({ k with
          caddy := k.caddy.filter (fun u : Timed => decide (u.job.num ≠ t.job.num))
          ce := k.ce.requeue t.job.num } : Core).queueJob t.chan
        { t.job with num := k.ce.serial + 1, late := decide (t.time.toNat < (s.gtime - (s.instOf c).freeze).toNat) })) := by
  show execCaddyRelease c s = _
  simp only [execCaddyRelease, due]

/-! ## A copy's landings (R278, R284, R290, R311, R322) -/

section
variable {c : Nat} {ch : BitVec 3} {s u : State} {j : Job} {f far : Option FarReply}

/-- A copy whose home and grant admit it lands its next run, where there is something to land, an answer answers its message under way,
and the receivers of a multicast have decided. -/
theorem State.landCopy_run (home : s.homeDenied c j = false) (grant : s.grantDenied c j = false) (run : 0 < s.runLen c ch j)
    (answer : f = none ∨ (j.asked.isSome = true ∧ s.stillHere c (.chan ch.toNat) = false)) (decided : j.kind = .mcast → j.recv ≠ [])
    (lands : s.landRun c ch j f = .ok u) : s.landCopy c ch j f = .next u := by
  have goes : ¬ (s.runLen c ch j = 0 ∨ (f.isSome ∧ (j.asked.isNone ∨ s.stillHere c (.chan ch.toNat)))) := by
    rcases answer with rfl | ⟨asked, left⟩
    · simp [run.ne']
    · simp [run.ne', Option.isSome_iff_ne_none.mp asked, left]
  have cast : ¬ (j.kind = .mcast ∧ j.recv = []) := fun h => decided h.1 h.2
  simp only [landCopy, home, grant, Bool.false_eq_true, if_false, if_neg goes, if_neg cast, lands]

/-- COPY_LANDING of a copy that is not cancelled, that its channel's cycle has room for and that has bytes to land. -/
theorem exec_copyLanding_copies (moving : s.movingJob c ch = some j) (stands : j.cancelled = false) (copies : j.kind.copies = true)
    (more : j.landedAll ((s.core c).chan ch).prog = false) (room : j.asked = none ∨ j.part ≤ (s.core c).left ch.toNat) :
    exec (.copyLanding c ch far) s = s.served c (.chan ch.toNat)
      (({ s with claims := [] } : State).landCopy c ch j (far <|> ((s.core c).chan ch).kept)) := by
  have fits : ¬ (j.asked.isSome ∧ (s.core c).left ch.toNat < j.part) := by
    rcases room with asked | room
    · simp [asked]
    · exact fun h => absurd h.2 (Nat.not_lt.mpr room)
  show execCopyLanding c ch far s = _
  simp only [execCopyLanding, moving, stands, Bool.false_eq_true, if_false, if_neg fits, more, Bool.not_false, if_true]
  cases kind : j.kind with
  | coll k => simp [kind, JobKind.copies] at copies
  | copy | mcast | put => rfl

end

/-! ## A copy's completion (R275, R279, R290) -/

section
variable (s : State) (c : Nat) (d : Desc) (j : Job)

theorem State.instOf_later (p : Nat) (l : Late) : (s.later p l).instOf c = s.instOf c := by
  have same : ((s.later p l).core c).inst = (s.core c).inst := by
    by_cases own : c = p
    · subst own
      rw [later, State.core_modCore]
    · rw [later, State.core_modCore_other s _ own]
  rw [instOf, same]
  rfl

/-- Where a copy's other end lies rests on the package map, and not on what waits for the end of the cycle. -/
theorem State.farEnd_later (p : Nat) (l : Late) : (s.later p l).farEnd c d = s.farEnd c d := by
  have target : (s.later p l).ownTarget c = s.ownTarget c := by
    simp only [ownTarget, space, State.instOf_later, State.later_slices]
  simp only [farEnd, target]
  rfl

theorem State.emptyFlag_foldl_later (ps : List Nat) (l : Late) :
    (ps.foldl (fun s p => s.later p l) s).emptyFlag c j = s.emptyFlag c j := by
  induction ps generalizing s with
  | nil => rfl
  | cons p ps ih => rw [List.foldl_cons, ih, emptyFlag, State.farEnd_later, ← emptyFlag]

variable {s c j}

/-- A copy or multicast that raises no flag of another package. -/
theorem State.completeCopy_here (ch : BitVec 3) (kind : j.kind = .copy ∨ j.kind = .mcast) (here : s.emptyFlag c j ≠ some .away) :
    s.completeCopy c ch j =
      ((s.flagCores c j).foldl (fun s p => s.later p (.fadd j.desc.fidx j.desc.famt)) s).endJob c ch j false := by
  simp only [completeCopy, State.emptyFlag_foldl_later, if_neg here]
  rcases kind with kind | kind <;> simp only [kind]

theorem exec_copyComplete_landed {ch : BitVec 3} (moving : s.movingJob c ch = some j) (copies : j.kind.copies = true)
    (landed : j.landedAll ((s.core c).chan ch).prog = true) (credited : ((s.core c).chan ch).owed = [])
    (home : s.homeDenied c j = false) (flag : s.emptyFlag c j = none ∨ s.emptyFlag c j = some .here) :
    exec (.copyComplete c ch) s = .next (s.completeCopy c ch j) := by
  show execCopyComplete c ch s = _
  simp only [execCopyComplete, moving, copies, landed, credited, home]
  rcases flag with flag | flag <;> simp [flag]

end

end Sys2Proof.Machine

namespace Sys2Proof

open Machine

/-- Settles O38: a copy's addresses move in their low 21 or 48 bits. -/
theorem copyAddressesWrap : Obligations.CopyAddressesWrap := by
  unfold Obligations.CopyAddressesWrap
  intro stash a t u
  simp only [copyAdr_eq_moveLow]
  cases stash with
  | true =>
    exact ⟨moveLow_zero a (by decide), moveLow_moveLow a t (by decide) u, slice_high_moveLow a t (by decide) (by decide),
      fun _ => ⟨slice_high_moveLow a t (by decide) (by decide), toNat_slice_low_moveLow a t (by decide)⟩, nofun⟩
  | false =>
    exact ⟨moveLow_zero a (by decide), moveLow_moveLow a t (by decide) u, slice_high_moveLow a t (by decide) (by decide), nofun,
      fun _ => toNat_slice_low_moveLow a t (by decide)⟩

/-- Settles O40: each event by what it does where its premises hold. -/
theorem copyEventsAct : Obligations.CopyEventsAct := by
  unfold Obligations.CopyEventsAct
  refine ⟨fun c s t due => exec_caddyRelease_due due, ?landing, ?completion⟩
  case landing =>
    intro c ch far s j u moving stands copies more t f room answer home grant run decided lands free
    rw [exec_copyLanding_copies moving stands copies more room, State.landCopy_run home grant run answer decided lands]
    exact congrArg _ (State.settle_of_free free s c (.chan ch.toNat))
  case completion =>
    intro c ch s j moving kind flag landed credited home
    have copies : j.kind.copies = true := by rcases kind with kind | kind <;> rw [kind] <;> rfl
    have here : s.emptyFlag c j ≠ some .away := by rcases flag with flag | flag <;> simp [flag]
    rw [exec_copyComplete_landed moving copies landed credited home flag, State.completeCopy_here ch kind here]

end Sys2Proof
end

section
/-!
PROOFS. The fabric class: remote instructions at issue (R316, R319, R323 to R328), slots at the bridge ports and at their endpoints
(R302 to R308), links (R306 to R309, R435), requests and their replies (R307, R313, R315, R331), refusals (R305) and replies that come
late (R403).
-/

namespace Sys2Proof.Machine

/-! ## A remote instruction at issue (R319, R323) -/

/-- Reading operands changes no address register. -/
theorem Core.Queues.scu_ar {k k' : Core} (h : k.Queues k') (b : BitVec 4) : k'.scu.ar b = k.scu.ar b := by
  obtain ⟨q, n, rfl⟩ := h; rfl

theorem scu_ar_popped (s : State) (x : GField) (b : BitVec 4) : (popped s x).cur.scu.ar b = s.cur.scu.ar b := by
  rw [popped, State.cur_setCore, (s.cur.readG_queues x).scu_ar]

section
variable {i : Instr} {q : ReqKind} {b : BitVec 4} {w : BitVec 3} {d x : GField} {val val2 : Row} {ld st : Bool} {s : State}
  (asks : i.request = some q)
include asks

theorem remoteEffect_aligned (aligned : (s.cur.scu.ar b).toNat % q.size = 0) :
    remoteEffect i b w val val2 d ld st s = enterRemote i d w (s.cur.scu.ar b) val val2 ld st s := by
  simp only [remoteEffect, asks, Option.map_some, Option.getD_some, aligned, ne_eq, not_true_eq_false, if_false]
  rfl

theorem remoteEffect_misaligned (off : (s.cur.scu.ar b).toNat % q.size ≠ 0) :
    remoteEffect i b w val val2 d ld st s = s.groupTrap 0x10 (s.cur.scu.ar b) (BitVec.ofNat 64 q.size.log2) := by
  simp only [remoteEffect, asks, Option.map_some, Option.getD_some, if_pos off]

/-- With a second operand the same, after its pop, which moves no address. -/
theorem remoteWith_aligned (aligned : (s.cur.scu.ar b).toNat % q.size = 0) :
    remoteWith i b w x d val2 ld st s =
      enterRemote i d w (s.cur.scu.ar b) ((s.cur.readG x).1.setWidth 2048) val2 ld st (popped s x) := by
  rw [← scu_ar_popped s x b] at aligned ⊢
  exact remoteEffect_aligned asks aligned

theorem remoteWith_misaligned (off : (s.cur.scu.ar b).toNat % q.size ≠ 0) :
    remoteWith i b w x d val2 ld st s = (popped s x).groupTrap 0x10 (s.cur.scu.ar b) (BitVec.ofNat 64 q.size.log2) := by
  rw [← scu_ar_popped s x b] at off ⊢
  exact remoteEffect_misaligned asks off

end

/-! ## Slots at the stations (R302 to R304, R307, R308) -/

section
variable {level : BitVec 2} {die : BitVec 3} {x : Slot} {s : State}

theorem slotEffect_reserved (vc : 6 ≤ x.vc.toNat) : slotEffect level die x s = s.tell (.link level die 2) := if_pos vc

theorem slotEffect_package (vc : x.vc.toNat < 6) (here : x.dpkg = s.pkg) : slotEffect 0 die x s = endpointEffect x s := by
  simp [slotEffect, Nat.not_le.mpr vc, here]

theorem slotEffect_port (vc : x.vc.toNat < 6) (higher : level ≠ 0) : slotEffect level die x s = portEffect level die x s := by
  rw [slotEffect, if_neg (Nat.not_le.mpr vc), if_pos higher]

/-- A slot at the port of a higher ring whose link is up and keyed is the port's. -/
theorem slotEffect_keyed_port {t : State} (vc : x.vc.toNat < 6)
    (carries : (decide (level ≠ 0) && s.linkUp level.toNat die && (s.link level.toNat die).keyed) = true)
    (port : s.linkUp level.toNat die = true → (s.link level.toNat die).keyed = true → portEffect level die x s = t) :
    slotEffect level die x s = t := by
  simp only [Bool.and_eq_true, decide_eq_true_eq] at carries
  obtain ⟨⟨higher, up⟩, keyed⟩ := carries
  exact (slotEffect_port vc higher).trans (port up keyed)

/-- In set-up, a slot of the session on the management channel comes to its endpoint, and the session goes on (R308). -/
theorem portEffect_session (up : s.linkUp level.toNat die = true) (setup : (s.link level.toNat die).keyed = false)
    (kind : x.kind = 0xF) (vc : x.vc = 4) (here : x.dpkg = s.pkg) :
    portEffect level die x s = (endpointEffect { x with elder := false } s).postSetup die x.spkg := by
  simp [portEffect, up, setup, kind, vc, here]

section
variable (up : s.linkUp level.toNat die = true) (keyed : (s.link level.toNat die).keyed = true)
include up keyed

theorem portEffect_keyed_session (kind : x.kind = 0xF) : portEffect level die x s = s.tell (.link level die 2) := by
  simp [portEffect, up, keyed, kind]

theorem portEffect_turned_away (kind : x.kind ≠ 0xF) (away : s.turnsAway level.toNat die x = true) :
    portEffect level die x s = s.slotReply x (homeEnd die.toNat) 0x0B := by
  simp only [portEffect, up, keyed, decide_eq_false kind, away, Bool.not_true, Bool.false_eq_true, if_false, if_true]

theorem portEffect_admitted (kind : x.kind ≠ 0xF) (admitted : s.turnsAway level.toNat die x = false) :
    portEffect level die x s =
      if x.dpkg = s.pkg then endpointEffect { x with elder := false } s else s.passOn level.toNat x := by
  simp only [portEffect, up, keyed, decide_eq_false kind, admitted, Bool.not_true, Bool.false_eq_true, if_false]

end

end

/-! ## Credits of a direction (R306) -/

/-- What a table reads as after a value has been written at each key of a list. -/
theorem Tbl.get_foldl_set {α : Type} [DecidableEq α] (d : α) (f : Nat → α) (l : List Nat) (t : Tbl α) (k : Nat) :
    (l.foldl (fun t v => t.set d v (f v)) t).get d k = if k ∈ l then f k else t.get d k := by
  induction l generalizing t with
  | nil => rfl
  | cons v l ih =>
    rw [List.foldl_cons, ih, Tbl.get_set]
    by_cases later : k ∈ l
    · simp [later]
    · by_cases now : k = v <;> simp [later, now]

theorem Way.credits_hold (w : Way) (n : List Nat) (now : W64) {v : Nat} (hv : v < 6) :
    (w.hold n now).credits.get 2 v = n.getD v 2 := by
  simp [hold, Tbl.get_foldl_set, hv]

theorem Way.protected_hold (w : Way) (n : List Nat) (now : W64) :
    (w.hold n now).protected_ = (w.protected_ || !(w.hold n now).reserve) := rfl

/-- A direction comes into protected mode where it was not in it and is left without the reserve. -/
theorem Way.comes_into_protected_iff (w : Way) (n : List Nat) (now : W64) :
    (!w.protected_ && !(w.hold n now).reserve) = true ↔ w.protected_ = false ∧ (w.hold n now).protected_ = true := by
  rw [protected_hold]
  cases w.protected_ <;> simp

theorem Way.reserve_hold_iff (w : Way) (n : List Nat) (now : W64) :
    (w.hold n now).reserve = true ↔ ∀ v, v < 6 → 2 ≤ n.getD v 2 := by
  simp only [reserve, List.all_eq_true, List.mem_range, decide_eq_true_eq]
  exact forall₂_congr fun v hv => by rw [w.credits_hold n now hv]

theorem Way.protected_hold_iff (w : Way) (n : List Nat) (now : W64) :
    (w.hold n now).protected_ = true ↔ w.protected_ = true ∨ ∃ v, v < 6 ∧ n.getD v 2 < 2 := by
  rw [protected_hold, Bool.or_eq_true, Bool.not_eq_true', ← Bool.not_eq_true, reserve_hold_iff]
  simp only [not_forall, not_le, exists_prop]

/-! ## Links (R306 to R309, R435) -/

section
variable {level : BitVec 2} {die : BitVec 3} {s : State}

/-- A partner shares a version with this module where its highest has a major of 1 or more (R435). -/
theorem agreedFor_eq_zero_iff (v : BitVec 16) : agreedFor v = 0 ↔ slice v 8 8 = 0#8 := by
  rw [agreedFor, ← BitVec.toNat_inj (x := slice v 8 8)]
  split
  · next shared => simp [Nat.ne_of_gt shared]
  · next none_ => simpa using none_

section
variable {v : BitVec 16} (p : BitVec 21) (higher : level ≠ 0) (alive : s.dev.svc ≠ 3)
include higher alive

theorem exec_linkTraining_agreed (shared : 1 ≤ (slice v 8 8).toNat) : exec (.linkTraining level ⟨die, v, p⟩) s =
    .next (((s.dropSetup level die).modLink level.toNat die (fun l => { l with trained := true, keyed := false })).postSetup die p) := by
  have agreed : agreedFor v ≠ 0 := fun none_ => by simp [(agreedFor_eq_zero_iff v).mp none_] at shared
  show execLinkTraining level ⟨die, v, p⟩ s = _
  rw [execLinkTraining, if_neg (not_or.mpr ⟨higher, alive⟩), if_neg agreed]

theorem exec_linkTraining_refused (none_ : slice v 8 8 = 0#8) : exec (.linkTraining level ⟨die, v, p⟩) s =
    .next ((s.modLink level.toNat die (fun l => { l with trained := false, keyed := false })).tell (.link level die 4)) := by
  show execLinkTraining level ⟨die, v, p⟩ s = _
  rw [execLinkTraining, if_neg (not_or.mpr ⟨higher, alive⟩), if_pos ((agreedFor_eq_zero_iff v).mpr none_)]

end

section
variable (up : s.linkUp level.toNat die = true)
include up

theorem exec_linkKeyed_up : exec (.linkKeyed level die) s =
    .next ((s.dropSetup level die).modLink level.toNat die (fun l => { l with keyed := true })) := if_pos up

theorem exec_frameAuthFail_up : exec (.frameAuthFail level die) s =
    .next ((s.modLink level.toNat die (fun l => { l with errors := l.errors + 1 })).tell (.link level die 3)) := if_pos up

/-- The management complex learns of a direction that comes into protected mode, and not of one that is in it. -/
theorem exec_protectedModeEnter_up (cw : Bool) (n : List Nat) :
    let t := s.modLink level.toNat die (fun l => l.modWay cw (fun w => w.hold n s.gtime))
    let old := (s.link level.toNat die).way cw
    exec (.protectedModeEnter level ⟨⟨die, cw⟩, n⟩) s =
      .next (if old.protected_ = false ∧ (old.hold n s.gtime).protected_ = true then t.tell (.link level die 1) else t) := by
  show execProtectedModeEnter level ⟨⟨die, cw⟩, n⟩ s = _
  simp only [execProtectedModeEnter, up, Way.comes_into_protected_iff, Bool.not_true, Bool.false_eq_true, if_false]

theorem exec_timeExchange_keyed (n : Int) (keyed : (s.link level.toNat die).keyed = true) : exec (.timeExchange level die n) s =
    .next { s.modLink level.toNat die (fun l => { l with slew := n }) with slew := n } := by
  show execTimeExchange level die n s = _
  simp [execTimeExchange, up, keyed]

end

theorem exec_protectedModeExit_due {cw : Bool} (due : s.mayLeave level die cw = true) :
    exec (.protectedModeExit level ⟨die, cw⟩) s =
      .next (s.modLink level.toNat die (fun l => l.modWay cw (fun w => { w with protected_ := false }))) := if_pos due

end

/-! ## Requests at their target (R307, R313, R317, R331) -/

/-- A request of this package whose head is free is served, where the banks that it needs are free (R159). -/
theorem exec_remoteRequestCheck_here {c num : Nat} {s t : State} {o : PendOp} {k : ReqKind} {r : ReplyData}
    (flies : s.inFlight c num = some (o, k)) (stays : s.staysHere o = true) (first : o.mask = 0)
    (free : s.headHeld (s.ownTarget c) (o.reqIn k) = false)
    (served : ({ s with claims := [] } : State).serve (s.ownTarget c) (o.reqIn k) none = .reply r t)
    (banks : (t.holdReply c num r).banksFree = true) :
    exec (.remoteRequestCheck (.here c num)) s = .next (t.holdReply c num r).takeBanks := by
  show (s.serveHere c num).getD (.next s) = _
  simp [State.serveHere, flies, stays, first, free, served, State.directed, banks]

/-- A request of another package, which is no node's answer, waits where its tag is admitted and keyed, and else is answered TAG. -/
theorem exec_remoteRequestCheck_far {r : FarReq} (request : r.node = none) (s : State) :
    exec (.remoteRequestCheck (.far r)) s =
      .next (if s.admitsTag r.stag ∧ s.portKeyed r then { s with arrived := s.arrived ++ [(s.cycle, r)] }
        else s.replyTo r (nackReply 0x0B) 0) := by
  show Host.Outcome.next (s.requestArrives r) = _
  simp only [State.requestArrives, request, Bool.and_eq_true]

/-! ## Refusals (R305) -/

/-- A message refused for the 64th time is turned back with BUSY; before that it is sent again. -/
theorem exec_nackBusyRetry_refused {sep : BitVec 12} {vc : BitVec 3} {seq : BitVec 16} {s : State} {m : Msg} {k : Nat}
    (refused : s.refused sep vc seq = some (m, k)) : exec (.nackBusyRetry sep vc seq) s = .next (busyEffect m k s) := by
  show execNackBusyRetry sep vc seq s = _
  simp only [execNackBusyRetry, refused]

/-! ## Replies (R315, R324, R325) -/

/-- A positive reply reaches its instruction, which runs on in a context that does, and is refused no more. -/
theorem exec_remoteReply_delivers {c num : Nat} {far : Option ReplyData} {s t : State} {o : PendOp} {k : ReqKind} {r : ReplyData}
    (held : (s.core c).scu.op? num = some o) (asks : o.instr.request = some k) (left : o.status = .departed)
    (gone : s.stillHere c (.op .scu num) = false) (runs : (s.instOf c).status = .running) (goes : (s.core c).parked .scu = false)
    (reply : s.replyFor c o k far = some (.reply r t)) (positive : r.code = 0) :
    exec (.remoteReply c num far) s = deliverReply c o r ((t.holdReply c num r).accepted c (.op .scu num)) := by
  show execRemoteReply c num far s = _
  simp [execRemoteReply, held, asks, left, gone, runs, goes, reply, positive]

section
variable {c : Nat} {o : PendOp} {r : ReplyData} {b : BitVec 4} {w : BitVec 3} {u : State} (positive : r.code = 0)
include positive

theorem deliverReply_rld {ty : LdTy} {d : GField} (instr : o.instr = .rld ty d b w) :
    deliverReply c o r u = .next (u.landG c o.num d o.qid (ty.ext (r.value.toNat % 2 ^ (8 * ty.bytes)))) := by
  simp [deliverReply, positive, instr]

theorem deliverReply_rst {ty : StTy} {x : GField} (instr : o.instr = .rst ty x b w) :
    deliverReply c o r u = .next (u.finish c .scu o.num) := by
  simp [deliverReply, positive, instr]

theorem deliverReply_ratm {op : AtOp} {d x : GField} (instr : o.instr = .ratm op d b x w) :
    deliverReply c o r u = .next (u.landG c o.num d o.qid (slice r.value 0 64)) := by
  simp [deliverReply, positive, instr]

end

/-! ## Replies that come late (R403) -/

section
variable {c num : Nat} {s : State}

theorem exec_replyForward_moved {n : Nat} {p stag : BitVec 21} {e : Engine} (r : ReplyData)
    (moved : s.forwards c num = some (n, p, stag, e)) :
    exec (.replyForward c num r) s = .next (forwardEffect n c num e p stag r s) := by
  show execReplyForward c num r s = _
  simp only [execReplyForward, moved]

/-- An operation that departed before the migration, as `first` says, gets LINK. -/
theorem exec_replyTimeout_late {o : PendOp} {k : ReqKind} (late : s.lateHere c = true) (flies : s.inFlight c num = some (o, k))
    (carried : o.first = 0) : exec (.replyTimeout c num) s = .next (s.holdReply c num (nackReply 0x0D)) := by
  show execReplyTimeout c num s = _
  simp [execReplyTimeout, late, flies, carried]

end

end Sys2Proof.Machine

namespace Sys2Proof

open Machine

/-- An instruction under the gate whose meaning is one state at an aligned address and a trap at another. -/
theorem IssuesAligned.of {i : Instr} {needs : State → Needs} {b : BitVec 4} {size : Nat} {enters pops effect : State → State}
    (run : ∀ s, exec i s = s.issue (needs s) effect)
    (aligned : ∀ s, (s.cur.scu.ar b).toNat % size = 0 → effect s = enters s)
    (misaligned : ∀ s, (s.cur.scu.ar b).toNat % size ≠ 0 →
      effect s = (pops s).groupTrap 0x10 (s.cur.scu.ar b) (BitVec.ofNat 64 size.log2)) :
    IssuesAligned i needs b size enters pops := fun s => by
  obtain ⟨goes, waits⟩ := Issues.of run s
  exact ⟨fun ready => ⟨fun h => by rw [goes ready, aligned s h], fun h => by rw [goes ready, misaligned s h]⟩, waits⟩

section
variable {i : Instr} {needs : State → Needs} {b : BitVec 4} {w : BitVec 3} {d x : GField} {val val2 : State → Row} {ld st : Bool}
  (q : ReqKind) (asks : i.request = some q)
include asks

/-- A remote instruction that pops no queue. -/
theorem IssuesAligned.of_remoteEffect
    (run : ∀ s, exec i s = s.issue (needs s) (fun s => remoteEffect i b w (val s) (val2 s) d ld st s)) :
    IssuesAligned i needs b q.size (fun s => enterRemote i d w (s.cur.scu.ar b) (val s) (val2 s) ld st s) id :=
  .of run (fun _ => remoteEffect_aligned asks) (fun _ => remoteEffect_misaligned asks)

/-- A remote instruction with a second operand in a register or a queue. -/
theorem IssuesAligned.of_remoteWith
    (run : ∀ s, exec i s = s.issue (needs s) (fun s => remoteWith i b w x d (val2 s) ld st s)) :
    IssuesAligned i needs b q.size
      (fun s => enterRemote i d w (s.cur.scu.ar b) ((s.cur.readG x).1.setWidth 2048) (val2 s) ld st (popped s x))
      (fun s => popped s x) :=
  .of run (fun _ => remoteWith_aligned asks) (fun _ => remoteWith_misaligned asks)

end

/-- Settles O23: each instruction by the request that it makes, whose size its address is held to. -/
theorem remoteInstructionsEnter : Obligations.RemoteInstructionsEnter := by
  unfold Obligations.RemoteInstructionsEnter
  refine ⟨?rld, ?rst, ?ratm, ?pair, fun d b x w => ⟨?n64, ?n32, ?casn, ?enq, ?deq, ?chase, ?fadd, ?fminloc⟩, ?rfence⟩
  case rld => exact fun t d b w => .of_remoteEffect (.read t) rfl fun _ => rfl
  case rst => exact fun t x b w => .of_remoteWith (.write t) rfl fun _ => rfl
  case ratm => exact fun op d b x w => .of_remoteWith (.atm op) rfl fun _ => rfl
  case pair => exact fun d b x w => .of_remoteEffect (.cas .pair) rfl fun _ => rfl
  case n64 => exact .of_remoteWith (.cas .n64) rfl fun _ => rfl
  case n32 => exact .of_remoteWith (.cas .n32) rfl fun _ => rfl
  case casn => exact .of_remoteWith .casn rfl fun _ => rfl
  case enq => exact .of_remoteWith .enq rfl fun _ => rfl
  case deq => exact .of_remoteWith .deq rfl fun _ => rfl
  case chase => exact .of_remoteWith .chase rfl fun _ => rfl
  case fadd => exact .of_remoteWith .fadd rfl fun _ => rfl
  case fminloc => exact .of_remoteWith .fminloc rfl fun _ => rfl
  case rfence => exact fun w => .of fun _ => rfl

/-- Settles O54: each event by what it does where its premises hold. -/
theorem fabricEventsAct : Obligations.FabricEventsAct := by
  unfold Obligations.FabricEventsAct
  refine ⟨?slots, ?training, ?links, ?credits, ?leaves, ?here, ?far, ?refused, ?replies, ?forwards, ?late⟩
  case slots =>
    intro level die x s does keyed
    refine ⟨fun vc => congrArg _ (slotEffect_reserved vc), ?own, ?session, ?away, ?goes, ?setup⟩
    case own =>
      rintro vc rfl here
      exact congrArg _ (slotEffect_package vc here)
    case session => exact fun vc key kind => congrArg _ (slotEffect_keyed_port vc key fun up key => portEffect_keyed_session up key kind)
    case away =>
      exact fun vc key kind away => congrArg _ (slotEffect_keyed_port vc key fun up key => portEffect_turned_away up key kind away)
    case goes =>
      exact fun vc key kind admitted => congrArg _ (slotEffect_keyed_port vc key fun up key => portEffect_admitted up key kind admitted)
    case setup =>
      intro higher up setup kind vc here
      exact congrArg _ ((slotEffect_port (by simp [vc]) higher).trans (portEffect_session up setup kind vc here))
  case training =>
    exact fun level die v p s higher alive => ⟨exec_linkTraining_agreed p higher alive, exec_linkTraining_refused p higher alive⟩
  case links =>
    exact fun level die s up => ⟨exec_linkKeyed_up up, exec_protectedModeEnter_up up, exec_frameAuthFail_up up,
      exec_timeExchange_keyed up⟩
  case credits => exact fun w n now => ⟨fun _ => w.credits_hold n now, w.protected_hold_iff n now⟩
  case leaves => exact fun level die cw s => exec_protectedModeExit_due
  case here =>
    exact fun c num s o k r t flies stays first free served banks => exec_remoteRequestCheck_here flies stays first free served banks
  case far => exact fun r s request => exec_remoteRequestCheck_far request s
  case refused => exact fun sep vc seq s m k => exec_nackBusyRetry_refused
  case replies =>
    intro c num far s o k r t held asks left gone runs goes reply positive u
    have delivers := exec_remoteReply_delivers held asks left gone runs goes reply positive
    exact ⟨fun _ _ _ _ instr => delivers.trans (deliverReply_rld positive instr),
      fun _ _ _ _ instr => delivers.trans (deliverReply_rst positive instr),
      fun _ _ _ _ _ instr => delivers.trans (deliverReply_ratm positive instr)⟩
  case forwards => exact fun c num r s n p stag e => exec_replyForward_moved r
  case late => exact fun c num s o k => exec_replyTimeout_late

end Sys2Proof
end

section
/-!
PROOFS. The steps of a collective (R336 to R346): contributions, reduced elements, results that land and the completion.
-/

namespace Sys2Proof.Machine

/-! ## Contributions (R336, R337) -/

section
variable {die : BitVec 3} {k : Contribution} {s : State}

/-- A contribution that reaches its die: one of this package has been sent, one of another comes. -/
theorem exec_contributionArrival_sent (place : k.dest.toNat / 256 = die.toNat) (positive : k.code = 0)
    (sent : k.pkg = s.pkg → (List.range 8).any (fun ch => (s.outgoing k.core.toNat (BitVec.ofNat 3 ch)).contains k) = true) :
    exec (.contributionArrival die k) s = .next (s.takePart k) := by
  show execContributionArrival die k s = _
  have arrives : ¬ (k.dest.toNat / 256 ≠ die.toNat ∨ k.code ≠ 0 ∨
      (k.pkg = s.pkg ∧ !(List.range 8).any (fun ch => (s.outgoing k.core.toNat (BitVec.ofNat 3 ch)).contains k))) := by
    rintro (off | negative | ⟨here, unsent⟩)
    · exact off place
    · exact negative positive
    · rw [sent here] at unsent
      nomatch unsent
  rw [execContributionArrival, if_neg arrives]

/-- It is held at the unit of the member's context, once. -/
theorem State.takePart_member {n : Nat} (member : s.ctxAt k.dest.toNat k.stag k.gid k.seq = some n)
    (new : (s.xop n k.dest.toNat k.gid k.seq).any (fun x => x.contribs.contains k) = false) :
    s.takePart k = s.modXop n k.dest.toNat k.gid k.seq (fun x => { x with contribs := x.contribs ++ [k] }) := by
  simp only [takePart, member, new, Bool.false_eq_true, if_false]

theorem State.takePart_astray (astray : s.ctxAt k.dest.toNat k.stag k.gid k.seq = none) : s.takePart k = s.partBack k 0x0B := by
  simp only [takePart, astray]

end

/-! ## Reduction (R342) -/

theorem exec_elementReduce_reducible {die : BitVec 3} {gid seq : BitVec 32} {n : Nat} {s : State} {x : XOp}
    (found : s.xops.find? (fun x => decide (x.core / 256 = die.toNat ∧ x.gid = gid ∧ x.seq = seq) && x.reducible n) = some x) :
    exec (.elementReduce die gid seq n) s = .next (s.modXop x.ctx x.core gid seq (fun x => x.reduceAt n)) := by
  show execElementReduce die gid seq n s = _
  simp only [execElementReduce, found]

/-! ## Results (R344) -/

section
variable {c : Nat} {ch : BitVec 3} {s u : State} {j : Job} {h : Contribution}

/-- COLLECTIVE_RESULT_LANDING on a channel whose collective its cycle has room for, as far as the stash banks allow (R159). -/
theorem exec_collectiveResultLanding_own (current : s.collJob c ch = some (j, h)) (room : 0 < (s.core c).left ch.toNat) :
    exec (.collectiveResultLanding c ch none) s =
      s.served c (.chan ch.toNat) (({ s with claims := [] } : State).landResult c ch j h) := by
  show execCollectiveResultLanding c ch none s = _
  simp only [execCollectiveResultLanding, current, if_neg room.ne']

/-- The next item of the member's own unit lands, where no refusal and no owner's answer comes before it. -/
theorem State.landResult_item {x : XOp} {k : Nat} (willing : s.heldRefusal c j h = none) (answered : s.nextAnswer c j h = none)
    (next : s.nextItem c j h = some (x, k)) (lands : s.landItem c ch j h x k = .ok u) : s.landResult c ch j h = .next u := by
  simp only [landResult, willing, answered, next, lands]

end

/-! ## Completion (R343) -/

theorem exec_collectiveComplete_done {c : Nat} {ch : BitVec 3} {s t : State} {j : Job} {h : Contribution}
    (current : s.collJob c ch = some (j, h)) (done : s.collDone c j h = true)
    (writes : s.writeBlock c j h.kind (s.ownPlan c j h) (j.stat ||| s.ownStat c h) = .ok t) :
    exec (.collectiveComplete c ch) s = .next
      (((if j.desc.collFen h.kind then t.later c (.fadd (j.desc.collFidx h.kind) 1) else t).endJob c ch j false).endXop c h) := by
  show execCollectiveComplete c ch s = _
  simp only [execCollectiveComplete, current, done, writes, Bool.not_true, Bool.false_eq_true, if_false]

end Sys2Proof.Machine

namespace Sys2Proof

open Machine

/-- Settles O42: each event by what it does where its premises hold. -/
theorem collectiveEventsAct : Obligations.CollectiveEventsAct := by
  unfold Obligations.CollectiveEventsAct
  refine ⟨?arrival, ?reduction, ?landing, fun c ch f s => rfl, ?completion⟩
  case arrival =>
    intro die k s place positive sent
    rw [exec_contributionArrival_sent place positive sent]
    exact ⟨fun n member new => congrArg _ (State.takePart_member member new), fun astray => congrArg _ (State.takePart_astray astray)⟩
  case reduction => exact fun die gid seq n s x => exec_elementReduce_reducible
  case landing =>
    intro c ch s j h x k u current room t willing answered next lands free
    rw [exec_collectiveResultLanding_own current room, State.landResult_item willing answered next lands]
    exact congrArg _ (State.settle_of_free free s c (.chan ch.toNat))
  case completion => exact fun c ch s j h t => exec_collectiveComplete_done

end Sys2Proof
end

section
/-!
PROOFS. Traps on purpose, entering the handler and returning from it, and engines that a trap has parked (R358 to R363, R378, R381).
-/

namespace Sys2Proof.Machine

/-! ## Group traps (R358, R360, R362) -/

/-- A group trap leaves nothing of its engine's last tries, and stops its landing buffer (R86). -/
theorem Ctx.trapped_group {r : TrapRec} {e : Engine} (x : Ctx) (parks : r.parks e = true) (group : r.kind = 0) :
    x.trapped e r =
      { x with lastRec := some (r, 0, false), wait := none, stuck := false, target := none, reach := .idle, frozen := true } := by
  simp [Ctx.trapped, parks, group]

/-- A trap that is not fatal pends for the SCU (R358, R362). -/
theorem State.takeTrap_pends {s : State} {c : Nat} {r : TrapRec} (survives : ¬ (s.core c).fatal r = true) :
    s.takeTrap c r =
      s.setCore c { (s.core c).modCtx r.eng (fun x => x.trapped r.eng r) with pend := insertTrap r (s.core c).pend } := by
  rw [takeTrap, if_neg survives, Core.modCtx_pend]

section
variable {s : State} {code : BitVec 8} {a d : W64}

theorem State.groupRec_parks (s : State) (code : BitVec 8) (a d : W64) (e : Engine) :
    (s.groupRec code a d).parks e = decide (s.eng = e) := by
  show (decide (s.eng = e) && true && true) = _
  rw [Bool.and_true, Bool.and_true]

/-- When a group trap is fatal (R360): without a handler to enter, and in the SCU's own handler. -/
theorem State.fatal_groupRec : s.cur.fatal (s.groupRec code a d) = true ↔
    s.cur.trapv = 0 ∨ isPoint s.cur.trapv = false ∨ (s.eng = .scu ∧ s.cur.hand.isSome = true) := by
  simp [Core.fatal, State.groupRec_parks, or_assoc]

/-- The core whose engine has taken a group trap. -/
def State.groupTrapped (s : State) (code : BitVec 8) (a d : W64) : Core :=
  s.cur.modCtx s.eng (fun x =>
    { x with
      lastRec := some (s.groupRec code a d, 0, false), wait := none, stuck := false, target := none, reach := .idle, frozen := true })

theorem State.modCtx_trapped_groupRec :
    s.cur.modCtx (s.groupRec code a d).eng (fun x => x.trapped (s.groupRec code a d).eng (s.groupRec code a d)) =
      s.groupTrapped code a d := by
  have parks : (s.groupRec code a d).parks (s.groupRec code a d).eng = true :=
    (s.groupRec_parks code a d s.eng).trans (decide_eq_true rfl)
  exact congrArg (s.cur.modCtx s.eng) (funext fun x => x.trapped_group parks rfl)

theorem State.groupTrap_pends (handler : s.cur.trapv ≠ 0) (point : isPoint s.cur.trapv = true)
    (outside : s.eng = .scu → s.cur.hand = none) :
    s.groupTrap code a d =
      s.setCore s.focus { s.groupTrapped code a d with pend := insertTrap (s.groupRec code a d) s.cur.pend } := by
  have survives : ¬ s.cur.fatal (s.groupRec code a d) = true := by
    rw [State.fatal_groupRec]
    rintro (none | noPoint | ⟨scu, inside⟩)
    · exact handler none
    · simp [point] at noPoint
    · simp [outside scu] at inside
  rw [← State.modCtx_trapped_groupRec]
  exact State.takeTrap_pends survives

theorem State.groupTrap_ends
    (fatal : s.cur.trapv = 0 ∨ isPoint s.cur.trapv = false ∨ (s.eng = .scu ∧ s.cur.hand.isSome = true)) :
    s.groupTrap code a d = (s.setCore s.focus (s.groupTrapped code a d)).endFault s.cur.inst (s.groupRec code a d) := by
  rw [← State.modCtx_trapped_groupRec]
  exact if_pos (State.fatal_groupRec.mpr fatal)

end

/-! ## Entering the handler (R359, R360) -/

section
variable {s : State} {k : Core} {c : Nat} {r : TrapRec} {rest : List TrapRec} {counted : Bool}

theorem exec_handlerEntry_ends (enters : s.canEnterHandler c = true) (pend : (s.core c).pend = r :: rest)
    (fatal : (s.core c).trapv = 0 ∨ isPoint (s.core c).trapv = false) :
    exec (.handlerEntry c) s = .next (s.endFault (s.core c).inst r) := by
  have fault : (s.core c).entryFault = some r := by
    rw [Core.entryFault, if_pos (by simpa using fatal), pend]
    rfl
  show execHandlerEntry c s = _
  simp only [execHandlerEntry, enters, if_true, fault]

theorem exec_handlerEntry_enters (enters : s.canEnterHandler c = true) (handler : (s.core c).trapv ≠ 0)
    (point : isPoint (s.core c).trapv = true) :
    exec (.handlerEntry c) s = .next (s.setCore c ((s.core c).enterHandler (s.counts c .scu))) := by
  have sound : (s.core c).entryFault = none := if_neg (by simpa [point] using handler)
  show execHandlerEntry c s = _
  simp only [execHandlerEntry, enters, if_true, sound, State.modCore]

theorem Core.enterHandler_starts (pend : k.pend = r :: rest) :
    (k.enterHandler counted).pend = rest ∧ (k.enterHandler counted).loops = [] ∧ (k.enterHandler counted).scu.pt = k.trapv ∧
      (k.enterHandler counted).scu.run = .running ∧ (k.enterHandler counted).scu.land = [] ∧
      (k.enterHandler counted).scu.bubble = 4 := by
  simp [enterHandler, pend]

theorem Core.modCtx_scu (k : Core) (e : Engine) (f : Ctx → Ctx) : (k.modCtx e f).scu = if e = .scu then f k.scu else k.scu := by
  cases e <;> rfl

/-- Noting a record leaves the stream that the handler interrupts. -/
theorem Core.noteEntry_scu (k : Core) (r : TrapRec) (p : W64) (halted : Bool) :
    (k.modCtx r.eng (fun x => x.noteEntry r p halted)).scu =
      { k.scu with lastRec := (k.modCtx r.eng (fun x => x.noteEntry r p halted)).scu.lastRec } := by
  rw [Core.modCtx_scu]
  split <;> rfl

theorem Core.enterHandler_hand (pend : k.pend = r :: rest) :
    (k.enterHandler counted).hand = some
      { pt := k.scu.pt, land := (if counted then k.scu.countDown else k.scu).land, loops := k.loops, run := k.scu.run.refetched
        rec_ := r } := by
  simp only [enterHandler, pend, Core.modCtx_loops]
  rw [Core.noteEntry_scu]

theorem Core.enterHandler_ctx_other {e : Engine} (pend : k.pend = r :: rest) (other : e ≠ .scu) :
    (k.enterHandler counted).ctx e =
      if e = r.eng then (k.ctx e).noteEntry r k.scu.pt (decide (k.scu.run = .halted)) else k.ctx e := by
  have engine : (k.enterHandler counted).ctx e =
      (k.modCtx r.eng (fun x => x.noteEntry r k.scu.pt (decide (k.scu.run = .halted)))).ctx e := by
    simp only [enterHandler, pend]
    cases e with
    | scu => exact absurd rfl other
    | ve | ce | mx => rfl
  rw [engine]
  split
  · subst_vars
    exact Core.ctx_modCtx _ _ _
  · exact Core.ctx_modCtx_other _ _ ‹_›

theorem Core.enterHandler_registers (pend : k.pend = r :: rest) :
    (k.enterHandler counted).g = k.g ∧ (k.enterHandler counted).p = k.p ∧ (k.enterHandler counted).v = k.v ∧
      (k.enterHandler counted).flags = k.flags ∧ (k.enterHandler counted).queues = k.queues ∧
      (k.enterHandler counted).scu.areg = k.scu.areg ∧ (k.enterHandler counted).scu.ops = k.scu.ops ∧
      (k.enterHandler counted).scu.tok = k.scu.tok := by
  simp only [enterHandler, pend, Core.modCtx_g, Core.modCtx_p, Core.modCtx_v, Core.modCtx_flags, Core.modCtx_queues, true_and]
  rw [Core.noteEntry_scu]
  exact ⟨rfl, rfl, rfl⟩

end

/-! ## Returning from the handler (R381) -/

section
variable {s : State} {h : Handler} {a : GField} {drop : Bool} {re : Resume}

/-- ERET without a new point goes on where R381 resumes the trapping engine. -/
theorem eretEffect_resumes (handling : s.cur.hand = some h) (resumes : s.resumeOf h.rec_ drop none = some re) :
    eretEffect a drop false s = s.returnFrom h drop re := by
  simp [eretEffect, handling, resumes]

/-- The new point that a notice is given is popped and ignored. -/
theorem eretEffect_notice (handling : s.cur.hand = some h) (notice : h.rec_.kind = 3)
    (resumes : (popped s a).resumeOf h.rec_ drop none = some re) :
    eretEffect a drop true s = (popped s a).returnFrom h drop re := by
  rw [popped] at resumes ⊢
  simp [eretEffect, handling, notice, resumes]

theorem eretEffect_newPoint (handling : s.cur.hand = some h) (engine : h.rec_.kind ≠ 3)
    (sound : s.pointFault s.focus h.rec_.eng (s.cur.readG a).1 = some none) :
    eretEffect a drop true s = (popped s a).returnFrom h drop (.to (s.cur.readG a).1) := by
  simp only [eretEffect, handling, true_and, if_pos engine, sound, State.resumeOf, popped]

theorem eretEffect_badPoint {f : BitVec 8 × W64 × W64} (handling : s.cur.hand = some h) (engine : h.rec_.kind ≠ 3)
    (faulty : s.pointFault s.focus h.rec_.eng (s.cur.readG a).1 = some (some f)) :
    eretEffect a drop true s = s.groupTrap f.1 f.2.1 f.2.2 := by
  simp only [eretEffect, handling, true_and, if_pos engine, faulty, State.faultTrap]

/-- A group that trapped is tried again, unless TRAP was its trap (R363). -/
theorem State.resumeOf_retry {r : TrapRec} (s : State) (again : r.code ≠ 0x38) : s.resumeOf r false none = some .stay := by
  have fails : r.passes = false := decide_eq_false again
  simp [resumeOf, fails]

/-- The SCU's own group has nothing to resolve, and the stream to which the return goes is the one that was saved. -/
theorem State.returnFrom_ownGroup (engine : h.rec_.eng = .scu) (group : h.rec_.kind = 0) (own : h.rec_.chan = none) :
    s.returnFrom h drop .stay = s.setCore s.focus (s.cur.leaveHandler h) := by
  simp [returnFrom, resolve, group, own, engine, modCur, modCore, cur]

/-- A further check that the state fails makes the group ILL_FIELD (R39, R363). -/
theorem State.issue_bad {n : Needs} (bad : n.bad = true) (f : State → State) : s.issue n f = .next s.illField := by
  simp [issue, Core.gate, bad]

theorem State.needsEret_outside (outside : s.cur.hand = none) (a : GField) (newpt : Bool) : (s.needsEret a newpt).bad = true := by
  simp [needsEret, outside]

end

/-! ## Parked engines (R358) -/

theorem State.mayIssue_parked {s : State} {c : Nat} {e : Engine} (parked : (s.core c).parked e = true) : s.mayIssue c e = false := by
  simp [mayIssue, parked]

theorem State.issueSlot_barred {s : State} {t : IssueSlot} (barred : s.mayIssue t.core t.eng = false) : s.issueSlot t = .next s := by
  simp [issueSlot, barred]

end Sys2Proof.Machine

namespace Sys2Proof

open Machine

/-- Settles O25: under the gate both take their group trap, which pends or is fatal. -/
theorem trapAndBreakAreTaken : Obligations.TrapAndBreakAreTaken := by
  unfold Obligations.TrapAndBreakAreTaken
  intro n g s ready i code kind r k
  have traps : exec i s = .next (s.groupTrap code 0 (n.setWidth 64)) := by
    obtain ⟨rfl, rfl⟩ | ⟨rfl, rfl⟩ := kind
    · exact State.issue_ready ready (fun s => s.groupTrap 0x38 0 (n.setWidth 64))
    · exact State.issue_ready ready (fun s => s.groupTrap 0x39 0 (n.setWidth 64))
  rw [traps]
  exact ⟨fun handler point outside => congrArg _ (State.groupTrap_pends handler point outside),
    fun fatal => congrArg _ (State.groupTrap_ends fatal)⟩

/-- Settles O26: the entry's fault comes first; without one the core enters its handler, part by part. -/
theorem handlerEntrySaves : Obligations.HandlerEntrySaves := by
  unfold Obligations.HandlerEntrySaves
  intro c s r rest enters pend
  refine ⟨exec_handlerEntry_ends enters pend, fun handler point => ⟨_, exec_handlerEntry_enters enters handler point, ?_⟩⟩
  obtain ⟨taken, loops, pt, run, land, bubble⟩ := Core.enterHandler_starts (counted := s.counts c .scu) pend
  exact ⟨taken, loops, pt, run, land, bubble, ⟨_, Core.enterHandler_hand pend, rfl, rfl, rfl, rfl, rfl⟩,
    fun e other => Core.enterHandler_ctx_other pend other, Core.enterHandler_registers pend⟩

/-- Settles O27: a plain return of the SCU's own group by what leaving the handler leaves, and each other return by where it goes. -/
theorem eretRestores : Obligations.EretRestores := by
  unfold Obligations.EretRestores
  refine ⟨?own, ?returns, ?outside⟩
  case own =>
    intro s h _ handling engine group own again ready
    have returns : exec (.eret (.r 0) false false) s = .next (s.setCore s.focus (s.cur.leaveHandler h)) := by
      rw [← State.returnFrom_ownGroup (drop := false) engine group own,
        ← eretEffect_resumes (a := .r 0) handling (s.resumeOf_retry again)]
      exact State.issue_ready ready _
    exact ⟨_, returns, rfl, rfl, rfl, rfl, rfl, rfl, rfl, rfl, rfl, rfl, rfl, rfl⟩
  case returns =>
    intro s h a drop newpt handling ready
    have acts : exec (.eret a drop newpt) s = .next (eretEffect a drop newpt s) := State.issue_ready ready _
    rw [acts]
    refine ⟨?_, ?_, ?_, ?_⟩
    · rintro re rfl resumes
      exact congrArg _ (eretEffect_resumes handling resumes)
    · rintro re rfl notice resumes
      exact congrArg _ (eretEffect_notice handling notice resumes)
    · rintro rfl engine sound
      exact congrArg _ (eretEffect_newPoint handling engine sound)
    · rintro f rfl engine faulty
      exact congrArg _ (eretEffect_badPoint handling engine faulty)
  case outside => exact fun s a drop newpt outside => State.issue_bad (s.needsEret_outside outside a newpt) _

/-- Settles O28: the slot of an engine that may not issue passes. -/
theorem parkedEngineDoesNotIssue : Obligations.ParkedEngineDoesNotIssue := by
  unfold Obligations.ParkedEngineDoesNotIssue
  exact fun s t parked => State.issueSlot_barred (State.mayIssue_parked parked)

end Sys2Proof
end

section
/-!
PROOFS. Reset (R389, R433, R437).
-/

namespace Sys2Proof.Machine

/-- A core at reset is one that has never run. -/
theorem reset_core (c : Nat) : State.reset.core c = Core.init := rfl

/-- A command queue at reset is one that has never been bound. -/
theorem reset_cq (vf q : BitVec 6) : State.reset.cq vf q = CmdQueue.init := rfl

end Sys2Proof.Machine

namespace Sys2Proof

open Machine

/-- Settles O8: nothing is listed at reset, so every core and every queue is as one that was never used. -/
theorem resetState : Obligations.ResetState := by
  unfold Obligations.ResetState
  refine ⟨fun c => ?_, fun vf q => ?_, rfl, rfl, rfl, rfl⟩
  · rw [reset_core]
    exact ⟨rfl, rfl, rfl, rfl, rfl⟩
  · rw [reset_cq]
    exact ⟨rfl, rfl⟩

end Sys2Proof
end

section
/-!
PROOFS. Page requests and their replies, invalidations and memory errors (R371 to R376).
-/

namespace Sys2Proof.Machine

/-! ## Records and replies (R373, R374) -/

section
variable {vf : BitVec 6} {s : State} {w : W64} {n : Nat} {r : PageReq}

theorem exec_pageRequestRecordWrite_room (next : s.nextRecord vf = some (n, r))
    (room : ringRoom (s.prqOf vf).ctl (s.prqOf vf).tail (s.prqOf vf).head = true) :
    exec (.pageRequestRecordWrite vf) s = .next (recordEffect vf n r s) := by
  show execPageRequestRecordWrite vf s = _
  simp only [execPageRequestRecordWrite, next, room, if_true]

/-- A reply word with RESULT 0 retries the request that it names; it is passed on where none is outstanding. -/
theorem exec_prrplyRetry_result (virtual : isVf vf = true) (result : slice w 32 32 = 0#32) :
    exec (.prrplyRetry vf w) s =
      .next ((s.outstanding vf w).elim (passReply vf w true s) (fun p => replyEffect true p.1 p.2 s)) := by
  show execPrrplyRetry vf w s = _
  rw [execPrrplyRetry, if_neg (by simp [virtual, result]), if_neg (by simp [result])]
  cases s.outstanding vf w <;> rfl

/-- A reply word with RESULT 1 fails the request that it names. -/
theorem exec_prrplyFail_result (virtual : isVf vf = true) (result : slice w 32 32 = 1#32) :
    exec (.prrplyFail vf w) s =
      .next ((s.outstanding vf w).elim (passReply vf w false s) (fun p => replyEffect false p.1 p.2 s)) := by
  show execPrrplyFail vf w s = _
  rw [execPrrplyFail, if_neg (by simp [virtual, result])]
  cases s.outstanding vf w <;> rfl

theorem exec_prrplyRetry_reserved (virtual : isVf vf = true) (result : 2 ≤ (slice w 32 32 : BitVec 32).toNat) :
    exec (.prrplyRetry vf w) s = .next (ignoreReply vf s) := by
  have notRetry : slice w 32 32 ≠ 0#32 := fun zero => by simp [zero] at result
  have notFail : slice w 32 32 ≠ 1#32 := fun one => by simp [one] at result
  show execPrrplyRetry vf w s = _
  rw [execPrrplyRetry, if_neg (by simp [virtual, notFail]), if_pos notRetry]

/-- Where no slice has moved, there is nothing to pass a reply on to. -/
theorem passReply_settled (out : s.outbound = []) (in_ : s.inbound = []) (retry : Bool) : passReply vf w retry s = ignoreReply vf s := by
  simp [passReply, out, in_]

@[simp] theorem State.prqOf_modPrq (s : State) (vf : BitVec 6) (f : PrqBlock → PrqBlock) :
    (s.modPrq vf f).prqOf vf = f (s.prqOf vf) := by
  simp [prqOf, modPrq]

/-- Ignored replies are counted up to what 16 bits hold. -/
theorem ignored_ignoreReply (vf : BitVec 6) (s : State) :
    ((ignoreReply vf s).prqOf vf).ignored.toNat = min 65535 ((s.prqOf vf).ignored.toNat + 1) := by
  rw [ignoreReply, State.prqOf_modPrq]
  generalize s.prqOf vf = b
  by_cases full : b.ignored = 0xFFFF
  · simp [full]
  · simp only [if_neg full]
    bv_omega

end

/-! ## Invalidations (R371) -/

/-- What every step of a pass over a list keeps, the pass keeps. -/
theorem foldl_keeps {α β : Type} (p : State → α) (l : List β) (f : State → β → State) (keeps : ∀ s b, p (f s b) = p s)
    (s : State) : p (l.foldl f s) = p s := by
  induction l generalizing s with
  | nil => rfl
  | cons b l ih => exact (ih (f s b)).trans (keeps s b)

theorem State.setHbmSector_prq (s : State) (sec : Nat) (v : Sector) (p : Bool) : (s.setHbmSector sec v p).prq = s.prq := by
  simp only [setHbmSector]

theorem State.l2Mark_prq (s : State) (sec : Nat) (p : Bool) : (s.l2Mark sec p).prq = s.prq := by
  unfold l2Mark
  dsimp only
  split <;> rfl

theorem State.flushDirty_prq (s : State) (sec : Nat) : (s.flushDirty sec).prq = s.prq := by
  unfold flushDirty
  split
  · rfl
  · dsimp only
    rw [State.l2Mark_prq, State.setHbmSector_prq]

@[simp] theorem State.l2Place_prq (s : State) (x : L2Line) (last : Bool) : (s.l2Place x last).prq = s.prq := rfl

theorem State.leaveL2_prq (s : State) (line : Nat) : (s.leaveL2 line).prq = s.prq := by
  unfold leaveL2
  dsimp only
  refine foldl_keeps State.prq _ _ (fun s n => ?_) s
  split
  · exact s.flushDirty_prq _
  · rfl

theorem State.l2Class_prq (s : State) (sl pa : Nat) : (s.l2Class sl pa).2.prq = s.prq := by
  unfold l2Class
  dsimp only
  split <;> rfl

theorem State.l2request_prq (s : State) (sl pa : Nat) (last : Bool) : (s.l2request sl pa last).prq = s.prq := by
  unfold l2request
  dsimp only
  refine Eq.trans ?_ (s.l2Class_prq sl pa)
  split
  · rfl
  · split
    · rfl
    · split
      · rfl
      · rw [State.l2Place_prq, State.leaveL2_prq]

theorem State.putSector_prq (s : State) (sl sec : Nat) (v : Sector) (p : Bool) : (s.putSector sl sec v p).prq = s.prq := by
  have kept : ((s.leaveL1s (sec / 8) (bit true (sec % 8)) 0).l2request sl (32 * sec)).prq = s.prq :=
    (s.leaveL1s (sec / 8) (bit true (sec % 8)) 0).l2request_prq sl (32 * sec) false
  unfold putSector
  dsimp only
  generalize (s.leaveL1s (sec / 8) (bit true (sec % 8)) 0).l2request sl (32 * sec) = u at kept
  split
  · dsimp only
    rw [State.setHbmSector_prq, kept]
  · exact kept

/-- Writing a row back asks nothing of the page-request blocks. -/
theorem State.putBack_prq (s : State) (c q sl line : Nat) : (s.putBack c q sl line).prq = s.prq := by
  unfold putBack
  refine foldl_keeps State.prq _ _ (fun s n => ?_) s
  split
  · exact State.putSector_prq _ _ _ _ _
  · rfl

theorem State.unfill_prq (s : State) (c q : Nat) : (s.unfill c q).prq = s.prq := State.putBack_prq _ _ _ _ _

theorem invalEffect_prq (sl : Nat) (x : Inval) (s : State) : (invalEffect sl x s).prq = s.prq := by
  unfold invalEffect
  refine foldl_keeps State.prq _ _ (fun s e => foldl_keeps State.prq _ _ (fun s r => ?_) s) _
  split
  · exact State.unfill_prq _ _ _
  · rfl

/-- What the oldest invalidation of a function drops: nothing where the function has no slice. -/
def State.invalidated (s : State) (vf : BitVec 6) (x : Inval) : State :=
  match s.sliceOfVf vf with
  | none => s
  | some sl => invalEffect sl x s

theorem State.invalidated_prqOf (s : State) (vf : BitVec 6) (x : Inval) : (s.invalidated vf x).prqOf vf = s.prqOf vf := by
  unfold invalidated
  split
  · rfl
  · rw [prqOf, invalEffect_prq, prqOf]

theorem exec_invalidationComplete_oldest {vf : BitVec 6} {s : State} {x : Inval} {r : List Inval}
    (oldest : (s.prqOf vf).invals = x :: r) :
    exec (.invalidationComplete vf) s =
      .next ((s.invalidated vf x).modPrq vf (fun b => { b with invals := r, invdone := b.invdone + 1 })) := by
  show execInvalidationComplete vf s = _
  simp only [execInvalidationComplete, oldest]
  rfl

end Sys2Proof.Machine

namespace Sys2Proof

open Machine

/-- Settles O56: each event by what it does where its premises hold. -/
theorem pagingEventsAct : Obligations.PagingEventsAct := by
  unfold Obligations.PagingEventsAct
  refine ⟨fun vf s n r => exec_pageRequestRecordWrite_room, fun vf v s virtual => if_pos virtual, ?answered, ?ignored, ?invalidations,
    ?completion, fun loc s exists_ => ⟨if_pos exists_, if_pos exists_⟩⟩
  case answered =>
    intro vf w s n r virtual named
    refine ⟨fun result => ?_, fun result => ?_⟩
    · rw [exec_prrplyRetry_result virtual result, named, Option.elim_some]
    · rw [exec_prrplyFail_result virtual result, named, Option.elim_some]
  case ignored =>
    intro vf w s virtual astray
    refine ⟨fun result => ?_, fun result => ?_, exec_prrplyRetry_reserved virtual, passReply_settled, ignored_ignoreReply vf s⟩
    · rw [exec_prrplyRetry_result virtual result, astray, Option.elim_none]
    · rw [exec_prrplyFail_result virtual result, astray, Option.elim_none]
  case invalidations => exact fun vf s virtual => ⟨if_pos virtual, if_pos virtual, if_pos virtual⟩
  case completion =>
    intro vf s x r oldest
    refine ⟨_, exec_invalidationComplete_oldest oldest, ?_, ?_⟩
    · rw [State.prqOf_modPrq]
    · rw [State.prqOf_modPrq, s.invalidated_prqOf]

end Sys2Proof
end

section
/-!
PROOFS. The front end's events (R389, R390, R414 to R428): control blocks and queues, packets, the steps of a launch, gangs, and how
what was launched ends.
-/

namespace Sys2Proof.Machine

/-! ## Queues (R415, R416) -/

section
variable {vf q : BitVec 6} {s : State}

@[simp] theorem State.cq_modCq (s : State) (vf q : BitVec 6) (f : CmdQueue → CmdQueue) : (s.modCq vf q f).cq vf q = f (s.cq vf q) := by
  simp [cq, modCq, setCq]

/-- A write of the tail is seen by the queue whatever the refresh before it did (R429). -/
theorem tail_qtailEffect (vf q : BitVec 6) (v : W64) (s : State) : ((qtailEffect vf q v s).cq vf q).tail = slice v 0 16 := by
  rw [qtailEffect, State.cq_modCq]

theorem exec_queueBind_managed {b : BindSpec} (virtual : isVf vf = true) (managed : s.managed = true) :
    exec (.queueBind vf q b) s = .next (queueBindEffect vf q b s) :=
  if_pos (by rw [virtual, managed]; rfl)

/-- What a queue may be set to: it is disabled at any time, and enabled where it is bound and its function has agreed a version. -/
theorem exec_queueEnable_allowed {en : Bool} (virtual : isVf vf = true) (managed : s.managed = true)
    (allowed : en = true → (s.cq vf q).bound = true ∧ s.agreed vf ≠ 0) :
    exec (.queueEnable vf q en) s = .next (s.modCq vf q (fun x => { x with en := en })) := by
  refine if_neg ?_
  cases en with
  | false => simp [virtual, managed]
  | true =>
    obtain ⟨bound, agreed⟩ := allowed rfl
    have version : decide (s.agreed vf = 0) = false := decide_eq_false agreed
    rw [virtual, managed, bound, version]
    decide

/-! ## Packets (R416 to R418) -/

section
variable {p : Packet}

theorem exec_update_packet (head : s.packet vf q = some p) (kind : p.kind = 1) :
    exec (.update vf q) s = .next (commitEffect vf q p s) := by
  show execUpdate vf q s = _
  simp only [execUpdate, head, if_pos kind]

theorem exec_gang_packet (head : s.packet vf q = some p) (kind : p.kind = 2) :
    exec (.gang vf q) s = .next (commitEffect vf q p s) := by
  show execGang vf q s = _
  simp only [execGang, head, if_pos kind]

theorem exec_launch_packet (head : s.packet vf q = some p) (noUpdate : p.kind ≠ 1) (noGang : p.kind ≠ 2) :
    exec (.launch vf q) s = .next (commitEffect vf q p s) := by
  show execLaunch vf q s = _
  simp only [execLaunch, head, if_neg (not_or.mpr ⟨noUpdate, noGang⟩)]

theorem State.modCq_congr {f g : CmdQueue → CmdQueue} (same : f (s.cq vf q) = g (s.cq vf q)) : s.modCq vf q f = s.modCq vf q g :=
  congrArg (s.setCq vf q) same

/-- A packet that cannot be read halts its queue (R416). -/
theorem commitEffect_lost (lost : p.dma = true) :
    commitEffect vf q p s = s.modCq vf q (fun x => { x with en := false, halted := true, reason := 2 }) :=
  State.modCq_congr (if_pos lost)

/-- A packet out of sequence halts its queue (R418). -/
theorem commitEffect_outOfSequence (read : p.dma = false) (other : p.seq ≠ (s.cq vf q).seqc) :
    commitEffect vf q p s = s.modCq vf q (fun x => { x with en := false, halted := true, reason := 1 }) :=
  State.modCq_congr ((if_neg (by simp [read])).trans (if_pos other))

end

/-! ## The steps of a launch (R420 to R423) -/

section
variable {l : Launch}

theorem exec_launchDispatch_due (due : s.dispatches vf q = some l) : exec (.launchDispatch vf q) s = .next (dispatchEffect vf q l s) := by
  show execLaunchDispatch vf q s = _
  rw [execLaunchDispatch, due]

theorem exec_launchStart_due (due : s.startable vf q = some l) : exec (.launchStart vf q) s = .next (startEffect vf q l s) := by
  show execLaunchStart vf q s = _
  rw [execLaunchStart, due]

theorem exec_blockedEvent_due (due : s.blocked vf q = some l) : exec (.blockedEvent vf q) s = .next (blockedEffect vf q l s) := by
  show execBlockedEvent vf q s = _
  rw [execBlockedEvent, due]

end

end

/-! ## How what was launched ends (R424, R425) -/

section
variable {n : Nat} {s : State}

@[simp] theorem State.insts_get_modInst (s : State) (n : Nat) (f : Inst → Inst) :
    (s.modInst n f).insts.get Inst.init n = f (s.insts.get Inst.init n) := by
  simp [modInst]

theorem exec_instanceEnd_due {st : BitVec 8} (due : s.endDue n = some st) : exec (.instanceEnd n) s = .next (endEffect n st s) := by
  show execInstanceEnd n s = _
  rw [execInstanceEnd, due]

theorem status_endEffect (n : Nat) (st : BitVec 8) (s : State) : ((endEffect n st s).insts.get Inst.init n).status = .ended := by
  rw [endEffect, State.insts_get_modInst]

end

end Sys2Proof.Machine

namespace Sys2Proof

open Machine

/-- Settles O55: each event by what it does where its premises hold. -/
theorem frontEndEventsAct : Obligations.FrontEndEventsAct := by
  unfold Obligations.FrontEndEventsAct
  refine ⟨?queues, fun vf q s bound => if_pos bound, ?packets, ?launches,
    fun gid s => ⟨fun ready => if_pos ready, fun late => if_pos late⟩, ?reset, ?instances⟩
  case queues =>
    intro vf q s virtual
    refine ⟨fun v => ⟨if_pos virtual, tail_qtailEffect vf q v s⟩,
      fun managed => ⟨fun b => exec_queueBind_managed virtual managed, ?_⟩, ?_⟩
    · exact exec_queueEnable_allowed virtual managed nofun
    · exact fun managed bound agreed => exec_queueEnable_allowed virtual managed fun _ => ⟨bound, agreed⟩
  case packets =>
    exact fun vf q s p head => ⟨exec_update_packet head, exec_gang_packet head, exec_launch_packet head, commitEffect_lost,
      commitEffect_outOfSequence⟩
  case launches => exact fun vf q s l => ⟨exec_launchDispatch_due, exec_launchStart_due, exec_blockedEvent_due⟩
  case reset => exact fun vf q s disabled => if_neg (by simp [disabled])
  case instances =>
    exact fun n s => ⟨fun st due => ⟨exec_instanceEnd_due due, status_endEffect n st s⟩, fun live => if_pos live,
      fun due => if_pos due⟩

end Sys2Proof
end

section
/-!
PROOFS. Pre-emption and restore (R392 to R396), migration (R401 to R403, R435, R439), slices (R387) and metering (R405 to R409).
-/

namespace Sys2Proof.Machine

/-! ## Pre-emption and restore -/

section
variable {n : Nat} {s : State}

/-- A pre-emption is under the deadline of the bind record, of which 0 means none (R392, R414). -/
theorem exec_preemptAuto_running {d : W64} (running : s.isRunning n = true) (deadline : d = (s.insts.get Inst.init n).deadline) :
    exec (.preemptAuto n d) s = .next (s.stop n false (if d = 0 then none else some (s.gtime + d))) :=
  if_pos (by rw [running, decide_eq_true deadline]; rfl)

/-- Halting the engines of a list of cores leaves whatever no core holds. -/
theorem State.halt_keeps {α : Type} (p : State → α) (keeps : ∀ (s : State) (c : Nat) (f : Core → Core), p (s.modCore c f) = p s)
    (s : State) (cs : List Nat) (counted : Bool) :
    p (cs.foldl (fun (t : State) c => t.modCore c (fun k => engines.foldl (fun k e => k.modCtx e (fun x => x.halt counted)) k)) s) =
      p s :=
  foldl_keeps p cs _ (fun s c => keeps s c _) s

theorem State.inst_stop (s : State) (n : Nat) (freeze : Bool) (d : Option W64) :
    (s.stop n freeze d).insts.get Inst.init n =
      { s.insts.get Inst.init n with status := .stopping freeze d, stopCycle := s.cycle, stopTime := s.gtime } := by
  rw [stop, State.insts_get_modInst, State.halt_keeps State.insts State.modCore_insts]

theorem State.hbm_stop (s : State) (n : Nat) (freeze : Bool) (d : Option W64) : (s.stop n freeze d).hbm = s.hbm := by
  rw [stop, State.modInst_hbm, State.halt_keeps State.hbm State.modCore_hbm]

theorem exec_contextSwapOut_halted {f : Bool} (halted : s.halted n = some f) (free : s.shadowFree n = true) :
    exec (.contextSwapOut n) s = .next (swapEffect n f s) := by
  show execContextSwapOut n s = _
  simp only [execContextSwapOut, halted, free, if_true]

theorem exec_restore_restorable {ox oy : BitVec 4} (resumed : s.dev.running = false) (restorable : s.restorable n ox oy = true) :
    exec (.restore n ox oy) s = .next (restoreEffect n ox oy s) :=
  if_pos (by rw [resumed, restorable]; rfl)

end

/-! ## Parking out (R388) -/

section
variable {cl : Nat} {s : State} {f : Bool}

theorem exec_contextParkOut_saved (saved : (s.insts.get Inst.init (s.cluster cl).shadow).status = .saved f)
    (held : (s.cluster cl).shadow ≠ 0) : exec (.contextParkOut cl) s = .next (parkEffect cl s) := by
  show execContextParkOut cl s = _
  simp only [execContextParkOut, saved, if_neg held]

theorem shadow_parkEffect (cl : Nat) (s : State) : ((parkEffect cl s).cluster cl).shadow = 0 := by
  have empty : ((s.setCluster cl { s.cluster cl with shadow := 0 }).cluster cl).shadow = 0 := by
    rw [State.cluster_setCluster]
  unfold parkEffect
  dsimp only
  split
  · exact empty
  · split <;> exact empty

end

/-! ## Migration (R401, R435, R439) -/

section
variable {sl : BitVec 5} {s : State} {target : BitVec 21} {v : BitVec 16} {round : Bool}

theorem agreedFor_ne_zero (shares : 1 ≤ (slice v 8 8 : BitVec 8).toNat) : agreedFor v ≠ 0 := by
  rw [agreedFor, if_pos shares]
  decide

/-- The managers' session carries a migration: they share a version, the slice is set here, and their link is keyed. -/
structure State.Migrates (s : State) (sl : BitVec 5) (target : BitVec 21) (v : BitVec 16) : Prop where
  shares : 1 ≤ (slice v 8 8 : BitVec 8).toNat
  granules : (s.slices.get Slice.init sl.toNat).granules ≠ 0
  link : s.sessionLink target = true
  managed : s.managed = true

theorem State.Migrates.not_refused (session : s.Migrates sl target v) :
    ¬ (agreedFor v = 0 ∨ (s.slices.get Slice.init sl.toNat).granules = 0 ∨ !s.sessionLink target ∨ !s.managed) := by
  rintro (unversioned | unset | unlinked | unmanaged)
  · exact agreedFor_ne_zero session.shares unversioned
  · exact session.granules unset
  · simp [session.link] at unlinked
  · simp [session.managed] at unmanaged

theorem exec_migration_leaves (session : s.Migrates sl target v) (away : target ≠ s.pkg) :
    exec (.migration sl ⟨target, v, round⟩) s = .next (if round then precopyEffect sl s else migrateEffect sl target s) :=
  (if_neg session.not_refused).trans (if_pos away)

theorem exec_migration_arrives {m : Migrant} (session : s.Migrates sl s.pkg v) (arriving : s.arriving sl = some m) :
    exec (.migration sl ⟨s.pkg, v, round⟩) s = .next (installEffect sl m s) := by
  show execMigration sl ⟨s.pkg, v, round⟩ s = _
  rw [execMigration, if_neg session.not_refused, if_neg (not_not.mpr rfl), arriving]

/-- Without a version in common, or without a keyed link, nothing moves. -/
theorem exec_migration_refused (apart : slice v 8 8 = 0#8 ∨ s.sessionLink target = false) :
    exec (.migration sl ⟨target, v, round⟩) s = .next s := by
  refine if_pos ?_
  obtain none | unlinked := apart
  · exact .inl (if_neg (by simp [none]))
  · exact .inr (.inr (.inl (by simp [unlinked])))

/-- What has moved leaves its place free. -/
theorem slice_migrateEffect (sl : BitVec 5) (target : BitVec 21) (s : State) :
    (migrateEffect sl target s).slices.get Slice.init sl.toNat = Slice.init :=
  Tbl.get_set_same _ _ _ _

end

/-! ## Slices and metering (R387, R405 to R409) -/

section
variable {s : State} {m : MeterMsg}

theorem granules_sliceEffect (sl : BitVec 5) (p : SliceSpec) (s : State) :
    ((sliceEffect sl p s).slices.get Slice.init sl.toNat).granules = p.granules := by
  simp [sliceEffect, State.dropStray]

theorem exec_sliceCreate_fits {sl : BitVec 5} {p : SliceSpec} (fits : s.sliceFits sl p = true) (managed : s.managed = true) :
    exec (.sliceCreate sl p) s = .next (sliceEffect sl p s) :=
  if_pos (by rw [fits, managed]; rfl)

theorem exec_regionOpen_accepted (opens : meterOpens m = true) (managed : s.managed = true) :
    exec (.regionOpen m) s = .next (openEffect m s) :=
  if_pos (by rw [opens, managed]; rfl)

theorem exec_migrateIn_accepted (arrives : s.meterArrives m = true) (managed : s.managed = true) :
    exec (.migrateIn m) s = .next (migrateInEffect m s) :=
  if_pos (by rw [arrives, managed]; rfl)

theorem exec_carryIn_accepted (carries : s.carries m = true) (managed : s.managed = true) :
    exec (.carryIn m) s = .next ((s.modRegion m.region (fun x => { x with count := m.count })).emit 4 m.region) :=
  if_pos (by rw [carries, managed]; rfl)

end

end Sys2Proof.Machine

namespace Sys2Proof

open Machine

/-- Settles O57: each event by what it does where its premises hold. -/
theorem preemptionAndMeterEventsAct : Obligations.PreemptionAndMeterEventsAct := by
  unfold Obligations.PreemptionAndMeterEventsAct
  refine ⟨?instances, ?parks, ?leaves, ?arrives, fun sl target v round s => exec_migration_refused, ?slices,
    fun region s due => if_pos due, ?regions, fun region s opened => if_pos opened⟩
  case instances =>
    intro n s
    exact ⟨fun running => ⟨if_pos running, fun d => exec_preemptAuto_running running⟩, fun freezes => if_pos freezes,
      fun due => if_pos due, fun freeze d => ⟨s.inst_stop n freeze d, s.hbm_stop n freeze d⟩, fun f => exec_contextSwapOut_halted,
      fun ox oy => exec_restore_restorable⟩
  case parks => exact fun cl s f saved held => ⟨exec_contextParkOut_saved saved held, shadow_parkEffect cl s⟩
  case leaves =>
    intro sl target v s granules away shares link managed
    have session : s.Migrates sl target v := ⟨shares, granules, link, managed⟩
    exact ⟨exec_migration_leaves session away, exec_migration_leaves session away,
      congrArg Slice.granules (slice_migrateEffect sl target s)⟩
  case arrives =>
    exact fun sl s v round m granules arriving shares link managed =>
      exec_migration_arrives ⟨shares, granules, link, managed⟩ arriving
  case slices => exact fun sl p s fits managed => ⟨exec_sliceCreate_fits fits managed, granules_sliceEffect sl p s⟩
  case regions =>
    exact fun m s managed => ⟨fun opens => exec_regionOpen_accepted opens managed,
      fun arrives => exec_migrateIn_accepted arrives managed, fun carries => exec_carryIn_accepted carries managed⟩

end Sys2Proof
end

section
/-!
PROOFS. The device's events: boot and service (R437, R441, R442), hand-over and attestation (R438 to R440), versions (R436), checkpoints
(R404), the event ring (R433), and registers by name and by place (R432, R433).
-/

namespace Sys2Proof.Machine

/-! ## Service (R441, R442) -/

section
variable {s : State}

theorem exec_reducedService_booted (boot : s.dev.svc = 0) (responds : s.dev.responder = true) :
    exec .reducedService s = .next (s.modDev (fun d => { d with svc := 1, dies := 1, clock := 1800 })) :=
  if_pos ⟨boot, responds⟩

theorem exec_clockRaise_full (full : s.dev.svc = 2) (slow : s.dev.clock.toNat ≤ 3375) :
    exec .clockRaise s = .next (s.modDev (fun d => { d with clock := d.clock + 225 })) :=
  if_pos ⟨full, Nat.add_le_add_right slow 225⟩

/-! ## Hand-over (R440, R444) -/

theorem exec_handoverStart_verified {image : BitVec 256} (responds : s.dev.responder = true) (booted : s.dev.svc ≠ 3)
    (steady : s.dev.handover = false) :
    exec (.handoverStart image true) s = .next (s.modDev (fun d => { d with handover := true, next := image })) :=
  if_pos ⟨rfl, responds, booted, by rw [steady]; rfl⟩

theorem exec_handoverCommit_under (under : s.dev.handover = true) (v : Option (BitVec 32)) :
    exec (.handoverCommit v) s = .next ((v.map (fun v => commitHandover v s)).getD (abandonHandover s)) :=
  if_pos under

/-- A hand-over for which no checkpoint waits leaves the device as its end set it. -/
theorem State.afterHandover_idle (idle : s.dev.ckptDue = false) : s.afterHandover = s :=
  if_neg (by simp [idle])

theorem commitHandover_idle (idle : s.dev.ckptDue = false) (v : BitVec 32) :
    (commitHandover v s).dev.image = s.dev.next ∧ (commitHandover v s).dev.fwver = v ∧ (commitHandover v s).dev.handover = false := by
  rw [commitHandover, State.afterHandover_idle]
  · exact ⟨rfl, rfl, rfl⟩
  · exact idle

theorem abandonHandover_idle (idle : s.dev.ckptDue = false) :
    (abandonHandover s).dev.image = s.dev.image ∧ (abandonHandover s).dev.meas = s.dev.meas ∧
      (abandonHandover s).dev.handover = false := by
  rw [abandonHandover, State.afterHandover_idle]
  · exact ⟨rfl, rfl, rfl⟩
  · exact idle

/-! ## Attestation (R435, R438, R440) -/

theorem exec_getVersion_responds (responds : s.dev.responder = true) (managed : s.managed = true) :
    exec .getVersion s = .next (s.modDev (fun d => { d with doe := .versions [0x1200, 0x1300] })) :=
  if_pos (by rw [responds, managed]; rfl)

theorem exec_getMeasurements_responds (responds : s.dev.responder = true) :
    exec .getMeasurements s =
      if s.dev.handover then .next (s.modDev (fun d => { d with doe := .notReady }))
      else .next (s.modDev (fun d => { d with doe := .measurements ((List.range 4).map (fun k => d.meas.get 0 k)) d.log })) :=
  if_neg (by simp [responds])

theorem exec_getCertificate_steady (responds : s.dev.responder = true) (steady : s.dev.handover = false) (booted : s.dev.svc ≠ 3) :
    exec .getCertificate s = .next (s.modDev (fun d => { d with doe := .certificate Config.certificateChain })) :=
  (if_neg (not_or.mpr ⟨by simp [responds], booted⟩)).trans (if_neg (by simp [steady]))

/-! ## Versions, checkpoints and the event ring (R404, R433, R436) -/

theorem exec_qver_managed {vf : BitVec 6} {v : BitVec 16} (virtual : isVf vf = true) (managed : s.managed = true) :
    exec (.qver vf v) s = .next (s.modDev (fun d => { d with qver := d.qver.set 0 vf.toNat (agreedFor v) })) :=
  if_pos (by rw [virtual, managed]; rfl)

theorem exec_ckpt_managed {v : W64} (start : v.getLsbD 0 = true) (managed : s.managed = true) :
    exec (.ckpt v) s = .next (ckptEffect s) :=
  if_pos (by rw [start, managed]; rfl)

theorem exec_checkpointComplete_parked {ok : Bool} (running : s.dev.running = true) (parked : s.allParked = true) :
    exec (.checkpointComplete ok) s = .next (checkpointEffect ok s) :=
  if_pos (by rw [running, parked]; rfl)

theorem exec_eventRecordWrite_room {t : TamperRec} {rest : List TamperRec} (events : s.dev.events = t :: rest)
    (room : ringRoom s.dev.evctl s.dev.evtail s.dev.evhead = true) : exec .eventRecordWrite s = .next (eventEffect t rest s) := by
  show execEventRecordWrite s = _
  simp only [execEventRecordWrite, events, room, if_true]

/-! ## Registers (R431 to R433, R437) -/

theorem exec_registerWrite_named {r : DevReg} {v : BitVec 128} (named : ∀ f off, r ≠ .bar0 f off ∧ r ≠ .bar0read f off)
    (virtual : (DevReg.function r).all isVf = true) (taken : s.managed = true ∨ DevReg.outside r = true) :
    exec (.registerWrite r v) s = .next (registerEffect r v s) := by
  have allowed : ((DevReg.function r).all isVf && (s.managed || DevReg.outside r)) = true := by simpa [virtual] using taken
  show execRegisterWrite r v s = _
  unfold execRegisterWrite
  split
  · exact absurd rfl (named _ _).1
  · exact absurd rfl (named _ _).2
  · exact if_pos allowed

/-- Where no register stands, a write of BAR 0 is ignored and a read gives 0. -/
theorem bar_absent {f : BitVec 6} {off : Nat} (absent : barReg f off = none) (v : W64) :
    barWrite f off v s = .next s ∧ s.barRead f off = 0 := by
  simp only [barWrite, State.barRead, absent, and_self]

end

/-! ## The places of the registers in BAR 0 (R432) -/

section
variable {vf q : BitVec 6} {n : Nat}

theorem isVf_bounds (virtual : isVf vf = true) : 1 ≤ vf.toNat ∧ vf.toNat ≤ 32 := by
  simpa [isVf] using virtual

theorem ne_zero_of_isVf (virtual : isVf vf = true) : vf ≠ 0 := by
  rintro rfl
  exact absurd virtual (by decide)

/-- A field of 6 bits, as a division of its offset gives it. -/
theorem ofNat_eq_of_toNat {m : Nat} (q : BitVec 6) (same : m = q.toNat) : BitVec.ofNat 6 m = q := by
  rw [same, BitVec.ofNat_toNat, BitVec.setWidth_eq]

theorem barReg_queue (virtual : isVf vf = true) (small : n < 8) : barReg vf (0x40 * q.toNat + 8 * n) = some (.queue vf q n) := by
  have bound := q.isLt
  have place : BitVec.ofNat 6 ((0x40 * q.toNat + 8 * n) / 0x40) = q := ofNat_eq_of_toNat q (by omega)
  have word : (0x40 * q.toNat + 8 * n) % 0x40 / 8 = n := by omega
  rw [barReg, if_neg (by omega), if_neg (ne_zero_of_isVf virtual), if_neg (by simp [virtual]), if_pos (by omega), place, word]

theorem barReg_queue_physical (virtual : isVf vf = true) (small : n < 8) :
    barReg 0 (0x20000 + 0x1000 * (vf.toNat - 1) + 0x40 * q.toNat + 8 * n) = some (.queue vf q n) := by
  have bound := q.isLt
  obtain ⟨low, high⟩ := isVf_bounds virtual
  generalize at_ : 0x20000 + 0x1000 * (vf.toNat - 1) + 0x40 * q.toNat + 8 * n = off
  have function : BitVec.ofNat 6 ((off - 0x20000) / 0x1000 + 1) = vf := ofNat_eq_of_toNat vf (by omega)
  have place : BitVec.ofNat 6 (off % 0x1000 / 0x40) = q := ofNat_eq_of_toNat q (by omega)
  have word : off % 0x40 / 8 = n := by omega
  rw [barReg, if_neg (by omega), if_pos rfl, if_neg (by omega), if_neg (by omega), if_pos (by omega), function, place, word]

theorem barReg_shadow (virtual : isVf vf = true) (small : n < 8) :
    barReg vf (0x10000 + 0x100 * q.toNat + 8 * n) = some (.shadow vf q n) := by
  have bound := q.isLt
  generalize at_ : 0x10000 + 0x100 * q.toNat + 8 * n = off
  have place : BitVec.ofNat 6 ((off - 0x10000) / 0x100) = q := ofNat_eq_of_toNat q (by omega)
  have word : off % 0x100 / 8 = n := by omega
  rw [barReg, if_neg (by omega), if_neg (ne_zero_of_isVf virtual), if_neg (by simp [virtual]), if_neg (by omega), if_neg (by omega),
    if_neg (by omega), if_pos (by omega), place, word]

theorem barReg_prq (virtual : isVf vf = true) (small : n < 8) : barReg 0 (0x10000 + 0x80 * (vf.toNat - 1) + 8 * n) = some (.prq vf n) := by
  obtain ⟨low, high⟩ := isVf_bounds virtual
  generalize at_ : 0x10000 + 0x80 * (vf.toNat - 1) + 8 * n = off
  have function : BitVec.ofNat 6 ((off - 0x10000) / 0x80 + 1) = vf := ofNat_eq_of_toNat vf (by omega)
  have word : off % 0x80 / 8 = n := by omega
  rw [barReg, if_neg (by omega), if_pos rfl, if_neg (by omega), if_pos (by omega), function, word]

end

end Sys2Proof.Machine

namespace Sys2Proof

open Machine

/-- Settles O58: each event by what it does where its premises hold. -/
theorem deviceEventsAct : Obligations.DeviceEventsAct := by
  unfold Obligations.DeviceEventsAct
  intro s
  refine ⟨fun a b => rfl, exec_reducedService_booted, fun reduced => if_pos reduced, fun fast => if_pos fast, exec_clockRaise_full,
    fun c managed => if_pos managed, fun image => exec_handoverStart_verified, ?commits, ?abandons, ?attests,
    fun vf v => exec_qver_managed, fun v managed => if_pos managed, fun v => exec_ckpt_managed, ?completes,
    fun t rest => exec_eventRecordWrite_room, fun r v => exec_registerWrite_named, ?bar, ?places⟩
  case commits =>
    exact fun v under => ⟨exec_handoverCommit_under under (some v), fun idle => commitHandover_idle idle v⟩
  case abandons => exact fun under => ⟨exec_handoverCommit_under under none, abandonHandover_idle⟩
  case attests =>
    intro responds managed
    exact ⟨exec_getVersion_responds responds managed,
      fun under => (exec_getMeasurements_responds responds).trans (if_pos under),
      fun steady => (exec_getMeasurements_responds responds).trans (if_neg (by simp [steady])),
      exec_getCertificate_steady responds⟩
  case completes => exact fun ok running parked => ⟨exec_checkpointComplete_parked running parked, rfl⟩
  case bar => exact fun f off v => ⟨fun managed => if_pos managed, rfl, fun absent => bar_absent absent _⟩
  case places =>
    exact fun vf q virtual n small => ⟨barReg_queue virtual small, barReg_queue_physical virtual small, barReg_shadow virtual small,
      barReg_prq virtual small⟩

end Sys2Proof
end

section
/-!
PROOFS. The words of the SCU's arithmetic (R101 to R105) and of the special registers (R93, R94): a word that holds an
instruction of one syllable is read whatever follows it, and a field outside its list raises ILL_FIELD.
-/

namespace Sys2Proof

/-! ## Words of one syllable -/

/-- The second syllable matters to LDI alone (R29, R108). -/
theorem decode_second {e : Engine} {w : Syl} (short : sylMajor w ≠ 28) (w2 w2' : Syl) : decode e w w2 = decode e w w2' := by
  have alu : decodeScuAlu w w2 = decodeScuAlu w w2' := by
    unfold decodeScuAlu
    simp only [if_neg short]
  simp only [decode, decodeRaw, alu]

/-- The word of a one-syllable instruction is read as it, whatever its stop bit and the syllable after it. -/
theorem Encodes.of {e : Engine} {i : Instr} {w : Bool → Syl} (word : ∀ stop, (encodeWords stop i).1 = w stop)
    (short : ∀ stop, sylMajor (w stop) ≠ 28) : Encodes e i w := by
  intro wf stop w2
  rw [decode_second (short stop) w2 (encodeWords stop i).2, ← word stop]
  exact decode_encode stop wf

/-- A word of a listed major raises ILL_FIELD where the engine's table reads nothing from it, or nothing well-formed. -/
theorem decode_illField {t : OpTable} {e : Engine} {w w2 : Syl} (on : t.on e = true) (listed : sylMajor w ∈ t.majors)
    (unread : ∀ i, t.read e w w2 = some i → wellFormed e i = false) : decode e w w2 = .error .illField := by
  rw [decode, if_pos (majorListed_of_mem on listed), decodeRaw_of_mem w2 on listed]
  cases read : t.read e w w2 with
  | none => rfl
  | some i => exact if_neg (by simp [unread i read])

/-! ## Special registers (R93, R94) -/

theorem of_ite_some {α : Type} {p : Prop} [Decidable p] {x y : α} {o : Option α} (h : (if p then some x else o) = some y) :
    (p ∧ x = y) ∨ o = some y := by
  split at h
  · exact .inl ⟨‹p›, Option.some.inj h⟩
  · exact .inr h

/-- A number names no register but the one that has it. -/
theorem SReg.code_of_ofCode {n : BitVec 10} {r : SReg} (h : SReg.ofCode n = some r) : r.code = n := by
  have split3 : n.extractLsb' 3 7 ++ n.extractLsb' 0 3 = n := BitVec.extractLsb'_append_extractLsb'
  have split2 : n.extractLsb' 2 8 ++ n.extractLsb' 0 2 = n := BitVec.extractLsb'_append_extractLsb'
  unfold SReg.ofCode at h
  iterate 11 (obtain ⟨rfl, rfl⟩ | h := of_ite_some h; · rfl)
  obtain ⟨qcfg, rfl⟩ | h := of_ite_some h
  · rw [SReg.code, ← qcfg, split3]
  obtain ⟨flagr, rfl⟩ | h := of_ite_some h
  · rw [SReg.code, ← flagr, split2]
  obtain ⟨lcnt, rfl⟩ | h := of_ite_some h
  · rw [SReg.code, ← lcnt, split2]
  iterate 4 (obtain ⟨rfl, rfl⟩ | h := of_ite_some h; · rfl)
  cases h

section
variable {e : Engine} {stop : Bool} {n : BitVec 10} {c : BitVec 6} {g : Guard} {w2 : Syl}

theorem read_mfs {i : Instr} (read : OpTable.common.read e (formS stop 23 c n g 0) w2 = some i) :
    ∃ d r, SReg.ofCode n = some r ∧ i = .mfs d r g := by
  obtain ⟨d, -, r, named, rfl⟩ : ∃ d, RF.ofCode e c = some d ∧ ∃ r, SReg.ofCode n = some r ∧ .mfs d r g = i := by
    simpa [decodeCommon, Option.bind_eq_some_iff] using read
  exact ⟨d, r, named, rfl⟩

theorem read_mts {i : Instr} (read : OpTable.common.read e (formS stop 23 c n g 1) w2 = some i) :
    ∃ a r, SReg.ofCode n = some r ∧ i = .mts r a g := by
  obtain ⟨a, -, r, named, rfl⟩ : ∃ a, RF.ofCode e c = some a ∧ ∃ r, SReg.ofCode n = some r ∧ .mts r a g = i := by
    simpa [decodeCommon, Option.bind_eq_some_iff] using read
  exact ⟨a, r, named, rfl⟩

end

/-- Settles O5: the number names no register that the engine may read, or may write. -/
theorem unlistedSpecialRegisterIsIllField : Obligations.UnlistedSpecialRegisterIsIllField := by
  unfold Obligations.UnlistedSpecialRegisterIsIllField
  intro e stop n c g w2
  refine ⟨fun unlisted => ?mfs, fun unlisted => ?mts⟩
  case mfs =>
    refine decode_illField (t := .common) rfl (by simp) fun i read => ?_
    obtain ⟨d, r, named, rfl⟩ := read_mfs read
    simp [wellFormed, unlisted r (SReg.code_of_ofCode named)]
  case mts =>
    refine decode_illField (t := .common) rfl (by simp) fun i read => ?_
    obtain ⟨a, r, named, rfl⟩ := read_mts read
    simp [wellFormed, unlisted r (SReg.code_of_ofCode named)]

end Sys2Proof
end

section
/-!
PROOFS. The SCU's arithmetic (R101 to R106): its values as the spec words them, and each instruction under its gate.
-/

namespace Sys2Proof.Machine

/-! ## Shift amounts and selections (R101) -/

theorem shiftAmt_eq (b : W64) : shiftAmt b = (b.extractLsb' 0 6).toNat := by
  simp [shiftAmt, BitVec.extractLsb'_toNat]

section
variable {w : Nat} (a b : BitVec w)

theorem ite_slt_eq_min : (if a.slt b then a else b) = BitVec.ofInt w (min a.toInt b.toInt) := by
  simp only [min_def_lt, BitVec.slt_iff_toInt_lt]
  split <;> exact BitVec.ofInt_toInt.symm

theorem ite_slt_eq_max : (if a.slt b then b else a) = BitVec.ofInt w (max a.toInt b.toInt) := by
  simp only [max_def_lt, BitVec.slt_iff_toInt_lt]
  split <;> exact BitVec.ofInt_toInt.symm

theorem ite_ult_eq_min : (if a.ult b then a else b) = BitVec.ofNat w (min a.toNat b.toNat) := by
  simp only [min_def_lt, BitVec.ult_iff_toNat_lt]
  split <;> simp

theorem ite_ult_eq_max : (if a.ult b then b else a) = BitVec.ofNat w (max a.toNat b.toNat) := by
  simp only [max_def_lt, BitVec.ult_iff_toNat_lt]
  split <;> simp

end

/-! ## Counts (R102) -/

section
variable {a : W64}

theorem clz64_zero : clz64 0 = 64 := if_pos rfl

/-- The leading zeros end at the highest one bit. -/
theorem clz64_spec (h : a ≠ 0) :
    clz64 a < 64 ∧ a.getLsbD (63 - clz64 a) = true ∧ ∀ k, 63 - clz64 a < k → a.getLsbD k = false := by
  have nonzero : a.toNat ≠ 0 := fun zero => h (BitVec.eq_of_toNat_eq zero)
  have low : a.toNat.log2 < 64 := (Nat.log2_lt nonzero).mpr a.isLt
  have count : clz64 a = 63 - a.toNat.log2 := if_neg h
  have top : 63 - clz64 a = a.toNat.log2 := by omega
  rw [top]
  refine ⟨by omega, Nat.testBit_log2 nonzero, fun k above => ?_⟩
  exact Nat.testBit_lt_two_pow ((Nat.log2_lt nonzero).mp above)

theorem ctz64_zero : ctz64 0 = 64 := by decide

/-- The trailing zeros end at the lowest one bit. -/
theorem ctz64_spec (h : a ≠ 0) :
    ctz64 a < 64 ∧ a.getLsbD (ctz64 a) = true ∧ ∀ k, k < ctz64 a → a.getLsbD k = false := by
  cases found : (List.range 64).find? (fun k => a.getLsbD k) with
  | none =>
    refine absurd (BitVec.eq_of_getLsbD_eq fun i hi => ?_) h
    simpa using List.find?_eq_none.mp found i (List.mem_range.mpr hi)
  | some n =>
    obtain ⟨one, inside, below⟩ := List.find?_range_eq_some.mp found
    rw [ctz64, found]
    exact ⟨List.mem_range.mp inside, one, fun k hk => by simpa using below k hk⟩

theorem popc64_le (a : W64) : popc64 a ≤ 64 :=
  (List.length_filter_le _ _).trans_eq List.length_range

theorem toNat_count {n : Nat} (h : n ≤ 64) : (BitVec.ofNat 64 n).toNat = n :=
  BitVec.toNat_ofNat n 64 ▸ Nat.mod_eq_of_lt (by omega)

end

/-! ## Halves of products (R105) -/

section
variable (a b : W64)

theorem mul_eq_low_half : a * b = (a.setWidth 128 * b.setWidth 128).extractLsb' 0 64 := by
  refine BitVec.eq_of_toNat_eq ?_
  simp [BitVec.extractLsb'_toNat]

theorem signed_high_half :
    BitVec.ofInt 64 (a.toInt * b.toInt / 2 ^ 64) = (a.signExtend 128 * b.signExtend 128).extractLsb' 64 64 := by
  have product : a.signExtend 128 * b.signExtend 128 = BitVec.ofInt 128 (a.toInt * b.toInt) := (BitVec.ofInt_mul _ _).symm
  rw [product]
  generalize a.toInt * b.toInt = n
  refine BitVec.eq_of_toNat_eq ?_
  simp only [BitVec.extractLsb'_toNat, BitVec.toNat_ofInt, Nat.shiftRight_eq_div_pow]
  omega

theorem unsigned_high_half :
    BitVec.ofNat 64 (a.toNat * b.toNat / 2 ^ 64) = (a.setWidth 128 * b.setWidth 128).extractLsb' 64 64 := by
  refine BitVec.eq_of_toNat_eq ?_
  simp [BitVec.extractLsb'_toNat, Nat.shiftRight_eq_div_pow]
  omega

end

/-! ## Quotients and remainders (R106) -/

section
variable (a b : W64)

/-- The quotient's second corner is what the quotient wraps to. -/
theorem divW_eq : divW a b = if b = 0 then BitVec.allOnes 64
    else if a = BitVec.intMin 64 ∧ b = BitVec.allOnes 64 then BitVec.intMin 64 else BitVec.ofInt 64 (a.toInt.tdiv b.toInt) := by
  unfold divW
  by_cases corner : a = BitVec.intMin 64 ∧ b = BitVec.allOnes 64
  · obtain ⟨rfl, rfl⟩ := corner
    decide
  · rw [if_neg corner]

theorem remW_eq : remW a b = if b = 0 then a
    else if a = BitVec.intMin 64 ∧ b = BitVec.allOnes 64 then 0
    else BitVec.ofInt 64 (a.toInt - b.toInt * a.toInt.tdiv b.toInt) := by
  unfold remW
  by_cases corner : a = BitVec.intMin 64 ∧ b = BitVec.allOnes 64
  · obtain ⟨rfl, rfl⟩ := corner
    decide
  · rw [if_neg corner, Int.tmod_def]

theorem divnW_eq : divnW a b = if b = 0 then BitVec.allOnes 64 else BitVec.ofNat 64 (a.toNat / b.toNat) := by
  rw [divnW, BitVec.udiv_def]

theorem remnW_eq : remnW a b = if b = 0 then a else BitVec.ofNat 64 (a.toNat % b.toNat) := by
  rw [remnW, BitVec.umod_def]

/-- The division that is due sends its result (R84, R87). -/
theorem exec_divideComplete_due {c : Nat} {s : State} {o : PendOp} (due : s.divideDue c = some o) :
    exec (.divideComplete c) s = .next (divideCompleteEffect c o s) := by
  show execDivideComplete c s = _
  simp only [execDivideComplete, due]

end

end Sys2Proof.Machine

namespace Sys2Proof

open Machine

/-- An instruction of two sources whose meaning computes the value that the spec words. -/
theorem TwoSource.of {i : GField → GField → GField → Guard → Instr} {lat : Nat} {f f' : W64 → W64 → W64}
    (h : ∀ d a b g s, exec (i d a b g) s = s.alu2 d a b g lat f) (value : ∀ a b, f a b = f' a b) : TwoSource i lat f' := by
  obtain rfl : f = f' := funext fun a => funext fun b => value a b
  exact fun d a b g => .of (h d a b g)

/-- An instruction with an immediate by its meaning. -/
theorem Immediate.of {w : Nat} {i : GField → GField → BitVec w → Instr} {f : W64 → BitVec w → W64}
    (h : ∀ d a n s, exec (i d a n) s = s.aluI d a (fun v => f v n)) : Immediate i f :=
  fun d a n => .of (h d a n)

/-- Settles O11: each word by the decoder's table, and each value by its lemma where the model words it otherwise. -/
theorem aluResultsOfMajorTwo : Obligations.AluResultsOfMajorTwo := by
  unfold Obligations.AluResultsOfMajorTwo
  refine ⟨?words, ?add, ?sub, ?and, ?or, ?xor, ?andn, ?shl, ?shr, ?sra, ?rotl, ?min, ?max, ?minn, ?maxn⟩
  case words =>
    intro d a b g word
    have short (m : BitVec 4) (stop : Bool) : sylMajor (word m stop) ≠ 28 := by simp [word]
    refine ⟨?_, ?_, ?_, ?_, ?_, ?_, ?_, ?_, ?_, ?_, ?_, ?_, ?_, ?_⟩
    all_goals exact .of (fun _ => rfl) (short _)
  case add | sub | and | or | xor | andn => exact .of (fun _ _ _ _ _ => rfl) fun _ _ => rfl
  case shl => exact .of (fun _ _ _ _ _ => rfl) fun a b => congrArg (a <<< ·) (shiftAmt_eq b)
  case shr => exact .of (fun _ _ _ _ _ => rfl) fun a b => congrArg (a >>> ·) (shiftAmt_eq b)
  case sra => exact .of (fun _ _ _ _ _ => rfl) fun a b => congrArg a.sshiftRight (shiftAmt_eq b)
  case rotl => exact .of (fun _ _ _ _ _ => rfl) fun a b => congrArg a.rotateLeft (shiftAmt_eq b)
  case min => exact .of (fun _ _ _ _ _ => rfl) ite_slt_eq_min
  case max => exact .of (fun _ _ _ _ _ => rfl) ite_slt_eq_max
  case minn => exact .of (fun _ _ _ _ _ => rfl) ite_ult_eq_min
  case maxn => exact .of (fun _ _ _ _ _ => rfl) ite_ult_eq_max

/-- Settles O12: the words, the fields that the table does not list, and the counts by what they say of the bits. -/
theorem unaryCountsOfMajorTwo : Obligations.UnaryCountsOfMajorTwo := by
  unfold Obligations.UnaryCountsOfMajorTwo
  refine ⟨fun d a g => ⟨?clz, ?ctz, ?popc⟩, ?unlisted, ?counts⟩
  case clz | ctz | popc => exact .of (fun _ => rfl) fun _ => by simp
  case unlisted =>
    intro stop d a s2 pg pn w2 high
    refine decode_illField (t := .scuAlu) rfl (by simp) fun i read => ?_
    have not0 : s2 ≠ 0#6 := by rintro rfl; contradiction
    have not1 : s2 ≠ 1#6 := by rintro rfl; contradiction
    have not2 : s2 ≠ 2#6 := by rintro rfl; contradiction
    simp [decodeScuAlu, not0, not1, not2] at read
  case counts =>
    refine ⟨fun a => BitVec.ofNat 64 (clz64 a), fun a => BitVec.ofNat 64 (ctz64 a), fun a => BitVec.ofNat 64 (popc64 a),
      fun d a g => .of fun _ => rfl, fun d a g => .of fun _ => rfl, fun d a g => .of fun _ => rfl,
      congrArg (BitVec.ofNat 64) clz64_zero, congrArg (BitVec.ofNat 64) ctz64_zero, fun a h => ?lead, fun a h => ?trail,
      fun a => toNat_count (popc64_le a)⟩
    case lead =>
      have spec := clz64_spec h
      rwa [← toNat_count spec.1.le] at spec
    case trail =>
      have spec := ctz64_spec h
      rwa [← toNat_count spec.1.le] at spec

/-- Settles O13: its needs hold no guard, and its value is the one that its predicate selects. -/
theorem selectReadsBothSources : Obligations.SelectReadsBothSources := by
  unfold Obligations.SelectReadsBothSources
  intro d a b g
  refine ⟨.of (fun _ => rfl) fun _ => by simp, ?_⟩
  intro s needs
  have meaning : exec (.sel d a b g) s =
      s.issue needs (fun t => t.result2 d a b 1 (fun a b => if s.cur.pr g.p != g.neg then a else b)) := rfl
  rw [meaning]
  exact ⟨fun ready => State.issue_ready ready _, fun held => State.issue_not_ready held _⟩

/-- Settles O14: the words, the shift counts that the field holds beyond 63, and each instruction by its meaning. -/
theorem immediateResultsOfMajorThree : Obligations.ImmediateResultsOfMajorThree := by
  unfold Obligations.ImmediateResultsOfMajorThree
  refine ⟨fun d a i => ⟨?addi, ?andi, ?ori, ?xori⟩, fun d a n => ⟨?shli, ?shri, ?srai⟩, ?counts, ?values⟩
  case addi | andi | ori | xori => exact .of (fun _ => rfl) fun _ => by simp
  case shli | shri | srai => exact .of (fun _ => by rw [BitVec.setWidth_eq_append (by decide)]; rfl) fun _ => by simp
  case counts =>
    intro stop d a i m w2 high minor
    refine decode_illField (t := .scuAlu) rfl (by simp) fun j read => ?_
    have top : i.extractLsb' 6 4 ≠ 0#4 := by
      intro zero
      have small := congrArg BitVec.toNat zero
      simp only [BitVec.extractLsb'_toNat, Nat.shiftRight_eq_div_pow, BitVec.toNat_ofNat] at small
      omega
    rcases minor with rfl | rfl | rfl <;> simp [decodeScuAlu, top] at read
  case values =>
    exact ⟨.of fun _ _ _ _ => rfl, .of fun _ _ _ _ => rfl, .of fun _ _ _ _ => rfl, .of fun _ _ _ _ => rfl,
      .of fun _ _ _ _ => rfl, .of fun _ _ _ _ => rfl, .of fun _ _ _ _ => rfl⟩

/-- Settles O15: the words, and each half of the product by its lemma. -/
theorem multiplyGivesItsHalf : Obligations.MultiplyGivesItsHalf := by
  unfold Obligations.MultiplyGivesItsHalf
  refine ⟨fun d a b g => ⟨?mul, ?mulh, ?mulhn⟩, .of (fun _ _ _ _ _ => rfl) mul_eq_low_half,
    .of (fun _ _ _ _ _ => rfl) signed_high_half, .of (fun _ _ _ _ _ => rfl) unsigned_high_half⟩
  all_goals exact .of (fun _ => rfl) fun _ => by simp

/-- Settles O16: the quotients and remainders by their corners, the instructions by their meaning, and the completion by the
division that is due. -/
theorem divisionIssuesAndCompletes : Obligations.DivisionIssuesAndCompletes := by
  unfold Obligations.DivisionIssuesAndCompletes
  refine ⟨fun a b => ⟨divW_eq a b, remW_eq a b, divnW_eq a b, remnW_eq a b⟩, fun d a b w => ⟨?div, ?divn, ?rem, ?remn⟩, ?complete⟩
  case div | divn | rem | remn => exact .of fun _ => rfl
  case complete => exact fun c s o due => exec_divideComplete_due due

/-- Settles O17: each instruction by its meaning under the gate; an address register is the same after a pop. -/
theorem compareMoveAndAddressResults : Obligations.CompareMoveAndAddressResults := by
  unfold Obligations.CompareMoveAndAddressResults
  refine ⟨?cmp, ?cmpi, ?movi, ?movk, ?ldi, ?bext, ?bins, ?aadd, ?aaddi, ?amov, ?aget, ?amesh⟩
  case cmp => exact fun p c a b g => .of fun _ => rfl
  case cmpi => exact fun p c a i => .of fun _ => rfl
  case movi | ldi => exact fun d i => .of fun _ => rfl
  case movk => exact fun d i h => .of fun _ => rfl
  case bext => exact .of (fun _ _ _ _ _ => rfl) fun _ _ => rfl
  case bins =>
    intro d a b g s
    have meaning : exec (.bins d a b g) s = s.alu2 d a b g 1 (insertBits (s.cur.readG d).1) := rfl
    rw [meaning]
    exact ⟨fun ready => State.issue_ready ready _, fun held => State.issue_not_ready held _⟩
  case aadd =>
    refine fun d a g => .of fun s => ?_
    have effect : (fun t : State => (popped t g).toA d (t.cur.scu.ar a + (t.cur.readG g).1)) =
        fun t => (popped t g).toA d ((t.cur.readG g).2.scu.ar a + (t.cur.readG g).1) :=
      funext fun t => by rw [(t.cur.readG_queues g).scu_ar]
    rw [effect]
    rfl
  case aaddi => exact fun d a i => .of fun _ => rfl
  case amov | aget => exact fun d a => .of fun _ => rfl
  case amesh => exact fun d sel => .of fun _ => rfl

end Sys2Proof
end

section
/-!
PROOFS. The control class at issue: transfers, loops, FORK and JOIN (R111 to R116), and the sequencing, flag, queue and system
instructions (R88 to R120, R379 to R383).
-/

namespace Sys2Proof.Machine

/-! ## Where the gate lets an instruction go -/

/-- An instruction under the gate that goes leaves what its effect gives. -/
theorem exec_of_ready {i : Instr} {s t : State} {n : Needs} {effect : State → State} (meaning : exec i s = s.issue n effect)
    (ready : s.ready n = true) (gives : effect s = t) : exec i s = .next t := by
  rw [meaning, State.issue_ready ready, gives]

/-! ## Where the gate does not let an instruction go (R34, R90) -/

section
variable {s : State} {n : Needs}

/-- An instruction without queue operands. -/
def Needs.Plain (n : Needs) : Prop := n.bad = false ∧ n.srcs = [] ∧ n.dst = none

theorem State.issue_skips (plain : n.Plain) (off : n.act = false) (f : State → State) : s.issue n f = .next s := by
  obtain ⟨bad, srcs, dst⟩ := plain
  simp [State.issue, Core.gate, Core.dstOk, bad, srcs, dst, off]

theorem State.issue_waits {c : WaitCause} (plain : n.Plain) (on : n.act = true) (tok : n.tok = none) (ld : n.ld = false)
    (st : n.st = false) (cond : n.cond = some c) (f : State → State) : s.issue n f = .next (s.noteWait [c]) := by
  obtain ⟨bad, srcs, dst⟩ := plain
  simp [State.issue, Core.gate, Core.dstOk, Core.waits, closedQueue, queueWaits, unmetPops, bad, srcs, dst, on, tok, ld, st, cond]

/-- What the gate lets go has nothing to wait for. -/
theorem Core.waits_of_go {k : Core} {e : Engine} (go : k.gate e n = .go) : k.waits e n = [] := by
  unfold Core.gate at go
  split at go
  case isTrue => cases go
  case isFalse =>
    split at go
    case isTrue => cases go
    case isFalse =>
      split at go
      case h_1 => cases go
      case h_2 =>
        split at go
        case h_1 none_ => exact none_
        case h_2 => cases go

/-- What goes has no further reason to wait. -/
theorem State.cond_of_ready (ready : s.ready n = true) : n.cond = none := by
  have waits := Core.waits_of_go ((s.ready_iff n).mp ready)
  rw [Core.waits, List.append_eq_nil_iff, Option.toList_eq_nil_iff] at waits
  exact waits.2

end

/-! ## Transfers (R35, R111 to R113) -/

section
variable (l : BitVec 16) (y : BitVec 4) (g : Guard) (a : GField) (s : State)

theorem exec_br : exec (.br l y g) s = s.issue { act := s.cur.guardP g } (fun s => s.transfer (s.labelPt l y)) := rfl

theorem exec_jmp : exec (.jmp l y) s = s.issue {} (fun s => s.transfer (s.labelPt l y)) := rfl

theorem exec_call : exec (.call l y g) s =
    s.issue { act := s.cur.guardP g, lat := 1, file := .gpa } (callEffect l y ((s.cached s.focus s.ctx.pt).getD 0)) := rfl

theorem exec_jmpr : exec (.jmpr a g) s =
    s.issue { srcs := [a.qref], act := s.cur.guardP g } (fun s => (popped s a).transfer (s.cur.readG a).1) := rfl

theorem exec_ret : exec (.ret g) s = s.issue { act := s.cur.guardP g } (fun s => s.transfer (s.cur.scu.ar 15)) := rfl

end

section
variable {s : State} {p : W64} {f : BitVec 8 × W64 × W64}

theorem State.reaches_iff : s.reaches p = true ↔ s.pointFault s.focus s.eng p = some none := by
  simp [State.reaches]

theorem State.targetFault_of_pointFault {x : Option (BitVec 8 × W64 × W64)} (h : s.pointFault s.focus s.eng p = some x) :
    s.targetFault p = some x := by
  rw [State.targetFault, h]

/-- A transfer to a point that meets no fault is taken. -/
theorem State.transfer_reaches (h : s.reaches p = true) : s.transfer p = s.modCtx (fun x => { x with target := some p }) := by
  rw [State.transfer, State.targetFault_of_pointFault (State.reaches_iff.mp h)]

/-- A transfer to a faulty point traps at its own group. -/
theorem State.transfer_meets (h : s.pointFault s.focus s.eng p = some (some f)) :
    s.transfer p = s.groupTrap f.1 f.2.1 f.2.2 := by
  rw [State.transfer, State.targetFault_of_pointFault h]
  rfl

end

/-- Two states whose cores and instances give the same lines to a core (R49). -/
def State.SameLines (s t : State) (c : Nat) : Prop :=
  (t.core c).icache = (s.core c).icache ∧ (t.core c).inst = (s.core c).inst ∧ t.insts = s.insts

section
variable {s t : State} {c : Nat} (same : s.SameLines t c)
include same

theorem State.SameLines.cached : t.cached c = s.cached c := by
  obtain ⟨icache, inst, insts⟩ := same
  funext p
  simp only [State.cached, State.space, State.instOf, icache, inst, insts]

theorem State.SameLines.pointFault : t.pointFault c = s.pointFault c := by
  funext e p
  simp only [State.pointFault, same.cached]

theorem State.SameLines.chain (focus : s.focus = c) (focus' : t.focus = c) (p : W64) (n : Nat) : t.chain p n = s.chain p n := by
  induction n generalizing p with
  | zero => rfl
  | succ n ih => simp only [State.chain, focus, focus', same.cached, ih]

end

theorem sameLines_modCur (s : State) {f : Core → Core} (icache : (f s.cur).icache = s.cur.icache) (inst : (f s.cur).inst = s.cur.inst) :
    s.SameLines (s.modCur f) s.focus :=
  ⟨(congrArg Core.icache (State.core_modCore s s.focus f)).trans icache,
    (congrArg Core.inst (State.core_modCore s s.focus f)).trans inst, rfl⟩

theorem popped_sameLines (s : State) (a : GField) : s.SameLines (popped s a) s.focus := by
  obtain ⟨q, n, h⟩ := s.cur.readG_queues a
  refine ⟨?_, ?_, rfl⟩ <;> rw [popped, State.core_setCore, h] <;> rfl

theorem toA_sameLines (s : State) (d : BitVec 4) (v : W64) : s.SameLines (s.toA d v) s.focus := by
  refine sameLines_modCur s ?_ ?_ <;> cases s.eng <;> rfl

section
variable {s : State} {p : W64} {a : GField}

/-- What a pop changes is no matter to a target. -/
theorem pointFault_popped : (popped s a).pointFault (popped s a).focus (popped s a).eng p = s.pointFault s.focus s.eng p :=
  congrFun (congrFun (popped_sameLines s a).pointFault s.eng) p

theorem pointFault_toA {d : BitVec 4} {v : W64} :
    (s.toA d v).pointFault (s.toA d v).focus (s.toA d v).eng p = s.pointFault s.focus s.eng p :=
  congrFun (congrFun (toA_sameLines s d v).pointFault s.eng) p

theorem reaches_popped : (popped s a).reaches p = s.reaches p := by
  rw [State.reaches, pointFault_popped, State.reaches]

theorem reaches_toA {d : BitVec 4} {v : W64} : (s.toA d v).reaches p = s.reaches p := by
  rw [State.reaches, pointFault_toA, State.reaches]

/-- A CALL whose target meets no fault is taken, and a15 takes its return point, where a group follows it (R113). -/
theorem callEffect_follows {l : BitVec 16} {y : BitVec 4} {line : Line} {q : W64} (reaches : s.reaches (s.labelPt l y) = true)
    (follows : Line.follow line s.ctx.pt = some q) :
    callEffect l y line s =
      (s.toA 15 ((s.cur.following line s.ctx.pt).1.getD 0)).modCtx (fun x => { x with target := some (s.labelPt l y) }) := by
  have target := State.targetFault_of_pointFault (State.reaches_iff.mp reaches)
  rw [← State.transfer_reaches (reaches_toA.trans reaches)]
  simp [callEffect, target, firstLink, State.callFault, follows]

/-- A CALL in the last group of a line with END = 1 is ILL_LINE (R113). -/
theorem callEffect_ends {l : BitVec 16} {y : BitVec 4} {line : Line} (reaches : s.reaches (s.labelPt l y) = true)
    (ends : Line.follow line s.ctx.pt = none) :
    callEffect l y line s = s.groupTrap 0x04 (ptLine s.ctx.pt) (linkDetail line s.idx) := by
  have target := State.targetFault_of_pointFault (State.reaches_iff.mp reaches)
  simp [callEffect, target, firstLink, State.callFault, ends]
  rfl

end

/-! ## Loops (R114) -/

/-- The level that a LOOP of line `line` makes active. -/
def State.loopLevel (s : State) (line : Line) (stop : Option W64) (es : BitVec 4) (count : Nat) : Loop :=
  { active := true, start := (Line.follow line s.ctx.pt).getD 0, stop := endPoint stop es, rem := BitVec.ofNat 64 count }

section
variable {s : State} {lvl : BitVec 2} {count : Nat} {el es : BitVec 4} {line : Line} {stop : Option W64}
  (chain : s.chain s.ctx.pt el.toNat = .ok stop)
include chain

theorem loopEffect_counts (held : s.cached s.focus s.ctx.pt = some line) (some_ : count ≠ 0) :
    loopEffect lvl count el es s =
      s.modCur (fun k => { k with loops := k.loops.set Loop.init lvl.toNat (s.loopLevel line stop es count) }) := by
  simp only [loopEffect, chain, if_neg some_, held, Option.getD_some]
  rfl

theorem loopEffect_skips : loopEffect lvl 0 el es s =
    (s.modCur (fun k => { k with loops := k.loops.set Loop.init lvl.toNat Loop.init })).skipLoop (endPoint stop es) := by
  simp only [loopEffect, chain, if_true]

end

section
variable (lvl : BitVec 2) (n : BitVec 9) (a : GField) (el es : BitVec 4) (s : State)

theorem exec_loopImmediate : exec (.loopImmediate lvl n el es) s = s.issue {} (loopEffect lvl n.toNat el es) := rfl

theorem exec_loopRegister : exec (.loopRegister lvl a el es) s = s.issue { srcs := [a.qref] }
    (fun s => loopEffect lvl ((s.cur.readG a).1.toNat % 2 ^ 32) el es (popped s a)) := rfl

end

section
variable (s : State) (a : GField)

theorem ctx_popped : (popped s a).ctx.pt = s.ctx.pt := by
  obtain ⟨q, n, h⟩ := s.cur.readG_queues a
  show ((popped s a).cur.ctx s.eng).pt = _
  rw [popped, State.cur_setCore, h]
  cases he : s.eng <;> simp [State.ctx, Core.ctx, he]

theorem chain_popped (n : Nat) : (popped s a).chain (popped s a).ctx.pt n = s.chain s.ctx.pt n := by
  rw [ctx_popped]
  exact (popped_sameLines s a).chain rfl rfl _ n

theorem cached_popped : (popped s a).cached (popped s a).focus (popped s a).ctx.pt = s.cached s.focus s.ctx.pt := by
  rw [ctx_popped]
  exact congrFun (popped_sameLines s a).cached _

end

/-! ## FORK and JOIN (R115, R116) -/

section
variable {s : State} {e : Engine} {g : Guard}

theorem Ctx.isHalted_iff {x : Ctx} : x.isHalted = true ↔ x.run = .halted := by
  simp [Ctx.isHalted]

theorem State.halted_of_ready (ready : s.ready (s.needsFork e g) = true) : (s.cur.ctx e).run = .halted := by
  have cond := State.cond_of_ready ready
  rw [← Ctx.isHalted_iff]
  by_contra running
  simp [State.needsFork, running] at cond

theorem State.needsJoin_cond {ve ce mx : Bool}
    (running : (ve = true ∧ s.cur.ve.run ≠ .halted) ∨ (ce = true ∧ s.cur.ce.run ≠ .halted) ∨ (mx = true ∧ s.cur.mx.run ≠ .halted)) :
    (s.needsJoin ve ce mx g).cond = some .join := by
  refine if_neg ?_
  simp only [Bool.and_eq_true, Bool.or_eq_true, Bool.not_eq_true', Ctx.isHalted_iff]
  rintro ⟨⟨veHalted, ceHalted⟩, mxHalted⟩
  rcases running with ⟨rfl, runs⟩ | ⟨rfl, runs⟩ | ⟨rfl, runs⟩
  · exact veHalted.elim Bool.noConfusion runs
  · exact ceHalted.elim Bool.noConfusion runs
  · exact mxHalted.elim Bool.noConfusion runs

end

/-! ## Tokens and special registers (R88, R94) -/

section
variable {s : State}

theorem State.token_of_waitk {m : BitVec 8} (ready : s.ready (s.needsWaitk m) = true) (k : BitVec 3)
    (masked : m.getLsbD k.toNat = true) : s.ctx.token k = 0 := by
  have cond := State.cond_of_ready ready
  by_contra charged
  have blocked : s.ctx.blocked m = true :=
    List.any_eq_true.mpr ⟨k.toNat, List.mem_range.mpr k.isLt, by simp [masked, charged, -BitVec.getLsbD_eq_getElem]⟩
  simp [State.needsWaitk, blocked] at cond

variable {c : Nat} {e : Engine} {r : SReg}

theorem State.sregBefore_unlatched (unlatched : ∀ p ∈ (s.core c).latched, p.1 ≠ e ∨ p.2.1 ≠ r) :
    s.sregBefore c e r = s.sreg c e r := by
  have none_ : (s.core c).latched.find? (fun p => decide (p.1 = e) && decide (p.2.1 = r)) = none := by
    rw [List.find?_eq_none]
    intro p hp
    simpa [← not_and_or] using unlatched p hp
  rw [State.sregBefore, none_]

theorem State.sregBefore_latched {v : W64} {rest : List (Engine × SReg × W64)} (latched : (s.core c).latched = (e, r, v) :: rest) :
    s.sregBefore c e r = v := by
  simp [State.sregBefore, latched]

end

end Sys2Proof.Machine

namespace Sys2Proof

open Machine

/-- Settles O18: each transfer by what its target meets; CALL also by what follows its group. -/
theorem transfersAreTaken : Obligations.TransfersAreTaken := by
  unfold Obligations.TransfersAreTaken
  intro s l y g a go dest
  refine ⟨?br, ?jmp, ?call, ?jmpr, ?ret, ?skips, ?ends, ?faults⟩
  case br => exact fun ready reaches => exec_of_ready (exec_br l y g s) ready (State.transfer_reaches reaches)
  case jmp => exact fun ready reaches => exec_of_ready (exec_jmp l y s) ready (State.transfer_reaches reaches)
  case ret => exact fun ready reaches => exec_of_ready (exec_ret g s) ready (State.transfer_reaches reaches)
  case jmpr =>
    exact fun ready reaches => exec_of_ready (exec_jmpr g a s) ready (State.transfer_reaches (reaches_popped.trans reaches))
  case call =>
    intro line p ready reaches held follows
    refine exec_of_ready (exec_call l y g s) ready ?_
    rw [held, Option.getD_some]
    exact callEffect_follows reaches follows
  case ends =>
    intro line ready reaches held last
    refine exec_of_ready (exec_call l y g s) ready ?_
    rw [held, Option.getD_some]
    exact callEffect_ends reaches last
  case skips => exact fun off _ => (exec_br l y g s).trans (State.issue_skips ⟨rfl, rfl, rfl⟩ off _)
  case faults =>
    intro f meets
    refine ⟨?br, ?jmp, ?jmpr, ?ret⟩
    case br => exact fun ready faulty => exec_of_ready (exec_br l y g s) ready (State.transfer_meets faulty)
    case jmp => exact fun ready faulty => exec_of_ready (exec_jmp l y s) ready (State.transfer_meets faulty)
    case jmpr =>
      exact fun ready faulty => exec_of_ready (exec_jmpr g a s) ready (State.transfer_meets (pointFault_popped.trans faulty))
    case ret => exact fun ready faulty => exec_of_ready (exec_ret g s) ready (State.transfer_meets faulty)

/-- Settles O19: each LOOP by its count; what it pops moves neither its group nor the lines held. -/
theorem loopBecomesActive : Obligations.LoopBecomesActive := by
  unfold Obligations.LoopBecomesActive
  intro s lvl n a el es line stop level set held chain
  have chainPopped := (chain_popped s a el.toNat).trans chain
  refine ⟨fun ready some_ => ?immediate, fun ready some_ => ?register, ?zero⟩
  case immediate =>
    have counts : n.toNat ≠ 0 := fun zero => some_ (BitVec.eq_of_toNat_eq zero)
    exact exec_of_ready (exec_loopImmediate lvl n el es s) ready (loopEffect_counts chain held counts)
  case register =>
    refine exec_of_ready (exec_loopRegister lvl a el es s) ready ?_
    rw [loopEffect_counts chainPopped ((cached_popped s a).trans held) some_, State.loopLevel, ctx_popped]
  case zero =>
    intro off
    refine ⟨fun ready => ?immediate, fun ready zero => ?register⟩
    case immediate => exact exec_of_ready (exec_loopImmediate lvl 0 el es s) ready (loopEffect_skips chain)
    case register =>
      refine exec_of_ready (exec_loopRegister lvl a el es s) ready ?_
      rw [zero]
      exact loopEffect_skips chainPopped

/-- Settles O20: the gate by the guard and by the engines that run, and what FORK does where it goes. -/
theorem forkStartsAndJoinWaits : Obligations.ForkStartsAndJoinWaits := by
  unfold Obligations.ForkStartsAndJoinWaits
  refine ⟨?fork, ?forkWaits, ?join, ?joinWaits, ?skips⟩
  case fork => exact fun e l y g s ready => ⟨State.halted_of_ready ready, exec_of_ready rfl ready rfl⟩
  case forkWaits =>
    intro e l y g s on running
    have cond : (s.needsFork e g).cond = some .fork := if_neg (Ctx.isHalted_iff.not.mpr running)
    exact State.issue_waits (n := s.needsFork e g) ⟨rfl, rfl, rfl⟩ on rfl rfl rfl cond _
  case join => exact fun ve ce mx g => .of fun _ => rfl
  case joinWaits =>
    exact fun ve ce mx g s on running =>
      State.issue_waits (n := s.needsJoin ve ce mx g) ⟨rfl, rfl, rfl⟩ on rfl rfl rfl (State.needsJoin_cond running) _
  case skips =>
    exact fun e l y ve ce mx g s off => ⟨State.issue_skips (n := s.needsFork e g) ⟨rfl, rfl, rfl⟩ off _,
      State.issue_skips (n := s.needsJoin ve ce mx g) ⟨rfl, rfl, rfl⟩ off _⟩

/-- Settles O21: each instruction by its meaning under the gate, and what MFS reads by what is latched. -/
theorem controlInstructionsComplete : Obligations.ControlInstructionsComplete := by
  unfold Obligations.ControlInstructionsComplete
  refine ⟨fun _ => rfl, ?halt, ?waitk, fun _ _ => State.token_of_waitk, ?slack, ?mfs,
    fun _ _ _ _ => ⟨State.sregBefore_unlatched, fun _ _ => State.sregBefore_latched⟩, ?mts, ?fset, ?fwait, ?fclr, ?qclose, ?qstat,
    ?faultrd, ?hcall, ?icinv, ?mtrrd⟩
  case halt => exact .of fun _ => rfl
  case waitk | slack | fclr => exact fun _ => .of fun _ => rfl
  case qclose => exact fun _ _ => .of fun _ => rfl
  case mfs | mts | fset | fwait | qstat | faultrd | mtrrd => exact fun _ _ _ => .of fun _ => rfl
  case hcall | icinv => exact fun _ _ _ _ => .of fun _ => rfl

/-- Settles O22: each instruction by its meaning under the gate. -/
theorem scuMemoryInstructionsEnter : Obligations.ScuMemoryInstructionsEnter := by
  unfold Obligations.ScuMemoryInstructionsEnter
  refine ⟨fun t d m w => ⟨?ld, ?ldn, ?lda⟩, ?st, ?atm, ?acas, ?acas2, ?stbind, fun r w => ⟨?stunbd, ?stflsh, ?stdrop, ?sttch⟩,
    fun n b w => ⟨?cflsh, ?cinv, ?cdisc⟩⟩
  case ld | ldn | lda | stunbd | stflsh | stdrop | sttch | cflsh | cinv | cdisc => exact .of fun _ => rfl
  case st | acas2 => exact fun _ _ _ _ => .of fun _ => rfl
  case atm => exact fun _ _ _ _ _ _ => .of fun _ => rfl
  case acas => exact fun _ _ _ _ _ => .of fun _ => rfl
  case stbind => exact fun _ _ _ => .of fun _ => rfl

end Sys2Proof
end

section
/-!
PROOFS. Results as they land (R82 to R85, R121, R126), the write slots that returns find (R85), flag arithmetic (R99), and the
sequencer's own steps (R48, R84 to R97).
-/

namespace Sys2Proof.Machine

/-! ## Bits under a mask -/

theorem getLsbD_bit {n : Nat} (b : Bool) (i j : Nat) :
    (bit b i : BitVec n).getLsbD j = (b && decide (i = j) && decide (j < n)) := by
  cases b with
  | false => exact BitVec.getLsbD_zero
  | true => rw [bit, if_pos rfl, BitVec.getLsbD_ofNat, Nat.testBit_two_pow, Bool.true_and, Bool.and_comm]

/-- Bits of `v` where the mask has them, of `x` elsewhere. -/
theorem getLsbD_masked {n : Nat} (x v mask : BitVec n) (j : Nat) :
    ((x &&& ~~~mask) ||| (v &&& mask)).getLsbD j = if mask.getLsbD j then v.getLsbD j else x.getLsbD j := by
  by_cases inside : j < n
  · cases h : mask.getLsbD j <;> simp [h, inside, -BitVec.getLsbD_eq_getElem]
  · simp [BitVec.getLsbD_of_ge _ j (Nat.not_lt.mp inside)]

/-- A byte of a row mask is set where the guard has its bit (R123). -/
theorem getLsbD_rowMask (m : BMask) {j i : Nat} (hj : j < 256) (hi : i < 8) : (rowMask m).getLsbD (8 * j + i) = m.getLsbD j := by
  unfold rowMask
  split
  case isTrue all =>
    rw [all, BitVec.getLsbD_allOnes, BitVec.getLsbD_allOnes, decide_eq_true (by omega), decide_eq_true hj]
  case isFalse =>
    have byte : (0xFF#2048) = (BitVec.allOnes 8).setWidth 2048 := BitVec.ofNat_toNat 2048 (BitVec.allOnes 8)
    rw [byte, getLsbD_foldl_place (fun k => m.getLsbD k) (fun _ => BitVec.allOnes 8) hj (Nat.le_refl _) hi,
      BitVec.getLsbD_allOnes, decide_eq_true hi, Bool.and_true]

/-- A byte of a merged row comes from the new row where the guard enables it (R123, R173). -/
theorem slice_mergeBytes (old new : Row) (m : BMask) {j : Nat} (hj : j < 256) :
    (slice (mergeBytes old new m) (8 * j) 8 : Byte) = if m.getLsbD j = true then slice new (8 * j) 8 else slice old (8 * j) 8 := by
  unfold mergeBytes
  split
  case isTrue all => rw [if_pos (by rw [all, BitVec.getLsbD_allOnes, decide_eq_true hj])]
  case isFalse =>
    refine BitVec.eq_of_getLsbD_eq fun i hi => ?_
    rw [slice, BitVec.getLsbD_extractLsb', getLsbD_masked, getLsbD_rowMask m hj hi]
    split <;> simp [slice, hi, -BitVec.getLsbD_eq_getElem]

/-! ## Registers after a landing (R82, R84, R121) -/

section
variable (k : Core) (e : Engine)

theorem Core.gr_setG (n m : BitVec 6) (v : W64) : (k.setG n v).gr m = if m = n ∧ n ≠ 0 then v else k.gr m := by
  by_cases zero : n = 0
  · rw [if_neg fun h => h.2 zero, Core.setG, if_pos zero]
  · have written : (k.setG n v).g = k.g.set 0 n.toNat v := by rw [Core.setG, if_neg zero]
    by_cases same : m = n
    · rw [same, if_pos ⟨rfl, zero⟩, Core.gr, if_neg zero, written, Tbl.get_set_same]
    · rw [if_neg fun h => same h.1, Core.gr, Core.gr, written, Tbl.get_set_other _ _ _ (BitVec.toNat_inj.not.mpr same)]

theorem Core.pr_setP (n m : BitVec 3) (v : Bool) : (k.setP n v).pr m = if m = n ∧ n ≠ 0 then v else k.pr m := by
  by_cases zero : n = 0
  · rw [if_neg fun h => h.2 zero, Core.setP, if_pos zero]
  · have written : (k.setP n v).p = (k.p &&& ~~~(bit true n.toNat)) ||| bit v n.toNat := by rw [Core.setP, if_neg zero]
    have small : m.toNat < 8 := m.isLt
    rw [Core.pr, written, BitVec.getLsbD_or, BitVec.getLsbD_and, BitVec.getLsbD_not, getLsbD_bit, getLsbD_bit]
    by_cases same : m = n
    · rw [if_pos ⟨same, zero⟩, decide_eq_false (same ▸ zero), same]
      simp [same ▸ small]
    · rw [if_neg fun h => same h.1, Core.pr]
      simp [small, BitVec.toNat_inj, Ne.symm same, -BitVec.getLsbD_eq_getElem]

theorem Ctx.ar_setA (x : Ctx) (n m : BitVec 4) (v : W64) : (x.setA n v).ar m = if m = n then v else x.ar m := by
  simp only [Ctx.ar, Ctx.setA, Tbl.get_set, BitVec.toNat_inj]

theorem Core.vr_apply_v (n m : BitVec 5) (v : Row) (b : BMask) :
    (k.apply e (.v n v b)).vr m = if m = n then mergeBytes (k.vr n) v b else k.vr m := by
  simp only [Core.apply, Core.vr, Tbl.get_set, BitVec.toNat_inj]

theorem Core.vpr_apply_vp (n m : BitVec 3) (v b : BMask) :
    (k.apply e (.vp n v b)).vpr m = if m = n ∧ n ≠ 0 then (k.vpr n &&& ~~~b) ||| (v &&& b) else k.vpr m := by
  by_cases zero : n = 0
  · rw [if_neg fun h => h.2 zero, Core.apply, if_pos zero]
  · have written : (k.apply e (.vp n v b)).vp = k.vp.set 0 n.toNat ((k.vpr n &&& ~~~b) ||| (v &&& b)) := by
      rw [Core.apply, if_neg zero]
    by_cases same : m = n
    · rw [same, if_pos ⟨rfl, zero⟩, Core.vpr, if_neg zero, written, Tbl.get_set_same]
    · rw [if_neg fun h => same h.1, Core.vpr, written, Tbl.get_set_other _ _ _ (BitVec.toNat_inj.not.mpr same), Core.vpr]

/-- A general register's landing leaves the rest of the core. -/
theorem Core.setG_frame (n : BitVec 6) (v : W64) :
    (k.setG n v).v = k.v ∧ (k.setG n v).vp = k.vp ∧ (k.setG n v).p = k.p ∧ (k.setG n v).flags = k.flags ∧
      (k.setG n v).queues = k.queues ∧ (k.setG n v).scu = k.scu := by
  unfold Core.setG
  split <;> exact ⟨rfl, rfl, rfl, rfl, rfl, rfl⟩

end

/-! ## Write slots (R85, R126) -/

section
variable {e : Engine} {f : RegFile} {taken : List (Nat × Effect)} {r : Return}

/-- A return that writes nothing of a file takes none of its slots. -/
theorem slotsTaken_append_writes (none_ : ∀ x ∈ r.effs, x.file e ≠ f) : slotsTaken e f (taken ++ r.writes) = slotsTaken e f taken := by
  have writes : r.writes.filter (fun p => decide (p.2.file e = f)) = [] := by
    simpa [Return.writes] using none_
  simp only [slotsTaken, List.filter_append, writes, List.append_nil]

/-- A return that fits leaves each file within its four slots. -/
theorem slotsTaken_of_fits (file : f ≠ .free) (fits : r.fits e taken = true) (before : slotsTaken e f taken ≤ 4) :
    slotsTaken e f (taken ++ r.writes) ≤ 4 := by
  have listed : f ∈ [RegFile.gpa, .v, .vp, .x] := by
    cases f with
    | free => exact absurd rfl file
    | gpa | v | vp | x => decide
  have here := List.all_eq_true.mp fits f listed
  rw [Bool.or_eq_true, List.all_eq_true, decide_eq_true_eq] at here
  rcases here with none_ | room
  · rw [slotsTaken_append_writes fun x hx => of_decide_eq_true (none_ x hx)]
    exact before
  · exact room

theorem pickReturns_cons (now : Nat) (rs : List Return) :
    pickReturns e now taken (r :: rs) =
      if r.due ≤ now ∧ r.fits e taken = true then
        (r :: (pickReturns e now (taken ++ r.writes) rs).1, (pickReturns e now (taken ++ r.writes) rs).2)
      else ((pickReturns e now taken rs).1, r :: (pickReturns e now taken rs).2) := by
  simp [pickReturns]

theorem slotsTaken_pickReturns (file : f ≠ .free) (now : Nat) (rs : List Return) (before : slotsTaken e f taken ≤ 4) :
    slotsTaken e f (taken ++ ((pickReturns e now taken rs).1.map Return.writes).flatten) ≤ 4 := by
  induction rs generalizing taken with
  | nil => simpa [pickReturns] using before
  | cons r rs ih =>
    rw [pickReturns_cons]
    split
    case isTrue goes =>
      simpa using ih (slotsTaken_of_fits file goes.2 before)
    case isFalse => exact ih before

/-- The returns are parted into those that land and those that wait, each in their order. -/
theorem pickReturns_parts (e : Engine) (now : Nat) (taken : List (Nat × Effect)) (rs : List Return) :
    ((pickReturns e now taken rs).1 ++ (pickReturns e now taken rs).2).Perm rs ∧
      (pickReturns e now taken rs).1.Sublist rs ∧ (pickReturns e now taken rs).2.Sublist rs ∧
      ∀ r ∈ (pickReturns e now taken rs).1, r.due ≤ now := by
  induction rs generalizing taken with
  | nil => simp [pickReturns]
  | cons r rs ih =>
    rw [pickReturns_cons]
    split
    case isTrue goes =>
      obtain ⟨all, go, stay, due⟩ := ih (taken ++ r.writes)
      exact ⟨all.cons r, go.cons_cons r, stay.cons r, List.forall_mem_cons.mpr ⟨goes.1, due⟩⟩
    case isFalse =>
      obtain ⟨all, go, stay, due⟩ := ih taken
      exact ⟨List.perm_middle.trans (all.cons r), go.cons r, stay.cons_cons r, due⟩

end

/-! ## Issue order (R84) -/

theorem insertWrite_eq_insertByKey (p : Nat × Effect) (l : List (Nat × Effect)) : insertWrite p l = insertByKey Prod.fst p l := by
  induction l with
  | nil => rfl
  | cons q l ih => rw [insertWrite, ih, insertByKey_cons]

/-- Writes that are placed one after another among ordered ones: none is lost, and all stand ordered. -/
theorem foldl_insertWrite (l r : List (Nat × Effect)) (ordered : r.Pairwise (fun a b => a.1 ≤ b.1)) :
    (l.foldl (fun r p => insertWrite p r) r).Perm (l ++ r) ∧
      (l.foldl (fun r p => insertWrite p r) r).Pairwise (fun a b => a.1 ≤ b.1) := by
  induction l generalizing r with
  | nil => exact ⟨.refl r, ordered⟩
  | cons p l ih =>
    rw [List.foldl_cons, insertWrite_eq_insertByKey]
    obtain ⟨all, placed⟩ := ih _ (pairwise_insertByKey Prod.fst p ordered)
    exact ⟨all.trans (((insertByKey_perm Prod.fst p r).append_left l).trans List.perm_middle), placed⟩

/-! ## Flags (R99) -/

section
variable (k : Core) (n m : BitVec 4) (v : BitVec 16)

theorem Core.flag_setFlag : (k.setFlag n v).flag m = if m = n then v else k.flag m := by
  simp [Core.flag, Core.setFlag, Tbl.get_set, BitVec.toNat_inj]

theorem Core.flag_addFlag :
    (k.addFlag n v).flag m =
      if m = n then BitVec.ofNat 16 (min 65535 ((k.flag n).toNat + v.toNat)) else k.flag m := by
  unfold Core.addFlag
  split
  case isTrue fits =>
    rw [Core.flag_setFlag, min_eq_right fits, BitVec.add_def]
  case isFalse exceeds =>
    rw [min_eq_left (by omega)]
    exact k.flag_setFlag n m 0xFFFF

theorem Core.fovf_addFlag : (k.addFlag n v).fovf =
    if 65535 < (k.flag n).toNat + v.toNat then k.fovf ||| bit true n.toNat else k.fovf := by
  unfold Core.addFlag
  split
  case isTrue fits => exact (if_neg (by omega)).symm
  case isFalse exceeds => exact (if_pos (by omega)).symm

theorem Core.addFlag_frame : (k.addFlag n v).g = k.g ∧ (k.addFlag n v).v = k.v := by
  unfold Core.addFlag
  split <;> exact ⟨rfl, rfl⟩

/-- What the FWAITs already satisfied in the cycle take of a flag. -/
def takenOf (l : Late) : Nat :=
  match l with
  | .fsub m v => if m = n then v.toNat else 0
  | .mts _ _ _ | .fclr _ | .fadd _ _ | .qclose _ | .cbuf _ _ => 0

theorem Core.flagLeft_late (l : Late) :
    ({ k with late := k.late ++ [l] } : Core).flagLeft n = k.flagLeft n - takenOf n l := by
  unfold Core.flagLeft
  rw [List.foldl_append]
  cases l with
  | fsub m v =>
    simp only [List.foldl_cons, List.foldl_nil, takenOf]
    split
    · exact (Nat.sub_sub _ _ _).symm
    · rfl
  | mts | fclr | fadd | qclose | cbuf => rfl

end

/-! ## The sequencer's steps -/

section
variable {c : Nat} {e : Engine} {s : State}

theorem exec_qTimeout_out {q : BitVec 3} (out : s.timedOut c e = some q) :
    exec (.qTimeout c e) s = .next (((s.modCore c (fun k => k.modCtx e (fun x => { x with wait := none }))).at_ c e).groupTrap
      0x20 0 (q.setWidth 64)) := by
  show execQTimeout c e s = _
  simp only [execQTimeout, out]

theorem exec_instructionFetch_brings {p : W64} {l : Line} {t : State} (fresh : s.fetchAnswer c e = none)
    (wanted : s.wantedLine c e = some p) (unfailed : s.failedFetch c e p = none) (read : s.readLine c p = .ok (l, t)) :
    exec (.instructionFetch c e) s = .next (fetchEffect c e p l t) := by
  show execInstructionFetch c e s = _
  simp only [execInstructionFetch, fresh, wanted, unfailed, read]

/-- What a sample of the stall wire leaves of the freeze (R91). -/
theorem State.insts_sampleWire (n : Nat) :
    (s.sampleWire n).insts.get Inst.init n =
      { s.insts.get Inst.init n with
        sampled := (s.insts.get Inst.init n).sampled + 1
        asserted := s.stallWire n
        freeze := if s.stallWire n then (s.insts.get Inst.init n).freeze + 1 else (s.insts.get Inst.init n).freeze } := by
  have insts (t : State) (b : Bool) (cores : Tbl Core) : (if b then t else { t with cores := cores }).insts = t.insts := by
    cases b <;> rfl
  rw [State.sampleWire, insts]
  exact s.insts_get_modInst n _

theorem State.cores_sampleWire {n : Nat} (asserted : s.stallWire n = true) : (s.sampleWire n).cores = s.cores := by
  simp only [State.sampleWire, asserted, if_true]
  rfl

end

end Sys2Proof.Machine

namespace Sys2Proof

open Machine

/-- Settles O46: each landing by what its register reads afterwards. -/
theorem resultLandsInItsRegister : Obligations.ResultLandsInItsRegister := by
  unfold Obligations.ResultLandsInItsRegister
  refine ⟨?general, ?predicate, ?address, ?row, ?rowPredicate, ?others⟩
  case general => exact fun k e n v m => ⟨k.gr_setG n m v, rfl⟩
  case predicate => exact fun k e n m v => ⟨k.pr_setP n m v, rfl⟩
  case address =>
    intro k e n m v
    show ((k.modCtx e (fun x => x.setA n v)).ctx e).ar m = _
    rw [Core.ctx_modCtx, Ctx.ar_setA]
  case row =>
    intro k e n m v b j hj
    rw [Core.vr_apply_v]
    by_cases same : m = n
    · subst same
      simp only [if_true, true_and, slice_mergeBytes _ _ _ hj]
    · simp only [same, if_false, false_and]
  case rowPredicate =>
    intro k e n m v b j
    rw [Core.vpr_apply_vp]
    by_cases writes : m = n ∧ n ≠ 0
    · rw [if_pos writes, getLsbD_masked]
      simp only [writes.1, ne_eq, writes.2, not_false_eq_true, true_and]
    · rw [if_neg writes, if_neg fun h => writes ⟨h.1, h.2.1⟩]
  case others => exact fun k e n v => k.setG_frame n v

/-- Settles O47: the slots by induction over the returns, oldest first, and the order by that of insertion. -/
theorem returnsTakeFreeWriteSlots : Obligations.ReturnsTakeFreeWriteSlots := by
  unfold Obligations.ReturnsTakeFreeWriteSlots
  refine ⟨fun e now taken rs f file before => slotsTaken_pickReturns file now rs before, pickReturns_parts, fun l => ?_⟩
  simpa [byPlace] using foldl_insertWrite l [] .nil

/-- Settles O48: each event by what it does where its premises hold. -/
theorem sequencerEventsAct : Obligations.SequencerEventsAct := by
  unfold Obligations.SequencerEventsAct
  refine ⟨fun c e s lands => if_pos lands, fun c e s drained => if_pos drained, fun c e s q out => exec_qTimeout_out out,
    fun c e s stalls => if_pos stalls, fun n s due => ⟨if_pos due, s.insts_sampleWire n, s.cores_sampleWire⟩,
    fun c e s p l t fresh wanted unfailed read => exec_instructionFetch_brings fresh wanted unfailed read⟩

/-- Settles O49: the addition by its two cases, and what is left for an FWAIT by what the last late action takes. -/
theorem flagAdditionSaturates : Obligations.FlagAdditionSaturates := by
  unfold Obligations.FlagAdditionSaturates
  intro k n m v
  obtain ⟨g, rows⟩ := k.addFlag_frame n v
  refine ⟨?sum, ?other, k.fovf_addFlag n v, g, rows, ?start, ?fwait, ?rest⟩
  case sum =>
    rw [Core.flag_addFlag, if_pos rfl, BitVec.toNat_ofNat]
    omega
  case other => exact fun other => by rw [Core.flag_addFlag, if_neg other]
  case start => exact fun none_ => by simp [Core.flagLeft, none_]
  case fwait =>
    rw [Core.flagLeft_late, takenOf]
    split <;> rfl
  case rest =>
    intro l other
    rw [Core.flagLeft_late]
    cases l with
    | fsub j u => exact absurd rfl (other j u)
    | mts | fclr | fadd | qclose | cbuf => rfl

end Sys2Proof
end

section
/-!
PROOFS. What an instruction that issues leaves unchanged (R84, R87, R96, R189, R202): the register instructions of the SCU and the
VE land a result, their memory instructions enter an operation, and nothing else of the machine is new but queues.
-/

namespace Sys2Proof.Machine

/-! ## Register instructions only land -/

/-- Some results land and nothing else but queues is new. -/
def State.Lands (s t : State) : Prop := ∃ l, OnlyLands s t l

section
variable {s : State} {k : Core}

/-- A state is its own with its running core put back. -/
theorem State.modCtx_setCore_cur (s : State) (f : Ctx → Ctx) : (s.setCore s.focus s.cur).modCtx f = s.modCtx f := by
  simp [State.modCtx, State.modCur, State.modCore, State.cur]

theorem State.land_popped_lands (hk : s.cur.Queues k) (lat : Nat) (eff : Effect) (f : W64) :
    s.Lands ((s.setCore s.focus k).land lat eff f) :=
  ⟨_, OnlyLands.of_queues hk rfl⟩

theorem State.land_lands (s : State) (lat : Nat) (eff : Effect) (f : W64) : s.Lands (s.land lat eff f) :=
  ⟨_, OnlyLands.of_queues (Core.Queues.refl _) (s.modCtx_setCore_cur _).symm⟩

/-- A result for a queue: its entry is reserved, and filled as the result lands. -/
theorem State.land_reserved_lands (s : State) (q : BitVec 3) (lat : Nat) (eff : Effect) (f : W64) :
    s.Lands ((s.modCur (fun k => k.reserve q)).land lat eff f) :=
  State.land_popped_lands (s.cur.reserve_queues q) lat eff f

theorem State.toG_reg_lands {d : GField} (reg : ∀ q, d ≠ .peek q) (lat : Nat) (v : W64) : s.Lands (s.toG d lat v) := by
  cases d with
  | r n => exact State.land_lands s lat _ 0
  | pop q => exact State.land_reserved_lands s q lat _ 0
  | peek q => exact absurd rfl (reg q)

theorem State.toV_reg_lands {d : VField} (reg : ∀ q, d ≠ .peek q) (lat : Nat) (v : Row) (m : BMask) (f : W64) :
    s.Lands (s.toV d lat v m f) := by
  cases d with
  | r n => exact State.land_lands s lat _ f
  | pop q => exact State.land_reserved_lands s q lat _ f
  | peek q => exact absurd rfl (reg q)

/-- No register changes before the result lands. -/
theorem OnlyLands.cur_g {t : State} {l : List Landing} (h : OnlyLands s t l) : t.cur.g = s.cur.g := by
  obtain ⟨q, n, rfl⟩ := h
  rw [State.cur_setCore]
  cases s.eng <;> rfl

end

section
variable (s : State)

theorem compareEffect_lands (p : BitVec 3) (c : Cond) (a b : GField) : s.Lands (compareEffect p c a b s) :=
  State.land_popped_lands ((s.cur.readG_queues a).trans (Core.readG_queues _ b)) 1 _ 0

theorem compareIEffect_lands (p : BitVec 3) (c : Cond) (a : GField) (n : BitVec 10) : s.Lands (compareIEffect p c a n s) :=
  State.land_popped_lands (s.cur.readG_queues a) 1 _ 0

theorem popped_toA_lands (a : GField) (d : BitVec 4) (v : W64) : s.Lands ((popped s a).toA d v) :=
  State.land_popped_lands (s.cur.readG_queues a) 1 _ 0

theorem vcompareEffect_lands (b : Nat) (p : BitVec 3) (x y : VField) (g : BitVec 3) (f : Row → Row → Nat → Bool × W64) :
    s.Lands (vcompareEffect b p x y g f s) :=
  State.land_popped_lands ((s.cur.readV_queues x).trans (Core.readV_queues _ y)) 2 _ _

theorem vselEffect_lands (t : WTy) (d a b : VField) (g : BitVec 3) : s.Lands (vselEffect t d a b g s) :=
  s.toV_lands _ ((s.cur.readV_queues a).trans (Core.readV_queues _ b)) d 2 _ _ 0

theorem byteMoveEffect_lands (d a : VField) (g : BitVec 3) (f : Row → Row) : s.Lands (byteMoveEffect d a g f s) :=
  s.toV_lands _ (s.cur.readV_queues a) d 3 _ _ 0

theorem laneMoveEffect_lands (d a : VField) (g : BitVec 3) (f : Row → Row) : s.Lands (laneMoveEffect d a g f s) :=
  s.toV_lands _ (s.cur.readV_queues a) d 3 _ _ 0

theorem vscanEffect_lands (op : ScanOp) (d a : VField) (g : BitVec 3) : s.Lands (vscanEffect op d a g s) := by
  cases op <;> exact s.toV_lands _ (s.cur.readV_queues a) d _ _ _ _

theorem xscaEffect_lands (e : Bool) (x : BitVec 2) (a b : VField) (g : BitVec 3) : s.Lands (xscaEffect e x a b g s) :=
  State.land_popped_lands ((s.cur.readV_queues a).trans (Core.readV_queues _ b)) 4 _ 0

end

/-! ### Parts of a row for a queue (log 19) -/

/-- The same, where a part of a row that goes to a queue takes a free value. -/
def State.LandsPart (s : State) (d : VField) (t : State) : Prop :=
  ∃ u l, t = { u with free := if d.push.isSome then s.free + 1 else s.free } ∧ OnlyLands s u l

section
variable {s : State} {k : Core} (hk : s.cur.Queues k)
include hk

theorem State.pushPart_landsPart (q : BitVec 3) (lat : Nat) (r given : Row) (f : W64) :
    s.LandsPart (.pop q) ((s.setCore s.focus k).pushPart (.pop q) lat r given f) := by
  obtain ⟨l, only⟩ := s.toV_lands k hk (.pop q) lat ((r &&& given) ||| (Config.freeValue 2048 s.free &&& ~~~given))
    (BitVec.allOnes 256) f
  exact ⟨_, l, rfl, only⟩

theorem State.toVBits_landsPart (d : VField) (lat : Nat) (r : Row × Row × W64) :
    s.LandsPart d ((s.setCore s.focus k).toVBits d lat r) := by
  cases d with
  | r n =>
    obtain ⟨l, only⟩ := State.land_popped_lands hk lat (.vbits n r.1 r.2.1) r.2.2
    exact ⟨_, l, rfl, only⟩
  | pop q => exact State.pushPart_landsPart hk q lat _ _ _
  | peek q =>
    obtain ⟨l, only⟩ := s.toV_lands k hk (.peek q) lat 0 0 0
    exact ⟨_, l, rfl, only⟩

end

theorem vnarbEffect_landsPart (s : State) (q : BitVec 2) (d a : VField) (g : BitVec 3) : s.LandsPart d (vnarbEffect q d a g s) := by
  have hk := s.cur.readV_queues a
  cases d with
  | r n =>
    obtain ⟨l, only⟩ := s.toV_lands _ hk (.r n) 3 _ _ _
    exact ⟨_, l, rfl, only⟩
  | pop p => exact State.pushPart_landsPart hk p 3 _ _ _
  | peek p =>
    obtain ⟨l, only⟩ := s.toV_lands _ hk (.peek p) 3 0 0 0
    exact ⟨_, l, rfl, only⟩

/-! ### Instructions that only land -/

section
variable {s : State} {lat b : Nat}

/-- The instruction goes on, and some results land and nothing else but queues is new. -/
def State.InstrLands (s : State) (i : Instr) : Prop := ∃ t l, exec i s = .next t ∧ OnlyLands s t l

theorem lands_of_exec {t : State} {i : Instr} (lands : s.Lands t) (goes : exec i s = .next t) : s.InstrLands i :=
  lands.elim fun l only => ⟨t, l, goes, only⟩

theorem lands_of_issues {i : Instr} {n : State → Needs} {effect : State → State} (issues : Issues i n effect)
    (lands : s.Lands (effect s)) (ready : s.ready (n s) = true) : s.InstrLands i :=
  lands_of_exec lands ((issues s).1 ready)

theorem landsPart_of_issues {i : Instr} {n : State → Needs} {effect : State → State} {d : VField} (issues : Issues i n effect)
    (lands : s.LandsPart d (effect s)) (ready : s.ready (n s) = true) :
    ∃ t l, exec i s = .next { t with free := if d.push.isSome then s.free + 1 else s.free } ∧ OnlyLands s t l :=
  lands.imp fun _ parts => parts.imp fun _ only => ⟨((issues s).1 ready).trans (congrArg _ only.1), only.2⟩

theorem lands_of_twoSource {i : GField → GField → GField → Guard → Instr} {f : W64 → W64 → W64} (spec : TwoSource i lat f)
    {d a c : GField} {g : Guard} : s.ready (s.cur.needs2 d a c g lat) = true → s.InstrLands (i d a c g) :=
  lands_of_issues (spec d a c g) (s.result2_lands d a c lat f)

theorem lands_of_oneSource {i : GField → GField → Guard → Instr} {f : W64 → W64} (spec : OneSource i f) {d a : GField}
    {g : Guard} : s.ready { needs1 d a with act := s.cur.guardP g } = true → s.InstrLands (i d a g) :=
  lands_of_issues (spec d a g) (s.result1_lands d a 1 f)

theorem lands_of_immediate {w : Nat} {i : GField → GField → BitVec w → Instr} {f : W64 → BitVec w → W64}
    (spec : Immediate i f) {d a : GField} {n : BitVec w} : s.ready (needs1 d a) = true → s.InstrLands (i d a n) :=
  lands_of_issues (spec d a n) (s.result1_lands d a 1 _)

theorem lands_of_vectorTwo {i : VField → VField → VField → BitVec 3 → Instr}
    {f : State → VField → Row → Row → Nat → BitVec (8 * b) × W64} (spec : VectorTwo i b lat f) {d a c : VField} {g : BitVec 3}
    (ready : s.ready (needsV d [a.qref, c.qref] lat) = true) : s.InstrLands (i d a c g) :=
  lands_of_exec (vec2Effect_lands d a c g b lat (f s d) s) ((spec d a c g s).1 ready)

theorem lands_of_vectorOne {i : VField → VField → BitVec 3 → Instr} {f : State → VField → Row → Nat → BitVec (8 * b) × W64}
    (spec : VectorOne i b lat f) {d a : VField} {g : BitVec 3} (ready : s.ready (needsV d [a.qref] lat) = true) :
    s.InstrLands (i d a g) :=
  lands_of_exec (vec1Effect_lands d a g b lat (f s d) s) ((spec d a g s).1 ready)

end

end Sys2Proof.Machine

namespace Sys2Proof

open Machine

section
variable (s : State)

/-- R101, R103, R105, R109: the operations of two sources, with the guard apart that selects. -/
theorem twoSource_lands (d a b : GField) (g : Guard) (i : Instr)
    (mem : i ∈ [.add d a b g, .sub d a b g, .and d a b g, .or d a b g, .xor d a b g, .andn d a b g, .shl d a b g, .shr d a b g,
        .sra d a b g, .rotl d a b g, .min d a b g, .max d a b g, .minn d a b g, .maxn d a b g, .sel d a b g, .mul d a b g,
        .mulh d a b g, .mulhn d a b g, .bext d a b g, .bins d a b g]) (lat : Nat)
    (hlat : lat = (if i ∈ [.mul d a b g, .mulh d a b g, .mulhn d a b g] then 3 else 1))
    (readySel : i = .sel d a b g → s.ready { srcs := [a.qref, b.qref], dst := d.push, lat := 1, file := d.file } = true)
    (ready : i ≠ .sel d a b g → s.ready (s.cur.needs2 d a b g lat) = true) : s.InstrLands i := by
  subst hlat
  obtain ⟨-, add, sub, and, or, xor, andn, shl, shr, sra, rotl, min, max, minn, maxn⟩ := aluResultsOfMajorTwo
  obtain ⟨-, mul, mulh, mulhn⟩ := multiplyGivesItsHalf
  obtain ⟨-, -, -, -, -, bext, bins, -⟩ := compareMoveAndAddressResults
  revert i
  simp only [List.forall_mem_cons]
  simp only [List.mem_cons, List.not_mem_nil, reduceCtorEq, or_false, or_true, if_false, if_true,
    IsEmpty.forall_iff, ne_eq, not_false_eq_true, not_true_eq_false, forall_const, implies_true, and_true]
  exact ⟨lands_of_twoSource add, lands_of_twoSource sub, lands_of_twoSource and, lands_of_twoSource or, lands_of_twoSource xor,
    lands_of_twoSource andn, lands_of_twoSource shl, lands_of_twoSource shr, lands_of_twoSource sra, lands_of_twoSource rotl,
    lands_of_twoSource min, lands_of_twoSource max, lands_of_twoSource minn, lands_of_twoSource maxn,
    fun ready => lands_of_exec (s.result2_lands d a b 1 _) (((selectReadsBothSources d a b g).2 s).1 ready),
    lands_of_twoSource mul, lands_of_twoSource mulh, lands_of_twoSource mulhn, lands_of_twoSource bext,
    fun ready => lands_of_exec (s.result2_lands d a b 1 _) ((bins d a b g s).1 ready)⟩

end

/-- Settles O59: each instruction's result goes through one of the ways a result is sent, and each of those only lands. -/
theorem registerInstructionsOnlyLand : Obligations.RegisterInstructionsOnlyLand := by
  intro s
  obtain ⟨-, -, lead, trail, ones, clz, ctz, popc, -⟩ := unaryCountsOfMajorTwo
  obtain ⟨-, -, -, addi, andi, ori, xori, shli, shri, srai⟩ := immediateResultsOfMajorThree
  obtain ⟨cmp, cmpi, movi, movk, ldi, -, -, aadd, aaddi, amov, aget, amesh⟩ := compareMoveAndAddressResults
  obtain ⟨integer, vwaddI16, vwaddI8, vwaddN16, logic, vmacb, vimulrHalf, vimulrWord, vnarb⟩ := vectorIntegerResults
  obtain ⟨vcmp, vfcmp, vpand, vpor, vpnot, vsel, vcvt, vqnt⟩ := vectorCompareSelectConvert
  obtain ⟨permutes, bytes, vbcast, vextr, vscan, vkey, -⟩ := vectorPermuteResults
  obtain ⟨xclr, xacc, xsca, xred, xrnd, -⟩ := exactRegisterResults
  refine ⟨?twoSource, ?integerSums, ?floatSums, ?immediate, ?count, ?movk, ?constant, ?address, ?cmp,
    ?cmpi, ?products, ?logic, ?sign, ?vperm, ?shuffle, ?viota, ?vbcast, ?vextr, ?vscan, ?vkey,
    ?parts, ?vcmp, ?vfcmp, ?predicate, ?xclr, ?xacc, ?xsca, ?xred, ?xrnd⟩
  case twoSource =>
    intro d a b g i mem lat hlat readySel ready
    obtain ⟨t, l, goes, only⟩ := twoSource_lands s d a b g i mem lat hlat readySel ready
    exact ⟨t, l, goes, only, fun _ _ => OnlyLands.cur_g only⟩
  case integerSums =>
    intro t d a b g
    obtain ⟨viadd, visub, -, -, vimin, vimax, vclamp⟩ := integer t
    simp only [List.forall_mem_cons]
    exact ⟨lands_of_vectorTwo viadd, lands_of_vectorTwo visub, lands_of_vectorTwo vimin, lands_of_vectorTwo vimax,
      lands_of_vectorTwo vclamp, fun _ mem => nomatch mem⟩
  case floatSums =>
    intro t d a b g
    obtain ⟨vadd, vsub, vmul, vmin, vmax, vfma, vfms, vfnma, -⟩ := vectorFloatResults t
    simp only [List.forall_mem_cons]
    exact ⟨lands_of_vectorTwo vadd, lands_of_vectorTwo vsub, lands_of_vectorTwo vmul, lands_of_vectorTwo vmin,
      lands_of_vectorTwo vmax, lands_of_vectorTwo vfma, lands_of_vectorTwo vfms, lands_of_vectorTwo vfnma,
      fun _ mem => nomatch mem⟩
  case immediate =>
    intro d a n m
    simp only [List.forall_mem_cons]
    exact ⟨lands_of_immediate addi, lands_of_immediate andi, lands_of_immediate ori, lands_of_immediate xori,
      lands_of_immediate shli, lands_of_immediate shri, lands_of_immediate srai, fun _ mem => nomatch mem⟩
  case count =>
    intro d a g
    simp only [List.forall_mem_cons]
    exact ⟨lands_of_oneSource clz, lands_of_oneSource ctz, lands_of_oneSource popc, fun _ mem => nomatch mem⟩
  case movk => exact fun d n h => lands_of_issues (movk d n h) (s.result1_lands d d 1 _)
  case constant =>
    intro d i j a sel x reg
    revert x
    simp only [List.forall_mem_cons]
    have toG (v : W64) : s.Lands (s.toG d 1 v) := State.toG_reg_lands reg 1 v
    exact ⟨lands_of_issues (movi d i) (toG _), lands_of_issues (ldi d j) (toG _), lands_of_issues (aget d a) (toG _),
      lands_of_issues (amesh d sel) (toG _), fun _ mem => nomatch mem⟩
  case address =>
    exact fun d a g n => ⟨lands_of_issues (aadd d a g) (popped_toA_lands s g d _),
      lands_of_issues (aaddi d a n) (State.land_lands s 1 _ 0), lands_of_issues (amov d g) (popped_toA_lands s g d _)⟩
  case cmp => exact fun p c a b g => lands_of_issues (cmp p c a b g) (compareEffect_lands s p c a b)
  case cmpi => exact fun p c a n => lands_of_issues (cmpi p c a n) (compareIEffect_lands s p c a n)
  case products =>
    intro t d a b g q wide
    obtain ⟨-, -, vimul, vimulh, -⟩ := integer t
    simp only [List.forall_mem_cons]
    refine ⟨lands_of_vectorTwo vimul, lands_of_vectorTwo vimulh, ?_, lands_of_vectorTwo (vmacb q), fun _ mem => nomatch mem⟩
    cases wide with
    | true => exact lands_of_vectorTwo vimulrHalf
    | false => exact lands_of_vectorTwo vimulrWord
  case logic =>
    intro t u d a b g
    obtain ⟨vand, vor, vxor, -, vshl, vshr, vsra, vrshr⟩ := logic t
    simp only [List.forall_mem_cons]
    refine ⟨lands_of_vectorTwo vand, lands_of_vectorTwo vor, lands_of_vectorTwo vxor, lands_of_vectorTwo vshl,
      lands_of_vectorTwo vshr, lands_of_vectorTwo vsra, lands_of_vectorTwo vrshr, ?_,
      lands_of_issues (vsel t d a b g) (vselEffect_lands s t d a b g), fun _ mem => nomatch mem⟩
    cases u with
    | i16 => exact lands_of_vectorTwo vwaddI16
    | i8 => exact lands_of_vectorTwo vwaddI8
    | n16 => exact lands_of_vectorTwo vwaddN16
  case sign =>
    intro t f d a g
    obtain ⟨-, -, -, vnot, -⟩ := logic t
    obtain ⟨-, -, -, -, -, -, -, -, vabs, vneg⟩ := vectorFloatResults f
    simp only [List.forall_mem_cons]
    exact ⟨lands_of_vectorOne vnot, lands_of_vectorOne vabs, lands_of_vectorOne vneg, fun _ mem => nomatch mem⟩
  case vperm => exact fun t d a b g => lands_of_vectorTwo (permutes t).1
  case shuffle =>
    intro t p n d a g
    obtain ⟨-, vshuf, -⟩ := permutes t
    obtain ⟨vrot, vrmrg⟩ := bytes n d a g
    simp only [List.forall_mem_cons]
    exact ⟨lands_of_vectorOne (vshuf p), lands_of_issues vrot (byteMoveEffect_lands s d a g _),
      fun ready => lands_of_exec (byteMoveEffect_lands s d a g _) (vrmrg s ready), fun _ mem => nomatch mem⟩
  case viota => exact fun t start d g reg => lands_of_issues ((permutes t).2.2 start d g) (State.toV_reg_lands reg 3 _ _ _)
  case vbcast => exact fun blk i d a g => lands_of_issues (vbcast blk i d a g) (laneMoveEffect_lands s d a g _)
  case vextr => exact fun wide i d a g => lands_of_issues (vextr wide i d a g) (laneMoveEffect_lands s d a g _)
  case vscan => exact fun op d a g => lands_of_issues (vscan op d a g) (vscanEffect_lands s op d a g)
  case vkey => exact fun t d a b g => lands_of_vectorTwo (vkey t)
  case parts =>
    exact ⟨fun q d a g => landsPart_of_issues (vnarb q d a g) (vnarbEffect_landsPart s q d a g),
      fun dst src d a k => landsPart_of_issues (vcvt dst src d a k).1 (State.toVBits_landsPart (s.cur.readV_queues a) d 3 _),
      fun dst src d a k => landsPart_of_issues (vcvt dst src d a k).2 (State.toVBits_landsPart (s.cur.readV_queues a) d 3 _),
      fun dst d a b k => landsPart_of_issues (vqnt dst d a b k)
        (State.toVBits_landsPart ((s.cur.readV_queues a).trans (Core.readV_queues _ b)) d 4 _)⟩
  case vcmp => exact fun c t p a b g => lands_of_issues (vcmp c t p a b g) (vcompareEffect_lands s _ p a b g _)
  case vfcmp => exact fun c t p a b g => lands_of_issues (vfcmp c t p a b g) (vcompareEffect_lands s _ p a b g _)
  case predicate =>
    exact fun p a b g => ⟨lands_of_issues (vpand p a b g) (State.land_lands s 2 _ 0),
      lands_of_issues (vpor p a b g) (State.land_lands s 2 _ 0), lands_of_issues (vpnot p a g) (State.land_lands s 2 _ 0)⟩
  case xclr => exact fun x g => lands_of_issues (xclr x g) (State.land_lands s 2 _ 0)
  case xacc => exact fun x a g => lands_of_issues (xacc x a g) (State.land_popped_lands (s.cur.readV_queues a) 2 _ 0)
  case xsca => exact fun e x a b g => lands_of_issues (xsca e x a b g) (xscaEffect_lands s e x a b g)
  case xred => exact fun n x a g => lands_of_issues (xred n x a g) (State.land_lands s 4 _ _)
  case xrnd => exact fun b d a g reg => lands_of_issues (xrnd b d a g) (State.toV_reg_lands reg 6 _ _ _)

end Sys2Proof
end

section
/-!
PROOFS. What a memory instruction leaves unchanged when it issues (R87, R96, R189, R202).
-/

namespace Sys2Proof.Machine

/-! ## What queues do not change -/

section
variable {s : State} {k k' : Core}

theorem Core.Queues.ctx (h : k.Queues k') (e : Engine) : k'.ctx e = k.ctx e := by
  obtain ⟨q, n, rfl⟩ := h
  cases e <;> rfl

theorem Core.Queues.vpr (h : k.Queues k') (p : BitVec 3) : k'.vpr p = k.vpr p := by
  obtain ⟨q, n, rfl⟩ := h
  rfl

theorem Core.eaScu_queues (k : Core) (m : MemOpnd) (size : Nat) : k.Queues (k.eaScu m size).2 := by
  unfold Core.eaScu
  cases m.mode with
  | off => exact Core.Queues.refl k
  | idx => exact k.readG_queues _
  | idxShift => exact k.readG_queues _
  | swz => exact Core.Queues.refl k

end

/-! ## Memory instructions only enter -/

section
variable {s u : State} {k : Core} {o : PendOp}

/-- Entering an operation leaves every byte of every stash. -/
theorem OnlyEnters.stashByte {takes : Bool} (h : OnlyEnters s u o takes) (c q j : Nat) :
    stashByte u c q j = stashByte s c q j := by
  obtain ⟨qs, n, rfl⟩ := h
  have rows : ((s.setCore s.focus ({ s.cur with queues := qs, qserial := n }.modCtx s.eng
      (fun x => x.enter { o with stop := s.syl.getLsbD 31 } takes s.cycle))).core c).rows = (s.core c).rows := by
    by_cases here : c = s.focus
    · rw [here, State.core_setCore]
      cases s.eng <;> rfl
    · rw [State.core_setCore_other s _ here]
  rw [Sys2Proof.stashByte, State.row, rows]
  rfl

theorem State.enterOp_enters (s : State) (o : PendOp) : OnlyEnters s (s.enterOp o) o true :=
  OnlyEnters.of_queues (Core.Queues.refl _) (s.modCtx_setCore_cur _).symm

theorem State.reserveG_enters (hk : s.cur.Queues k) (d : GField) (o : PendOp) :
    OnlyEnters s (((s.setCore s.focus k).reserveG d).1.enterOp o) o true := by
  cases d with
  | r n => exact OnlyEnters.of_queues hk rfl
  | pop q =>
    refine OnlyEnters.of_queues (hk.trans (k.reserve_queues q)) ?_
    simp [State.reserveG, State.modCur, State.modCore, State.cur]
  | peek q => exact OnlyEnters.of_queues hk rfl

theorem State.reserveV_enters (s : State) (d : VField) (o : PendOp) : OnlyEnters s ((s.reserveV d).1.enterOp o) o true := by
  cases d with
  | r n => exact s.enterOp_enters o
  | pop q => exact OnlyEnters.of_queues (s.cur.reserve_queues q) rfl
  | peek q => exact s.enterOp_enters o

/-- An instruction whose effect only enters an operation of its own changes no byte as it issues. -/
theorem enters_of_issues {i : Instr} {n : State → Needs} {effect : State → State} (issues : Issues i n effect)
    (enters : ∃ o, OnlyEnters s (effect s) o true ∧ o.instr = i) (ready : s.ready (n s) = true) :
    ∃ u o, exec i s = .next u ∧ OnlyEnters s u o true ∧ o.instr = i ∧ u.hbm = s.hbm ∧
      ∀ c q j, stashByte u c q j = stashByte s c q j := by
  obtain ⟨o, only, own⟩ := enters
  exact ⟨_, o, (issues s).1 ready, only, own, OnlyEnters.hbm only, OnlyEnters.stashByte only⟩

end

section
variable (s : State)

/-- The operation that a load enters. -/
theorem loadEffect_enters (i : Instr) (t : LdTy) (d : GField) (m : MemOpnd) (w : BitVec 3) :
    ∃ o, OnlyEnters s (loadEffect i t d m w s) o true ∧ o.instr = i :=
  ⟨_, State.reserveG_enters (s.cur.eaScu_queues m _) d _, rfl⟩

theorem storeEffect_enters (t : StTy) (x : GField) (m : MemOpnd) (w : BitVec 3) :
    ∃ o, OnlyEnters s (storeEffect t x m w s) o true ∧ o.instr = .st t x m w :=
  ⟨_, OnlyEnters.of_queues ((s.cur.readG_queues x).trans (Core.eaScu_queues _ m _)) rfl, rfl⟩

theorem atmEffect_enters (op : AtOp) (wide : Bool) (d : GField) (b : BitVec 4) (x : GField) (w : BitVec 3) :
    ∃ o, OnlyEnters s (atmEffect op wide d b x w s) o true ∧ o.instr = .atm op wide d b x w :=
  ⟨_, State.reserveG_enters (s.cur.readG_queues x) d _, rfl⟩

theorem acasEffect_enters (wide : Bool) (d : GField) (b : BitVec 4) (x : GField) (w : BitVec 3) :
    ∃ o, OnlyEnters s (acasEffect wide d b x w s) o true ∧ o.instr = .acas wide d b x w :=
  ⟨_, OnlyEnters.of_queues (s.cur.readG_queues x) rfl, rfl⟩

theorem acas2Effect_enters (d : GField) (b : BitVec 4) (x : GField) (w : BitVec 3) :
    ∃ o, OnlyEnters s (acas2Effect d b x w s) o true ∧ o.instr = .acas2 d b x w :=
  ⟨_, s.enterOp_enters _, rfl⟩

theorem mgmtEffect_enters (i : Instr) (r : GField) (addr : State → W64) (rows : Bool) (w : BitVec 3) :
    ∃ o, OnlyEnters s (mgmtEffect i r addr rows w s) o true ∧ o.instr = i :=
  ⟨_, OnlyEnters.of_queues (s.cur.readG_queues r) rfl, rfl⟩

theorem rowLoadEffect_enters (i : Instr) (d : VField) (m : MemOpnd) (size : Nat) (mask : BMask) (w : BitVec 3) :
    ∃ o, OnlyEnters s (rowLoadEffect i d m size mask w s) o true ∧ o.instr = i ∧ o.addr = s.ctx.ea m size :=
  ⟨_, s.reserveV_enters d _, rfl, rfl⟩

theorem rowStoreEffect_enters (i : Instr) (x : VField) (m : MemOpnd) (mask : BMask) (w : BitVec 3) :
    ∃ o, OnlyEnters s (rowStoreEffect i x m mask w s) o true ∧ o.addr = s.ctx.ea m 256 ∧ o.mask = mask := by
  have hk := s.cur.readV_queues x
  refine ⟨_, OnlyEnters.of_queues hk rfl, ?_, rfl⟩
  show ((s.setCore s.focus (s.cur.readV x).2).cur.ctx s.eng).ea m 256 = s.ctx.ea m 256
  rw [State.cur_setCore, hk.ctx]
  rfl

/-- A gather, scatter or prefetch enters an operation for its lanes, to which it sets MPC (R177, R468). -/
theorem gatherEffect_enterOp (i : Instr) (data : Row) (b : BitVec 4) (ix : BitVec 5) (p w : BitVec 3) (ld : Bool) :
    ∃ o, o.mpc = laneMask (s.cur.vpr p) ∧
      gatherEffect i data b ix p w ld s = (s.enterOp o).modCtx (fun x => { x with mpc := laneMask (s.cur.vpr p) }) := by
  refine ⟨_, ?_, rfl⟩
  rfl

/-- A state that entering an operation leaves without other change, and from which MPC is set to some lanes. -/
def State.EntersLanes (s : State) (p : BitVec 3) (t : State) : Prop :=
  ∃ u o, OnlyEnters s u o true ∧ o.mpc = laneMask (s.cur.vpr p) ∧ u.hbm = s.hbm ∧
    t = u.modCtx (fun x => { x with mpc := laneMask (s.cur.vpr p) }) ∧ ∀ c q j, stashByte u c q j = stashByte s c q j

theorem gatherEffect_entersLanes (i : Instr) (data : Row) (b : BitVec 4) (ix : BitVec 5) (p w : BitVec 3) (ld : Bool) :
    s.EntersLanes p (gatherEffect i data b ix p w ld s) := by
  obtain ⟨o, lanes, gives⟩ := gatherEffect_enterOp s i data b ix p w ld
  have only := s.enterOp_enters o
  exact ⟨_, o, only, lanes, OnlyEnters.hbm only, gives, OnlyEnters.stashByte only⟩

theorem gatherEffect_popped_entersLanes {k : Core} (hk : s.cur.Queues k) (i : Instr) (data : Row) (b : BitVec 4)
    (ix : BitVec 5) (p w : BitVec 3) (ld : Bool) :
    s.EntersLanes p (gatherEffect i data b ix p w ld (s.setCore s.focus k)) := by
  obtain ⟨o, lanes, gives⟩ := gatherEffect_enterOp (s.setCore s.focus k) i data b ix p w ld
  rw [State.cur_setCore, hk.vpr] at lanes gives
  have only : OnlyEnters s ((s.setCore s.focus k).enterOp o) o true := OnlyEnters.of_queues hk rfl
  exact ⟨_, o, only, lanes, OnlyEnters.hbm only, gives, OnlyEnters.stashByte only⟩

theorem lanes_of_issues {s : State} {i : Instr} {n : State → Needs} {effect : State → State} {p : BitVec 3}
    (issues : Issues i n effect) (lanes : s.EntersLanes p (effect s)) (ready : s.ready (n s) = true) :
    ∃ u o, OnlyEnters s u o true ∧ o.mpc = laneMask (s.cur.vpr p) ∧ u.hbm = s.hbm ∧
      exec i s = .next (u.modCtx (fun x => { x with mpc := laneMask (s.cur.vpr p) })) ∧
      ∀ c q j, stashByte u c q j = stashByte s c q j := by
  obtain ⟨u, o, only, mpc, hbm, gives, bytes⟩ := lanes
  exact ⟨u, o, only, mpc, hbm, by rw [(issues s).1 ready, gives], bytes⟩

/-! ### VLDQ (R175) -/

theorem Core.reserve_modCtx (k : Core) (q : BitVec 3) (e : Engine) (f : Ctx → Ctx) :
    (k.reserve q).modCtx e f = (k.modCtx e f).reserve q := by
  cases e <;> rfl

/-- An entry reserved before an engine's registers change is as one reserved after. -/
theorem State.reserved_modCtx_enters (q : BitVec 3) (f : Ctx → Ctx) (o : PendOp) :
    OnlyEnters (s.modCtx f) (((s.modCur (fun k => k.reserve q)).modCtx f).enterOp o) o true := by
  refine OnlyEnters.of_queues (k := (s.modCtx f).cur.reserve q) (Core.reserve_queues _ q) ?_
  rw [State.cur_modCtx, ← Core.reserve_modCtx]
  simp [State.modCtx, State.modCur, State.modCore, State.cur]

theorem stashByte_modCtx (f : Ctx → Ctx) (c q j : Nat) : stashByte (s.modCtx f) c q j = stashByte s c q j := by
  have rows : ((s.modCtx f).core c).rows = (s.core c).rows := by
    by_cases here : c = s.focus
    · rw [here, State.modCtx, State.modCur, State.core_modCore]
      cases s.eng <;> rfl
    · rw [State.modCtx, State.modCur, State.modCore, State.core_setCore_other s _ here]
  rw [stashByte, State.row, rows]
  rfl

end

end Sys2Proof.Machine

namespace Sys2Proof

open Machine

/-- Settles O60: each instruction enters one operation on top of the queues it pops and reserves. -/
theorem memoryInstructionsOnlyEnter : Obligations.MemoryInstructionsOnlyEnter := by
  intro s
  obtain ⟨loads, st, atm, acas, acas2, stbind, ranges, lines⟩ := scuMemoryInstructionsEnter
  obtain ⟨vld, vldt, vst, vstm, vldq, vgath, vscat, vpref, -⟩ := vectorMemoryInstructionsEnter
  refine ⟨?load, ?store, ?vld, ?rowStore, ?atomic, ?management, ?vldt, ?vldq, ?vgath, ?vscat, ?vpref⟩
  case load =>
    intro t d m w
    obtain ⟨ld, ldn, lda⟩ := loads t d m w
    simp only [List.forall_mem_cons]
    have enters (i : Instr) (issues : Issues i (fun _ => needsLd d m w) (loadEffect i t d m w))
        (ready : s.ready (needsLd d m w) = true) :
        ∃ u o, exec i s = .next u ∧ OnlyEnters s u o true ∧ o.instr = i ∧ u.hbm = s.hbm := by
      obtain ⟨o, only, own⟩ := loadEffect_enters s i t d m w
      exact ⟨_, o, (issues s).1 ready, only, own, OnlyEnters.hbm only⟩
    exact ⟨enters _ ld, enters _ ldn, enters _ lda, fun _ mem => nomatch mem⟩
  case store =>
    intro t x m w ready
    obtain ⟨o, only, own⟩ := storeEffect_enters s t x m w
    exact ⟨_, o, (st t x m w s).1 ready, only, own, OnlyEnters.stashByte only⟩
  case vld =>
    intro d m w ready
    obtain ⟨o, only, own, addr⟩ := rowLoadEffect_enters s (.vld d m w) d m 256 (BitVec.allOnes 256) w
    exact ⟨_, o, (vld d m w s).1 ready, only, own, addr⟩
  case rowStore =>
    intro x m p w ready
    obtain ⟨o, only, addr, -⟩ := rowStoreEffect_enters s (.vst x m w) x m (BitVec.allOnes 256) w
    obtain ⟨o', only', -, mask⟩ := rowStoreEffect_enters s (.vstm x m p w) x m (s.cur.vpr p) w
    exact ⟨⟨_, o, (vst x m w s).1 ready, only, addr, OnlyEnters.stashByte only⟩,
      ⟨_, o', (vstm x m p w s).1 ready, only', mask, OnlyEnters.hbm only'⟩⟩
  case atomic =>
    intro op wide d x b w
    simp only [List.forall_mem_cons]
    exact ⟨enters_of_issues (atm op wide d b x w) (atmEffect_enters s op wide d b x w),
      enters_of_issues (acas wide d b x w) (acasEffect_enters s wide d b x w),
      enters_of_issues (acas2 d b x w) (acas2Effect_enters s d b x w), fun _ mem => nomatch mem⟩
  case management =>
    intro r b w
    obtain ⟨stunbd, stflsh, stdrop, sttch⟩ := ranges r w
    obtain ⟨cflsh, cinv, cdisc⟩ := lines r b w
    simp only [List.forall_mem_cons]
    have enters {i : Instr} {addr : State → W64} {rows : Bool}
        (issues : Issues i (fun _ => needsMgmt r w) (mgmtEffect i r addr rows w)) :=
      enters_of_issues issues (mgmtEffect_enters s i r addr rows w)
    exact ⟨enters (stbind r b w), enters stunbd, enters stflsh, enters stdrop, enters sttch, enters cflsh, enters cinv,
      enters cdisc, fun _ mem => nomatch mem⟩
  case vldt =>
    intro d m p w
    obtain ⟨o, only, own, -⟩ := rowLoadEffect_enters s (.vldt d m p w) d m 32 (s.cur.vpr p) w
    exact enters_of_issues (vldt d m p w) ⟨o, only, own⟩
  case vldq =>
    intro q m p w ready
    have only := s.reserved_modCtx_enters q (fun x => x.setA m.base (s.ctx.ar m.base + s.ctx.increment m))
    refine ⟨_, _, (vldq q m p w s).1 ready, only _, rfl, rfl, (OnlyEnters.hbm (only _)).trans (State.modCtx_hbm s _),
      fun c q' j => ?_⟩
    rw [OnlyEnters.stashByte (only _), stashByte_modCtx]
  case vgath => exact fun d b sh ix p w => lanes_of_issues (vgath d b sh ix p w) (gatherEffect_entersLanes s _ 0 b ix p w true)
  case vscat =>
    exact fun x b sh ix p w => lanes_of_issues (vscat x b sh ix p w)
      (gatherEffect_popped_entersLanes s (s.cur.readV_queues x) _ _ b ix p w false)
  case vpref => exact fun b sh ix p w => lanes_of_issues (vpref b sh ix p w) (gatherEffect_entersLanes s _ 0 b ix p w true)

end Sys2Proof
end
